-- ==== Sys2Proof/Word.lean ====
section
/-!
DEFINITION. Characters, texts and the 16-bit word of the check suffix.
-/

namespace Sys2Proof

/-- A character of a serial line, "taken as its 8-bit character code" (R189). -/
abbrev Chr := BitVec 8

/-- A run of characters, first one first. -/
abbrev Text := List Chr

/-- The word of the CRC-16 check (R189). -/
abbrev Crc := BitVec 16

/-- The characters of a literal. -/
def text (s : String) : Text := s.toList.map (fun ch => BitVec.ofNat 8 ch.toNat)

end Sys2Proof
end

