-- ==== Sys2Proof/Config.lean ====
section
/-!
DEFINITION. What the part fixes (sizes and waits, each with its rule) and the one value the manual leaves open.
Waits on the crystal are in sixteenths of a crystal second.
-/

namespace Sys2Proof.Config

/-- Pupil slots, 0..3071 (R57). -/
def slotCount : Nat := 3072
/-- Contact records, 0..4095 (R59). -/
def contactCount : Nat := 4096
/-- Highest pupil number (R57). -/
def pupilNumberMax : Nat := 999999
/-- Entries of the exception list (R7). -/
def exceptionMax : Nat := 64
/-- Entries of the ring table (R29). -/
def ringMax : Nat := 192
/-- Highest issue of a ring entry (R29). -/
def issueMax : Nat := 255
/-- Entries of the arrival queue (R103). -/
def queueMax : Nat := 32
/-- A station's queue entries and waiting slips together (R103). -/
def stationShare : Nat := 8
/-- Excuse records (R146). -/
def excuseMax : Nat := 256
/-- Outbox entries (R159). -/
def outboxMax : Nat := 512
/-- In-flight records (R165). -/
def inflightMax : Nat := 8
/-- Notices of the notice list (R192). -/
def noticeMax : Nat := 32
/-- Characters of the request line buffer (R188). -/
def lineMax : Nat := 240
/-- Characters of a sent message (R171). -/
def messageMax : Nat := 160
/-- Pupils of one MARK BATCH (R83). -/
def batchMax : Nat := 32
/-- Highest value of the change sequence (R80). -/
def changeMax : Nat := 4294967295
/-- Clamp of minutes late (R77, R119). -/
def minutesMax : Nat := 240
/-- Saturation of the tardy score (R128). -/
def scoreMax : Nat := 65535
/-- Clamp of the delay total in minutes (R34). -/
def delayMax : Nat := 120
/-- Seconds of a day. -/
def daySeconds : Nat := 86400
/-- Dates from 2000-01-01 to 2099-12-31 (R1). -/
def dateCount : Nat := 36525
/-- Greatest error that is slewed, in sixteenths (R4). -/
def slewMax : Nat := 1920

/-- Sixteenths of a crystal second (R2). -/
def sixteenths : Nat := 16
/-- Stale wait of a DUE entry, 60 s (R48). -/
def staleWait : Nat := 60 * sixteenths
/-- Spacing of status polls, 60 s (R49). -/
def pollSpacing : Nat := 60 * sixteenths
/-- Length of the ALL_CLEAR broadcast in seconds (R54). -/
def allClearSeconds : Nat := 10
/-- Spacing of poll cycles while ACTIVE or QUIET, 250 ms (R100). -/
def cycleAwake : Nat := 4
/-- Spacing of poll cycles while DORMANT, 500 ms (R100). -/
def cycleDormant : Nat := 8
/-- Answer window of an offer, 5 s (R169). -/
def offerWindow : Nat := 5 * sixteenths
/-- Silence before a retry, 30 s (R166). -/
def silentWait : Nat := 30 * sixteenths
/-- Wait for a result, 600 s (R170). -/
def resultWait : Nat := 600 * sixteenths
/-- Service wait of a CALL wake, 60 s (R198). -/
def serviceWait : Nat := 60 * sixteenths
/-- Consecutive low samples that qualify the ALERT pin (R180). -/
def pinQualifies : Nat := 20
/-- Consecutive misses that make a station FAULTED (R101). -/
def missMax : Nat := 12
/-- Highest call count (R112). -/
def callMax : Nat := 255
/-- Call threshold while ACTIVE or QUIET (R112). -/
def callAwake : Nat := 8
/-- Call threshold while DORMANT (R112). -/
def callDormant : Nat := 4

/-- FREE VALUE (log 21): the seconds that a scheduled ring entry contributes to its broadcast when its zone is not in
today's copy. R44 takes the duration "in today's copy" and R41 can carry an entry over for a zone outside it; the manual
states no value. Applied to the zone and the rank of the tone. -/
opaque freeDuration : Nat → Nat → Nat

/-- The free duration within the manual's own bound for a bell, 1..30 s (R22). -/
def durationOutsideCopy (zone rank : Nat) : Nat := 1 + freeDuration zone rank % 30

end Sys2Proof.Config
end

