-- ==== Sys2Proof/Syntax.lean ====
section
/-!
DEFINITION. The commands: one constructor of `Instr` per row of spec/opcode_table.json, after the words and fields
that their operands are made of. A field `sfx` says that the request line ended in a good check suffix (R189). A field
`ws` holds the answers of the store to the writes of the command, in order, true for "the read-back agrees" (R62, R63);
writes beyond the list succeed (log 9). A field of type `Option` over a vocabulary is none when the line holds a word
that is not in the vocabulary.
-/

namespace Sys2Proof

/-- Days of the week (R7). -/
inductive Weekday where
  | mon | tue | wed | thu | fri | sat | sun
  deriving DecidableEq, Repr

/-- A date as written, before it is checked (R188). -/
structure DateField where
  year : Nat
  month : Nat
  day : Nat
  deriving DecidableEq, Repr

/-- A time of day as written, hh:mm or hh:mm:ss (R188). -/
structure TimeField where
  hour : Nat
  minute : Nat
  second : Option Nat
  deriving DecidableEq, Repr

/-- A time of day as written, hh:mm. -/
structure MinuteField where
  hour : Nat
  minute : Nat
  deriving DecidableEq, Repr

/-- What an exception entry says of its date (R7). -/
inductive ExceptKind where
  | noSchool
  | school (plan : Nat)
  deriving DecidableEq, Repr

/-- Kinds of period (R20). -/
inductive PeriodKind where
  | registration | lesson | recess | lunch
  deriving DecidableEq, Repr

/-- One period description of PLAN PUT (R21). -/
structure PeriodField where
  kind : Option PeriodKind
  start : MinuteField
  length : Nat
  warn : Bool
  ring : Bool
  deriving DecidableEq, Repr

/-- Tones of ring table entries (R29). -/
inductive BellTone where
  | warn | ring | endBell | test
  deriving DecidableEq, Repr

/-- The zones field of RING (R39). -/
inductive ZonesField where
  | all
  | list (zones : List Nat)
  deriving DecidableEq, Repr

/-- The key of a ring table entry; period none is MANUAL (R29). -/
structure RingKey where
  zone : Nat
  period : Option Nat
  tone : BellTone
  issue : Nat
  deriving DecidableEq, Repr

/-- Fault codes a zone driver reports (file 03, 3.1). -/
inductive DriverFault where
  | lineOpen | ampFault | overheat
  deriving DecidableEq, Repr

/-- Answers of a zone driver to STATUS (file 03, 3.1). -/
inductive DriverAnswer where
  | ready
  | sounding
  | fault (code : DriverFault)
  deriving DecidableEq, Repr

/-- Entries of the template map (R61). -/
inductive MapEntry where
  | absence | correction | late | escalation1 | escalation2 | escalation3 | confirm | alert
  deriving DecidableEq, Repr

/-- A pupil named by slot or by pupil number (R58). -/
inductive PupilRef where
  | slot (n : Nat)
  | number (n : Nat)
  deriving DecidableEq, Repr

/-- A pupil of a list, with the characters it was written in (R83). -/
structure WrittenPupil where
  ref : PupilRef
  written : Text
  deriving DecidableEq, Repr

/-- Contact channels (R59). -/
inductive Channel where
  | sms | voice
  deriving DecidableEq, Repr

/-- Mark values, in the order of R73. -/
inductive MarkValue where
  | unset | present | late | lateExcused | absent | absentExcused | offsite | notRequired
  deriving DecidableEq, Repr

/-- The sources that a host mark request may name (R81). -/
inductive HostSource where
  | teacher | office
  deriving DecidableEq, Repr

/-- The registration periods AM and PM. -/
inductive Reg where
  | am | pm
  deriving DecidableEq, Repr

/-- A period named by number or as AM or PM (R81). -/
inductive PeriodRef where
  | number (n : Nat)
  | reg (r : Reg)
  deriving DecidableEq, Repr

/-- The periods field of EXPORT (R89). -/
inductive PeriodsField where
  | all
  | list (periods : List PeriodRef)
  deriving DecidableEq, Repr

/-- Directions of an export (R89). -/
inductive Direction where
  | up | down
  deriving DecidableEq, Repr

/-- End modes of an export (R89). -/
inductive EndMode where
  | once | wrap
  deriving DecidableEq, Repr

/-- Kinds of station entry (R102). -/
inductive EntryKind where
  | signIn | signOut
  deriving DecidableEq, Repr

/-- Codes of a station FAULT answer (R102). -/
inductive StationFault where
  | printer | reader
  deriving DecidableEq, Repr

/-- Kinds of excuse (R146). -/
inductive ExcuseKind where
  | absenceDay | lateAllowance
  deriving DecidableEq, Repr

/-- The handle of a SEND: the entry id and a position, or a contact index for a broadcast (R165). -/
structure Handle where
  id : Nat
  position : Nat
  deriving DecidableEq, Repr

/-- Reasons of the gateway's FAILED line (R165). -/
inductive GatewayReason where
  | invalid | refused | noAnswer | expired
  deriving DecidableEq, Repr

/-- The target field of SEND (R174). -/
inductive SendTarget where
  | pupil (p : PupilRef)
  | all
  | years (list : List Nat)
  deriving DecidableEq, Repr

/-- The source of a message: a template or a host text (R159). -/
inductive Source where
  | template (t : Nat)
  | host (message : Text)
  deriving DecidableEq, Repr

/-- Kinds of alert (R179). -/
inductive AlertKind where
  | lockdown | evacuate
  deriving DecidableEq, Repr

/-- The message field of ALERT START and ALERT NOTIFY (R181). -/
inductive AlertMessage where
  | template (t : Nat)
  | default
  deriving DecidableEq, Repr

/-- The wake flags that have an enable (R197). -/
inductive WakeEnable where
  | gateway | call | time
  deriving DecidableEq, Repr

/-- The items of the store (R62). `excuses` is the whole excuse list, `excuse i` the check of its i-th record. -/
inductive StoreItem where
  | weekdays | exceptions | rota
  | plan (p : Nat)
  | zone (z : Nat)
  | stations
  | template (t : Nat)
  | templateMap | school | gateway | policy
  | slot (n : Nat)
  | contact (n : Nat)
  | excuses
  | excuse (i : Nat)
  deriving DecidableEq, Repr

/-- The commands of the FOC-24, one per row of spec/opcode_table.json. -/
inductive Instr where
  | coldStart (bad : List StoreItem)
  | clockTick (ws : List Bool)
  | timeSet (sfx : Bool) (date : DateField) (time : TimeField) (force : Bool) (ws : List Bool)
  | timeGet (sfx : Bool)
  | calSet (sfx : Bool) (days : List (Option Weekday)) (ws : List Bool)
  | calGet (sfx : Bool)
  | exceptPut (sfx : Bool) (date : DateField) (kind : ExceptKind) (ws : List Bool)
  | exceptDel (sfx : Bool) (date : DateField) (ws : List Bool)
  | rotaSet (sfx : Bool) (length : Nat) (plans : List Nat) (index : Nat) (ws : List Bool)
  | dayGet (sfx : Bool)
  | planPut (sfx : Bool) (p : Nat) (name : Text) (lead lag grace close : Nat) (periods : List PeriodField) (ws : List Bool)
  | planGet (sfx : Bool) (p : Nat)
  | zonePut (sfx : Bool) (z : Nat) (present : Bool) (offset : Int) (lead address warnDur ringDur endDur : Nat) (ws : List Bool)
  | zoneGet (sfx : Bool) (z : Nat)
  | zoneArm (sfx : Bool) (z : Nat)
  | timesGet (sfx : Bool) (z : Nat)
  | delay (sfx : Bool) (d : Nat) (ws : List Bool)
  | earlyClose (sfx : Bool) (x : Nat) (ws : List Bool)
  | planToday (sfx : Bool) (p : Nat) (ws : List Bool)
  | ring (sfx : Bool) (zones : ZonesField) (tone : Option BellTone) (duration : Nat)
  | ringsGet (sfx : Bool)
  | broadcast
  | soundingEnd
  | statusPoll
  | statusAnswer (address : Nat) (answer : DriverAnswer)
  | statusWindowEnd
  | staleWaitEnd (entry : RingKey)
  | zbusGet (sfx : Bool)
  | templatePut (sfx : Bool) (t : Nat) (message : Text) (ws : List Bool)
  | templateGet (sfx : Bool) (t : Nat)
  | schoolSet (sfx : Bool) (name : Text) (ws : List Bool)
  | schoolGet (sfx : Bool)
  | templateMap (sfx : Bool) (entry : Option MapEntry) (t : Nat) (ws : List Bool)
  | templateMapGet (sfx : Bool)
  | storeGet (sfx : Bool)
  | pupilPut (sfx : Bool) (slot number : Nat) (name : Text) (year zone : Nat) (contacts : List Nat) (late priority : Bool) (ws : List Bool)
  | pupilRemove (sfx : Bool) (pupil : PupilRef) (ws : List Bool)
  | pupilGet (sfx : Bool) (pupil : PupilRef)
  | rosterGet (sfx : Bool)
  | contactPut (sfx : Bool) (n : Nat) (number : Text) (channel : Option Channel) (ws : List Bool)
  | contactGet (sfx : Bool) (n : Nat)
  | scoreSet (sfx : Bool) (t1 t2 t3 h d : Nat) (ws : List Bool)
  | scoreGet (sfx : Bool)
  | markSet (sfx : Bool) (pupil : PupilRef) (period : PeriodRef) (value : Option MarkValue) (minutes : Option Nat) (reason : Nat) (source : Option HostSource)
  | markBatch (sfx : Bool) (period : PeriodRef) (value : Option MarkValue) (minutes : Option Nat) (reason : Nat) (source : Option HostSource) (pupils : List WrittenPupil)
  | markGet (sfx : Bool) (pupil : PupilRef)
  | tally (sfx : Bool)
  | tallyYesterday (sfx : Bool)
  | exportStart (sfx : Bool) (first count : Nat) (dir : Option Direction) (periods : PeriodsField) (block : Nat) (endMode : Option EndMode)
  | exportNext (sfx : Bool)
  | registerResume (sfx : Bool)
  | stationSet (sfx : Bool) (list : List (Option Nat)) (ws : List Bool)
  | stationGet (sfx : Bool)
  | pollCycle
  | stationPollMiss
  | stationIdle (station : Nat)
  | stationEntry (station tag : Nat) (kind : EntryKind) (number : Text) (reason : Nat)
  | stationCall (station : Nat)
  | stationFaultAnswer (station : Nat) (code : StationFault)
  | processEntry (ws : List Bool)
  | sweepStep (r : Reg) (ws : List Bool)
  | sweepNow (sfx : Bool) (r : Option Reg)
  | sweepGet (sfx : Bool)
  | excusePut (sfx : Bool) (pupil : PupilRef) (kind : Option ExcuseKind) (allowance : Option Nat) (date : DateField) (ws : List Bool)
  | excuseDel (sfx : Bool) (pupil : PupilRef) (kind : Option ExcuseKind) (date : DateField) (ws : List Bool)
  | excuseList (sfx : Bool) (pupil : Option PupilRef)
  | recv (number message : Text) (ws : List Bool)
  | handover
  | taken (handle : Handle)
  | reject (handle : Handle)
  | delivered (handle : Handle)
  | failed (handle : Handle) (reason : GatewayReason) (ws : List Bool)
  | gatewayReady
  | gatewayLineInvalid (line : Text)
  | offerWindowEnd
  | silentEnd
  | resultTimeout (handle : Handle)
  | send (sfx : Bool) (target : SendTarget) (source : Source)
  | withdraw (sfx : Bool) (id : Nat)
  | outboxGet (sfx : Bool) (id : Option Nat)
  | gatewaySet (sfx : Bool) (pace : Nat) (winStart winEnd : MinuteField) (settle band : Nat) (ws : List Bool)
  | gatewayGet (sfx : Bool)
  | alertPinSample (low : Bool)
  | alertStart (sfx : Bool) (kind : Option AlertKind) (message : Option AlertMessage)
  | alertNotify (sfx : Bool) (message : AlertMessage)
  | alertGet (sfx : Bool)
  | rollMark (sfx : Bool) (pupil : PupilRef)
  | rollGet (sfx : Bool) (zone : Option Nat)
  | alertEnd (sfx : Bool) (ws : List Bool)
  | hostLineInvalid (line : Text)
  | unknownRequest (line : Text)
  | busyLine (line : Text)
  | replyEnd
  | notice (sfx : Bool)
  | status (sfx : Bool)
  | version (sfx : Bool)
  | restart (sfx : Bool)
  | warmRestart (bad : List StoreItem) (ws : List Bool)
  | dormant (sfx : Bool)
  | dormantEntered
  | serviceWaitEnd
  | wakeSet (sfx : Bool) (enables : List (Option WakeEnable)) (time : Option MinuteField)
  | wakeGet (sfx : Bool)
  deriving DecidableEq, Repr

end Sys2Proof
end

