-- ==== Sys2Proof/Decode.lean ====
section
/-!
DEFINITION. The commands that words spell. spec/opcode_table.json gives no row any bits: a command of the FOC-24 is a text
line, an answer on a line, or an event, and no word spells one. Request lines are read by `Machine.readLine`.
-/

namespace Sys2Proof

/-- No row of the table has bits, so no word spells a command. -/
def decodeTableWord (_nbits _w : Nat) : Option Instr := none

end Sys2Proof
end

