-- ==== Sys2Proof/Machine/State.lean ====
section
/-!
DEFINITION. The state of the FOC-24, block by block as file 00 names them, and the state after reset.
Plain data: the clock, the ten blocks, and the queue of commands.
-/

namespace Sys2Proof.Machine

/-! ## Faults and refusals -/

/-- The manual names no machine stop: every error is a reply code, a notice or a state. No meaning faults. -/
inductive Fault where
  deriving DecidableEq, Repr

/-- Why a command has no meaning. -/
inductive Refusal where
  /-- Raised by `exec` alone, for a row of the table without a meaning; safe. -/
  | notModelled (mnemonic : String)
  deriving DecidableEq, Repr

/-! ## Tables and time -/

/-- A table by key, keys strictly rising, no entry equal to what an unlisted key reads as. -/
abbrev Table (α : Type) := List (Nat × α)

/-- A date as a day number: 0 is 2000-01-01, 36524 is 2099-12-31 (R1). -/
abbrev Date := Nat

/-- A date and second of day. -/
structure Stamp where
  date : Date
  second : Nat
  deriving DecidableEq, Repr

/-- DATE, SECOND and FRACTION of a clock that is not UNSET (R1). -/
structure Reading where
  date : Date
  second : Nat
  fraction : Nat
  deriving DecidableEq, Repr

/-- The school clock (R1) and the count of sixteenths of crystal seconds since the cold start. -/
structure Clock where
  crystal : Nat
  reading : Option Reading
  slew : Int
  deriving DecidableEq, Repr

/-- Clock states (R1). -/
inductive ClockState where
  | unset | running | slewing
  deriving DecidableEq, Repr

/-! ## CCU (file 01) -/

/-- An entry of the exception list (R7). -/
structure Exception where
  date : Date
  kind : ExceptKind
  deriving DecidableEq, Repr

/-- The rota (R7): its length is that of `plans`. -/
structure Rota where
  plans : List Nat
  index : Nat
  deriving DecidableEq, Repr

/-- Day kinds. -/
inductive DayKind where
  | school | noSchool
  deriving DecidableEq, Repr

/-- Day phases. -/
inductive Phase where
  | closed | opened
  deriving DecidableEq, Repr

/-- The day record (R12). -/
structure DayRecord where
  date : Date
  kind : DayKind
  plan : Option Nat
  phase : Phase
  done : Bool
  deriving DecidableEq, Repr

/-! ## BS (file 02) -/

/-- A period of a plan; start in minutes of day (R20). -/
structure Period where
  kind : PeriodKind
  start : Nat
  length : Nat
  warn : Bool
  ring : Bool
  deriving DecidableEq, Repr

/-- A plan record (R20). -/
structure Plan where
  name : Text
  periods : List Period
  lead : Nat
  lag : Nat
  grace : Nat
  close : Nat
  deriving DecidableEq, Repr

/-- A zone record (R22). -/
structure Zone where
  present : Bool
  offset : Int
  lead : Nat
  address : Nat
  warnDur : Nat
  ringDur : Nat
  endDur : Nat
  deriving DecidableEq, Repr

/-- The states that a FAULTED zone remembers (R22). -/
inductive ArmState where
  | armed | silenced
  deriving DecidableEq, Repr

/-- The state of a present zone (R22). -/
inductive ZoneState where
  | up (s : ArmState)
  | faulted (remembered : ArmState)
  deriving DecidableEq, Repr

/-- A zone of today's zone set, with its copied items (R25). -/
structure TodayZone where
  zone : Nat
  offset : Int
  lead : Nat
  warnDur : Nat
  ringDur : Nat
  endDur : Nat
  deriving DecidableEq, Repr

/-- Today's copy (R25). -/
structure Today where
  plan : Plan
  zones : List TodayZone
  delayTotal : Nat
  early : Option Nat
  openReading : Nat
  deriving DecidableEq, Repr

/-- States of a ring table entry (R29). -/
inductive RingState where
  | pending | due | sounding | rung | failed | passed | cancelled
  deriving DecidableEq, Repr

/-- A ring table entry (R29). `dueSince` is the crystal count at which the stale wait began (R48); `byEarlyClose` tells
the END entries of R37 from those of R30; `stamp` is the entry's place in the order of creation (log 36). -/
structure RingEntry where
  zone : Nat
  period : Option Nat
  tone : BellTone
  issue : Nat
  time : Nat
  duration : Option Nat
  state : RingState
  lateBy : Option Nat
  dueSince : Option Nat
  byEarlyClose : Bool
  stamp : Nat
  deriving DecidableEq, Repr

/-- The Bell Scheduler beyond its stored records. -/
structure Bells where
  zoneStates : Vector (Option ZoneState) 6
  today : Option Today
  ring : List RingEntry
  nextStamp : Nat
  pendingDelay : Nat
  deriving DecidableEq, Repr

/-! ## ZBC (file 03) -/

/-- Tones of the zone bus (file 03, 3.1). -/
inductive Tone where
  | bell (t : BellTone)
  | lockdown | evacuate | allClear
  deriving DecidableEq, Repr

/-- Bus states (R43). -/
inductive BusState where
  | idle | sounding | fetching | polling | alert
  deriving DecidableEq, Repr

/-- Codes of the fault memory (R43). -/
inductive FaultCode where
  | driver (f : DriverFault)
  | noReply
  deriving DecidableEq, Repr

/-- The fault memory of a zone (R43). -/
structure FaultMemory where
  code : Option FaultCode
  seen : Option Stamp
  deriving DecidableEq, Repr

/-- A zone and the driver address it was formed with (R43, log 22). -/
structure Member where
  zone : Nat
  address : Nat
  deriving DecidableEq, Repr

/-- The broadcast record (R43). `issuedAt` is the crystal count of the issue; its entries are the SOUNDING entries of the
ring table. In FETCHING, `position` is the member whose exchange is open. -/
structure Broadcast where
  tone : Tone
  members : List Member
  duration : Nat
  issueTime : Option Nat
  issuedAt : Nat
  position : Nat
  deriving DecidableEq, Repr

/-- The poll record (R43); `position` is the member whose exchange is open. -/
structure Poll where
  members : List Member
  position : Nat
  deriving DecidableEq, Repr

/-- The Zone Bus Controller. -/
structure ZoneBus where
  bus : BusState
  broadcast : Option Broadcast
  pollDue : Nat
  poll : Option Poll
  faults : Vector FaultMemory 6
  deriving DecidableEq, Repr

/-! ## RS (file 04) -/

/-- States of a non-vacant slot (R57); a VACANT slot is not listed. -/
inductive SlotState where
  | enrolled | left
  deriving DecidableEq, Repr

/-- A non-vacant slot (R57). -/
structure Slot where
  state : SlotState
  number : Nat
  name : Text
  year : Nat
  zone : Nat
  contacts : List Nat
  lateNotice : Bool
  priority : Bool
  score : Nat
  level : Nat
  deriving DecidableEq, Repr

/-- A contact record; number none is EMPTY (R59). -/
structure Contact where
  number : Option Text
  channel : Channel
  barred : Bool
  deriving DecidableEq, Repr

/-- The tardy policy (R70). -/
structure Policy where
  t1 : Nat
  t2 : Nat
  t3 : Nat
  h : Nat
  d : Nat
  deriving DecidableEq, Repr

/-- The gateway settings; the window in minutes of day (R176). -/
structure Settings where
  pace : Nat
  winStart : Nat
  winEnd : Nat
  settle : Nat
  band : Nat
  deriving DecidableEq, Repr

/-- Sources of an excuse record (R146). -/
inductive ExcuseSource where
  | parent | office
  deriving DecidableEq, Repr

/-- An excuse record (R146). -/
structure Excuse where
  slot : Nat
  kind : ExcuseKind
  allowance : Option Nat
  date : Date
  source : ExcuseSource
  received : Stamp
  contact : Option Nat
  used : Bool
  deriving DecidableEq, Repr

/-- Every stored item (R62): the shape of the store and of the working copies. -/
structure Image where
  weekdays : List Weekday
  exceptions : List Exception
  rota : Rota
  plans : Vector Plan 8
  zones : Vector Zone 6
  stations : List Nat
  templates : Vector (Option Text) 32
  templateMap : Vector Nat 8
  school : Text
  gateway : Settings
  policy : Policy
  slots : Table Slot
  contacts : Table Contact
  excuses : List Excuse
  deriving DecidableEq, Repr

/-- The Roster Store beyond the images: unsaved items (R63), records loaded as default (R72), and the store's answers to
the writes still to come in this command (log 9). -/
structure Roster where
  unsaved : List StoreItem
  defaulted : Nat
  answers : List Bool
  deriving DecidableEq, Repr

/-! ## DR (file 05) -/

/-- Sources of a mark (R73). -/
inductive Writer where
  | station | sweep | teacher | office | parent | system
  deriving DecidableEq, Repr

/-- Bands of a late arrival (R120). -/
inductive Band where
  | minor | major | afterClose
  deriving DecidableEq, Repr

/-- Notice status of a registration record (R73). -/
inductive NoticeStatus where
  | none | pending | sent | corrected | expired
  deriving DecidableEq, Repr

/-- Presence (R78). -/
inductive Presence where
  | notArrived | onSite | signedOut
  deriving DecidableEq, Repr

/-- A marked period of today's plan: its number, and AM or PM for a REGISTRATION period. -/
structure MarkedPeriod where
  number : Nat
  reg : Option Reg
  deriving DecidableEq, Repr

/-- A mark record (R73); `notice` is absent for a LESSON. -/
structure Mark where
  period : MarkedPeriod
  value : MarkValue
  source : Option Writer
  minutes : Option Nat
  reason : Option Nat
  timeSet : Option Nat
  band : Option Band
  notice : Option NoticeStatus
  deriving DecidableEq, Repr

/-- The register's items for one non-vacant slot. -/
structure SlotDay where
  marks : List Mark
  presence : Presence
  lastChange : Nat
  deriving DecidableEq, Repr

/-- The counts of one marked period (R79). -/
structure Tally where
  period : MarkedPeriod
  unset : Nat
  present : Nat
  late : Nat
  lateExcused : Nat
  absent : Nat
  absentExcused : Nat
  offsite : Nat
  notRequired : Nat
  minor : Nat
  major : Nat
  afterClose : Nat
  deriving DecidableEq, Repr

/-- Register states (R75). -/
inductive RegisterState where
  | normal | recovery
  deriving DecidableEq, Repr

/-- An ACTIVE export (R89). -/
structure Export where
  first : Nat
  count : Nat
  dir : Direction
  periods : List Nat
  block : Nat
  endMode : EndMode
  position : Nat
  visited : Nat
  epoch : Nat
  deriving DecidableEq, Repr

/-- The register of an open day. -/
structure Register where
  state : RegisterState
  periods : List MarkedPeriod
  slots : Table SlotDay
  onSite : Nat
  tallies : List Tally
  changes : Nat
  exporting : Option Export
  deriving DecidableEq, Repr

/-- Yesterday's set (R95). -/
structure Yesterday where
  date : Date
  plan : Nat
  tallies : List Tally
  onSite : Nat
  nonVacant : Nat
  deriving DecidableEq, Repr

/-- The Day Register. -/
structure DayRegister where
  register : Option Register
  yesterday : Option Yesterday
  deriving DecidableEq, Repr

/-! ## AD (file 06) -/

/-- States of a station (R98). -/
inductive StationState where
  | absent | ready | faulted
  deriving DecidableEq, Repr

/-- Conditions of a station; none is OK (R98). -/
abbrev Condition := Option StationFault

/-- Kinds of slip with their own fields (R111). -/
inductive SlipKind where
  | onTime
  | late (minutes : Nat) (band : Option Band) (exceeded : Bool)
  | lateExcused (minutes : Nat)
  | duplicate (first : Option Nat)
  | unknown
  | notIn
  | signedOut (reason : Nat)
  | returned
  | closed
  | evacuation
  deriving DecidableEq, Repr

/-- A slip (R111); `time` is a second of day shown as hh:mm. -/
structure Slip where
  kind : SlipKind
  tag : Nat
  time : Option Nat
  name : Option Text
  number : Option Text
  hold : Bool
  deriving DecidableEq, Repr

/-- A station record (R98). -/
structure Station where
  state : StationState
  condition : Condition
  misses : Nat
  calls : Nat
  callRaised : Bool
  lastTag : Option Nat
  ack : Option Nat
  slips : List Slip
  deriving DecidableEq, Repr

/-- A queue entry (R103). -/
structure QueueEntry where
  station : Nat
  tag : Nat
  kind : EntryKind
  number : Text
  reason : Nat
  taken : Option Stamp
  deriving DecidableEq, Repr

/-- The exchange of a poll cycle in progress (R100, R102). `void` says that its outcome acts on no station record: the
station is ABSENT or its record was made anew since the poll (R98, R99, log 37). -/
structure Exchange where
  station : Nat
  carriedSlip : Bool
  void : Bool
  deriving DecidableEq, Repr

/-- The Arrival Desk. `cycleStart` and `cycleNext` are crystal counts; `toPoll` the stations still to be polled in the
cycle in progress. -/
structure Desk where
  stations : Vector Station 4
  queue : List QueueEntry
  firstArrivals : Table Nat
  cycleStart : Nat
  cycleNext : Nat
  toPoll : List Nat
  asking : Option Exchange
  deriving DecidableEq, Repr

/-! ## AS (file 08) -/

/-- States of a sweep record (R132). -/
inductive SweepState where
  | waiting | running | blocked | suspended | done | skipped
  deriving DecidableEq, Repr

/-- A sweep record (R132). -/
structure Sweep where
  state : SweepState
  cutoff : Option Nat
  cursor : Nat
  notified : Nat
  onSite : Nat
  excused : Nat
  startedAt : Option Nat
  doneAt : Option Nat
  deriving DecidableEq, Repr

/-- The Absence Sweep. -/
structure Sweeps where
  am : Option Sweep
  pm : Option Sweep
  resume : Option Nat
  deriving DecidableEq, Repr

/-! ## PMU (files 09 and 10) -/

/-- Kinds of outbox entry (R159). -/
inductive OutKind where
  | alert | absence | correction | late | escalation | general | confirm
  deriving DecidableEq, Repr

/-- Classes of outbox entry (R159). -/
inductive OutClass where
  | alert | absence | late | escalation | general
  deriving DecidableEq, Repr

/-- Reasons of a FAILED contact (R161). -/
inductive FailReason where
  | gateway (r : GatewayReason)
  | barred | empty | timeout
  deriving DecidableEq, Repr

/-- Delivery states of a contact position (R161). -/
inductive Delivery where
  | waiting | inFlight | delivered
  | failed (r : FailReason)
  | cancelled
  deriving DecidableEq, Repr

/-- A contact position (R159). -/
structure Position where
  contact : Nat
  state : Delivery
  deriving DecidableEq, Repr

/-- The filter of a broadcast (R159). -/
inductive Filter where
  | all
  | years (list : List Nat)
  deriving DecidableEq, Repr

/-- The target of an entry (R159); positions are numbered from 1. -/
inductive Target where
  | slot (s : Nat) (positions : List Position)
  | broadcast (cursor : Nat) (filter : Filter) (delivered failed : Nat)
  deriving DecidableEq, Repr

/-- An outbox entry (R159). The class follows from the kind (R160); the state follows from the contacts and from `ready`,
which says that the eligible time has been reached (R161, R162). -/
structure OutEntry where
  id : Nat
  kind : OutKind
  target : Target
  reg : Option Reg
  source : Source
  time : Option Nat
  minutes : Option Nat
  level : Option Nat
  created : Option Stamp
  eligible : Option Stamp
  ready : Bool
  deriving DecidableEq, Repr

/-- States of an outbox entry (R161). -/
inductive OutState where
  | waiting | ready | sending | closing
  deriving DecidableEq, Repr

/-- An in-flight record (R165). -/
structure Inflight where
  handle : Handle
  takenAt : Nat
  deriving DecidableEq, Repr

/-- Gateway states (R166). -/
inductive GatewayState where
  | unknown | ready | notReady | silent
  deriving DecidableEq, Repr

/-- The open offer (R166). -/
structure Offer where
  handle : Handle
  sentAt : Nat
  deriving DecidableEq, Repr

/-- The Parent Message Unit beyond its stored items. `silentAt` is the crystal count of entering SILENT. -/
structure Messages where
  outbox : List OutEntry
  nextId : Nat
  inflight : List Inflight
  gateway : GatewayState
  silentAt : Nat
  offer : Option Offer
  lastSend : Option Nat
  deriving DecidableEq, Repr

/-! ## AC (file 11) -/

/-- Sources of an alert (R179). -/
inductive AlertSource where
  | host | pin
  deriving DecidableEq, Repr

/-- A roll entry (R185). `accountedAt` is the clock reading of the marking, absent while UNSET. -/
structure RollEntry where
  slot : Nat
  number : Nat
  zone : Nat
  name : Text
  accounted : Bool
  accountedAt : Option Nat
  deriving DecidableEq, Repr

/-- The alert in force (R179). `startedAt` and `changedAt` none are the NONE of the table. -/
structure Alert where
  kind : AlertKind
  source : AlertSource
  startedAt : Option Stamp
  changedAt : Option Stamp
  roll : Option (List RollEntry)
  deriving DecidableEq, Repr

/-- Alert Control; alert none is alert state NONE. -/
structure AlertControl where
  alert : Option Alert
  pinCount : Nat
  deriving DecidableEq, Repr

/-! ## HL (file 12) -/

/-- Reply codes (R190). -/
inductive ErrCode where
  | malformed | check | unknown | range | state | full | notFound | busy | tooLate | store
  deriving DecidableEq, Repr

/-- One field of a reply line. -/
inductive Field where
  | word (w : String)
  | num (n : Int)
  | date (d : Date)
  | hms (second : Nat)
  | hm (minute : Nat)
  | quoted (t : Text)
  | plain (t : Text)
  | nums (l : List Nat)
  | words (l : List String)
  | handle (h : Handle)
  deriving DecidableEq, Repr

/-- A reply (R190): its data lines, its closing line, and whether its lines carry a check suffix (R189). -/
structure Reply where
  data : List (List Field)
  closing : List Field
  sfx : Bool
  deriving DecidableEq, Repr

/-- Alert states as they are reported. -/
abbrev AlertState := Option AlertKind

/-- Codes of STATION_FAULT (R101). -/
inductive StationTrouble where
  | noReply
  | code (c : StationFault)
  deriving DecidableEq, Repr

/-- Causes of PARENT_TEXT (R150). -/
inductive TextCause where
  | noClock | noContact | noPupil | noKeyword | noName | noDay
  deriving DecidableEq, Repr

/-- The wake flags (R197). -/
inductive WakeFlag where
  | host | gateway | call | time | alert
  deriving DecidableEq, Repr

/-- The kinds of notice with the fields their raising rules give (R192). -/
inductive NoticeBody where
  | start (warm : Bool) (defaulted : Nat)
  | clockStep (old new : Stamp)
  | dayOpen (date : Date) (plan : Nat)
  | dayClose (date : Date)
  | bellMissedBuild (count : Nat)
  | bellMissedStep (count old new : Nat)
  | bellMissedStale (zone : Nat) (period : Option Nat) (tone : BellTone) (time : Nat)
  | zoneFault (zone address : Nat) (code : FaultCode)
  | zoneOk (zone address : Nat)
  | stationFault (station : Nat) (code : StationTrouble)
  | stationOk (station : Nat)
  | unknownPupil (station : Nat) (number : Text) (kind : EntryKind) (time : Nat)
  | unauthSignout (slot number station time : Nat)
  | sweepDone (r : Reg) (notified onSite excused : Nat) (startedAt doneAt : Option Nat)
  | unregisteredOnsite (slot number : Nat) (r : Reg) (presence : Presence)
  | undelivered (id : Nat) (kind : OutKind) (slot : Option Nat) (failed : Nat)
  | displaced (id : Nat) (kind : OutKind) (slot : Option Nat) (newKind : OutKind)
  | outboxFull (kind : OutKind) (slot : Option Nat) (r : Option Reg)
  | staleWithdrawn (count : Nat)
  | parentText (number message : Text) (cause : TextCause)
  | excuseFull (number message : Text)
  | excuseOnsite (slot number time : Nat)
  | levelDown (slot number old new score : Nat)
  | doorCall (station : Nat) (time : Option Nat)
  | alertPin (state : AlertState)
  | wake (flag : WakeFlag)
  deriving DecidableEq, Repr

/-- A notice and when it was raised (R192). -/
structure Notice where
  body : NoticeBody
  raised : Option Stamp
  deriving DecidableEq, Repr

/-- Activity states (R195). -/
inductive Activity where
  | active | quiet | dormant
  deriving DecidableEq, Repr

/-- A service wake (R198); `since` is the crystal count at which the service wait began. -/
inductive Service where
  | gateway
  | call (since : Nat)
  deriving DecidableEq, Repr

/-- The five wake flags (R197). -/
structure Flags where
  host : Bool
  gateway : Bool
  call : Bool
  time : Bool
  alert : Bool
  deriving DecidableEq, Repr

/-- The wake enables (R197). -/
structure Enables where
  gateway : Bool
  call : Bool
  time : Bool
  deriving DecidableEq, Repr

/-- How far a DORMANT request has come: none, its reply being sent, its reply sent (R196). -/
inductive DormantAsk where
  | none | replying | due
  deriving DecidableEq, Repr

/-- The Host Link. `busy` is the held BUSY answer with its suffix (R191); `wakeTime` is in minutes of day; lines arrive whole (log 15). -/
structure HostLink where
  lineBuffer : Text
  reply : Option Reply
  busy : Option Bool
  notices : List Notice
  overflow : Bool
  activity : Activity
  service : Option Service
  flags : Flags
  enables : Enables
  wakeTime : Option Nat
  restartAsked : Bool
  dormantAsked : DormantAsk
  deriving DecidableEq, Repr

/-! ## Lines to the outside -/

/-- Modes carried by a station poll (R102). -/
inductive StationMode where
  | lockdown | evacuation | opened | closed
  deriving DecidableEq, Repr

/-- What the part puts on one of its lines. -/
inductive Output where
  /-- SOUND to an address set; seconds none is CONTINUOUS (file 03, 3.1). -/
  | sound (addresses : List Nat) (tone : Tone) (seconds : Option Nat)
  | stop (addresses : List Nat)
  | statusTo (address : Nat)
  | stationPoll (station : Nat) (mode : StationMode) (ack : Option Nat) (slip : Option Slip)
  | gatewaySend (handle : Handle) (channel : Channel) (number message : Text)
  | hostReply (reply : Reply)
  deriving DecidableEq, Repr

/-! ## The part and the machine -/

/-- Everything but the clock and the queue. -/
structure Part where
  work : Image
  store : Image
  roster : Roster
  day : Option DayRecord
  bells : Bells
  zbus : ZoneBus
  reg : DayRegister
  desk : Desk
  sweeps : Sweeps
  pmu : Messages
  ac : AlertControl
  hl : HostLink
  out : List Output
  deriving DecidableEq, Repr

/-- The machine: the clock, the part, and the commands that wait, first in first out. -/
structure State where
  clock : Clock
  part : Part
  pending : List Instr
  deriving DecidableEq, Repr

/-! ## Store defaults -/

/-- The default plan's two periods (R20). -/
def Plan.defaultPeriods : List Period :=
  [⟨.registration, 525, 15, false, true⟩, ⟨.lesson, 540, 60, true, true⟩]

/-- A plan never written to the store (R20). -/
def Plan.fresh (p : Nat) : Plan :=
  { name := text "PLAN" ++ [BitVec.ofNat 8 (48 + p)], periods := Plan.defaultPeriods, lead := 60, lag := 60, grace := 120, close := 20 }

/-- A zone never written to the store (R22). -/
def Zone.fresh (z : Nat) : Zone :=
  { present := z == 0, offset := 0, lead := 120, address := z + 1, warnDur := 4, ringDur := 6, endDur := 8 }

/-- What an unlisted contact reads as (R59). -/
def Contact.fresh : Contact := { number := none, channel := .sms, barred := false }

/-- An opening brace. -/
def lbrace : Text := [123]
/-- A closing brace. -/
def rbrace : Text := [125]
/-- A field of a template in its braces (R60). -/
def fieldText (name : String) : Text := lbrace ++ text name ++ rbrace

/-- The template texts of a store never written (R61). -/
def templateFresh (t : Nat) : Option Text :=
  let school := fieldText "school" ++ text ": "
  let name := fieldText "name"
  match t with
  | 0 => some (school ++ name ++ text " was not registered " ++ fieldText "period" ++ text " on " ++ fieldText "date" ++ text ". Reply ABSENT if this is expected.")
  | 1 => some (school ++ name ++ text " arrived at " ++ fieldText "time" ++ text " on " ++ fieldText "date" ++ text ". Please disregard our earlier absence message.")
  | 2 => some (school ++ name ++ text " arrived " ++ fieldText "min" ++ text " min late at " ++ fieldText "time" ++ text " on " ++ fieldText "date" ++ text ".")
  | 3 => some (school ++ name ++ text " has reached lateness level " ++ fieldText "level" ++ text ". Please help with punctual arrival.")
  | 4 => some (school ++ name ++ text " has reached lateness level " ++ fieldText "level" ++ text ". The school will contact you.")
  | 5 => some (school ++ name ++ text " has reached lateness level " ++ fieldText "level" ++ text ". Please contact the school office.")
  | 6 => some (school ++ text "your message about " ++ name ++ text " for " ++ fieldText "date" ++ text " has been recorded.")
  | 7 => some (school ++ text "the school is following an emergency procedure. Do not come to the school. Further news will follow.")
  | _ => none

/-- The default gateway settings (R176). -/
def Settings.fresh : Settings := { pace := 2, winStart := 420, winEnd := 1200, settle := 10, band := 10 }

/-- The default tardy policy (R70). -/
def Policy.fresh : Policy := { t1 := 960, t2 := 1920, t3 := 3840, h := 320, d := 24 }

/-- The default rota (R7). -/
def Rota.fresh : Rota := { plans := [0], index := 0 }

/-- The default weekday set (R7). -/
def weekdaysFresh : List Weekday := [.mon, .tue, .wed, .thu, .fri]

/-- A store that has never been written. -/
def Image.fresh : Image :=
  { weekdays := weekdaysFresh, exceptions := [], rota := Rota.fresh
    plans := Vector.ofFn (fun i => Plan.fresh i.val), zones := Vector.ofFn (fun i => Zone.fresh i.val), stations := [0]
    templates := Vector.ofFn (fun i => templateFresh i.val), templateMap := Vector.ofFn (fun i => i.val), school := []
    gateway := Settings.fresh, policy := Policy.fresh, slots := [], contacts := [], excuses := [] }

/-! ## Reset -/

/-- An absent station (R98). -/
def Station.absent : Station :=
  { state := .absent, condition := none, misses := 0, calls := 0, callRaised := false, lastTag := none, ack := none, slips := [] }

/-- A station that becomes present (R98, R99). -/
def Station.fresh : Station := { Station.absent with state := .ready }

/-- Fault code NONE (R43). -/
def FaultMemory.fresh : FaultMemory := { code := none, seen := none }

/-- The clock after a cold start (R1). -/
def Clock.reset : Clock := { crystal := 0, reading := none, slew := 0 }

/-- The Bell Scheduler after a cold start, given the zone states (R22, R25, R41). -/
def Bells.reset (zoneStates : Vector (Option ZoneState) 6) : Bells :=
  { zoneStates := zoneStates, today := none, ring := [], nextStamp := 0, pendingDelay := 0 }

/-- The Zone Bus Controller after a cold start (R43, R55). -/
def ZoneBus.reset : ZoneBus :=
  { bus := .idle, broadcast := none, pollDue := 0, poll := none, faults := Vector.replicate 6 FaultMemory.fresh }

/-- The Arrival Desk after a cold start, given the station records (R98, R110, R114). -/
def Desk.reset (stations : Vector Station 4) : Desk :=
  { stations := stations, queue := [], firstArrivals := [], cycleStart := 0, cycleNext := 0, toPoll := [], asking := none }

/-- The Absence Sweep after a cold start (R132). -/
def Sweeps.reset : Sweeps := { am := none, pm := none, resume := none }

/-- The Parent Message Unit after a cold start (R178). -/
def Messages.reset : Messages :=
  { outbox := [], nextId := 1, inflight := [], gateway := .unknown, silentAt := 0, offer := none, lastSend := none }

/-- Every wake flag clear (R194). -/
def Flags.clear : Flags := { host := false, gateway := false, call := false, time := false, alert := false }

/-- The Host Link after a cold start that loaded `defaulted` records as default (R194). -/
def HostLink.reset (defaulted : Nat) : HostLink :=
  { lineBuffer := [], reply := none, busy := none, notices := [{ body := .start false defaulted, raised := none }]
    overflow := false, activity := .quiet, service := none, flags := Flags.clear
    enables := { gateway := true, call := true, time := true }, wakeTime := none, restartAsked := false, dormantAsked := .none }

/-- ARMED for a present zone, no state for an absent one (R22). -/
def zoneStatesReset (zones : Vector Zone 6) : Vector (Option ZoneState) 6 :=
  Vector.ofFn (fun i => if zones[i].present then some (.up .armed) else none)

/-- READY for a present station, ABSENT for another (R98). -/
def stationsReset (present : List Nat) : Vector Station 4 :=
  Vector.ofFn (fun i => if i.val ∈ present then Station.fresh else Station.absent)

/-- The part after a cold start, given the store and its loaded image (R194 and the reset tables of every chapter). -/
def Part.reset (store work : Image) (defaulted : Nat) : Part :=
  { work := work, store := store, roster := { unsaved := [], defaulted := defaulted, answers := [] }, day := none
    bells := Bells.reset (zoneStatesReset work.zones), zbus := ZoneBus.reset, reg := { register := none, yesterday := none }
    desk := Desk.reset (stationsReset work.stations), sweeps := Sweeps.reset, pmu := Messages.reset
    ac := { alert := none, pinCount := 0 }, hl := HostLink.reset defaulted, out := [] }

/-- The machine right after a cold start of a store that has never been written (log 13). -/
def State.reset : State :=
  { clock := Clock.reset, part := Part.reset Image.fresh Image.fresh 0, pending := [] }

end Sys2Proof.Machine
end

