-- ==== Sys2Proof/Machine/Calendar.lean ====
section
/-!
DEFINITION. Dates of 2000-01-01..2099-12-31 as day numbers, weekdays, and the day kind of a date (R7, R11).
-/

namespace Sys2Proof.Machine

/-- "In 2000..2099 every year divisible by 4 is a leap year" (R7). -/
def isLeap (y : Nat) : Bool := y % 4 == 0

/-- Lengths of the months of a year. -/
def monthLengths (y : Nat) : List Nat :=
  [31, if isLeap y then 29 else 28, 31, 30, 31, 30, 31, 31, 30, 31, 30, 31]

/-- Day number of 1 January of year `y`. -/
def yearStart (y : Nat) : Nat := 365 * (y - 2000) + (y - 2000 + 3) / 4

/-- The day number of a date as written; none outside 2000..2099 or "a date that does not exist in the calendar" (R3). -/
def dateOf (d : DateField) : Option Date :=
  if 2000 ≤ d.year ∧ d.year ≤ 2099 ∧ 1 ≤ d.month ∧ d.month ≤ 12 ∧ 1 ≤ d.day
      ∧ d.day ≤ (monthLengths d.year).getD (d.month - 1) 0 then
    some (yearStart d.year + ((monthLengths d.year).take (d.month - 1)).sum + (d.day - 1))
  else none

/-- The month and day of month of a day of the year, walking the month lengths from month `m`. -/
def monthDay : List Nat → Nat → Nat → Nat × Nat
  | [], m, doy => (m, doy + 1)
  | l :: ls, m, doy => if doy < l then (m, doy + 1) else monthDay ls (m + 1) (doy - l)

/-- Year, month and day of a day number. -/
def civil (d : Date) : DateField :=
  let q := d / 1461
  let r := d % 1461
  let y := if r < 366 then 2000 + 4 * q else 2000 + 4 * q + 1 + (r - 366) / 365
  let doy := if r < 366 then r else (r - 366) % 365
  let md := monthDay (monthLengths y) 1 doy
  ⟨y, md.1, md.2⟩

/-- "Midnight after 2099-12-31 gives 2000-01-01" (R2). -/
def nextDate (d : Date) : Date := if d + 1 < Config.dateCount then d + 1 else 0

/-- The days of the week in order. -/
def weekdays : List Weekday := [.mon, .tue, .wed, .thu, .fri, .sat, .sun]

/-- "2000-01-01 is a Saturday" (R7). -/
def weekdayOf (d : Date) : Weekday := weekdays.getD ((d + 5) % 7) .mon

/-- The plan at the rota's current index (R11). -/
def Rota.plan (r : Rota) : Nat := r.plans.getD r.index 0

/-- The day kind of a date and its plan: exception, weekday, otherwise (R11). -/
def Image.dayKind (img : Image) (d : Date) : DayKind × Option Nat :=
  match img.exceptions.find? (fun e => e.date == d) with
  | some ⟨_, .noSchool⟩ => (.noSchool, none)
  | some ⟨_, .school p⟩ => (.school, some p)
  | none => if weekdayOf d ∈ img.weekdays then (.school, some img.rota.plan) else (.noSchool, none)

/-- "An evaluation makes a new record with phase CLOSED and done no" (R12). -/
def Image.evaluate (img : Image) (d : Date) : DayRecord :=
  let k := img.dayKind d
  { date := d, kind := k.1, plan := k.2, phase := .closed, done := false }

/-- The first of the dates `d + 1 .. d + n` whose day kind is SCHOOL; dates beyond 2099 do not count (R153, log 28). -/
def Image.nextSchool (img : Image) (d : Date) : Nat → Option Date
  | 0 => none
  | n + 1 =>
    match img.nextSchool d n with
    | some s => some s
    | none => if d + n + 1 < Config.dateCount ∧ (img.dayKind (d + n + 1)).1 = .school then some (d + n + 1) else none

/-- The first of the dates `d .. d + n` with the given day of month and month (R153). -/
def findDayMonth (d : Date) (day month : Nat) : Nat → Option Date
  | 0 => if (civil d).day = day ∧ (civil d).month = month then some d else none
  | n + 1 =>
    match findDayMonth d day month n with
    | some s => some s
    | none =>
      if d + n + 1 < Config.dateCount ∧ (civil (d + n + 1)).day = day ∧ (civil (d + n + 1)).month = month then
        some (d + n + 1)
      else none

end Sys2Proof.Machine
end

