-- ==== Sys2Proof/Machine/Ops.lean ====
section
/-!
DEFINITION. The named operations that every block uses: tables by key, readings of the clock, the notice list, the lines
to the outside, writes of the store, and the members of the zone bus.
-/

namespace Sys2Proof.Machine

/-! ## Tables -/

/-- The entry of a key. -/
def Table.get? {α : Type} : Table α → Nat → Option α
  | [], _ => none
  | (j, a) :: t, k => if j = k then some a else Table.get? t k

/-- Writes the entry of a key, keeping the keys strictly rising. -/
def Table.put {α : Type} : Table α → Nat → α → Table α
  | [], k, a => [(k, a)]
  | (j, b) :: t, k, a =>
    if k < j then (k, a) :: (j, b) :: t else if k = j then (k, a) :: t else (j, b) :: Table.put t k a

/-- Removes the entry of a key. -/
def Table.erase {α : Type} (t : Table α) (k : Nat) : Table α := t.filter (fun e => e.1 != k)

/-- The canonical form: keys strictly rising. -/
def Table.wf {α : Type} : Table α → Bool
  | [] => true
  | [_] => true
  | a :: b :: t => decide (a.1 < b.1) && Table.wf (b :: t)

/-! ## Sorting -/

/-- Inserts before the first element that must not stand before it. -/
def insertBy {α : Type} (le : α → α → Bool) (a : α) : List α → List α
  | [] => [a]
  | b :: t => if le a b then a :: b :: t else b :: insertBy le a t

/-- Insertion sort, keeping the order of equal elements. -/
def sortBy {α : Type} (le : α → α → Bool) (l : List α) : List α := l.foldr (insertBy le) []

/-! ## The clock -/

/-- The date and second of day, NONE while UNSET. -/
def Clock.stamp (c : Clock) : Option Stamp := c.reading.map (fun r => ⟨r.date, r.second⟩)

/-- SECOND, while the clock is not UNSET. -/
def Clock.second? (c : Clock) : Option Nat := c.reading.map (·.second)

/-- SECOND where a rule reads it with a record open, which no UNSET clock has. -/
def Clock.second (c : Clock) : Nat := c.second?.getD 0

/-- The clock state (R1). -/
def Clock.state (c : Clock) : ClockState :=
  match c.reading with
  | none => .unset
  | some _ => if c.slew = 0 then .running else .slewing

/-- The second of the record's date that the clock shows; a DATE advanced beyond the record date is past every second of
that day (R16, log 8). -/
def Clock.dayNow (c : Clock) (r : DayRecord) : Nat :=
  match c.reading with
  | none => 0
  | some x => if x.date = r.date then x.second else Config.daySeconds

/-- Stamps in the order of time. -/
def Stamp.le (a b : Stamp) : Bool := decide (a.date < b.date) || (a.date == b.date && decide (a.second ≤ b.second))

/-- A stamp some seconds later; "past 86,399 s falls on the following date" (R162). -/
def Stamp.add (a : Stamp) (s : Nat) : Stamp :=
  if a.second + s < Config.daySeconds then ⟨a.date, a.second + s⟩
  else ⟨nextDate a.date, a.second + s - Config.daySeconds⟩

/-- Minutes of a time as written, none outside 00:00..23:59. -/
def minuteOf (m : MinuteField) : Option Nat :=
  if m.hour ≤ 23 ∧ m.minute ≤ 59 then some (m.hour * 60 + m.minute) else none

/-- Second of day of a time as written; "an hour above 23, or a minute or second above 59" gives none (R3). -/
def secondOf (t : TimeField) : Option Nat :=
  let s := t.second.getD 0
  if t.hour ≤ 23 ∧ t.minute ≤ 59 ∧ s ≤ 59 then some (t.hour * 3600 + t.minute * 60 + s) else none

/-! ## Notices and outside lines -/

/-- Raises a notice: appended, or dropped with the overflow flag set when the list holds 32 (R192). -/
def raise (c : Clock) (b : NoticeBody) (p : Part) : Part :=
  if p.hl.notices.length < Config.noticeMax then
    { p with hl.notices := p.hl.notices ++ [{ body := b, raised := c.stamp }] }
  else { p with hl.overflow := true }

/-- Puts something on a line. -/
def emit (o : Output) (p : Part) : Part := { p with out := p.out ++ [o] }

/-- ATTN: "low while the list holds at least one notice" (R192). -/
def Part.attnLow (p : Part) : Bool := !p.hl.notices.isEmpty

/-! ## The store -/

/-- Copies one stored item from an image to another. -/
def copyItem (src : Image) (dst : Image) : StoreItem → Image
  | .weekdays => { dst with weekdays := src.weekdays }
  | .exceptions => { dst with exceptions := src.exceptions }
  | .rota => { dst with rota := src.rota }
  | .plan n => { dst with plans := dst.plans.setIfInBounds n (src.plans.getD n (Plan.fresh n)) }
  | .zone n => { dst with zones := dst.zones.setIfInBounds n (src.zones.getD n (Zone.fresh n)) }
  | .stations => { dst with stations := src.stations }
  | .template n => { dst with templates := dst.templates.setIfInBounds n (src.templates.getD n none) }
  | .templateMap => { dst with templateMap := src.templateMap }
  | .school => { dst with school := src.school }
  | .gateway => { dst with gateway := src.gateway }
  | .policy => { dst with policy := src.policy }
  | .slot n =>
    { dst with slots := match Table.get? src.slots n with
                        | some x => Table.put dst.slots n x
                        | none => Table.erase dst.slots n }
  | .contact n =>
    { dst with contacts := match Table.get? src.contacts n with
                           | some x => Table.put dst.contacts n x
                           | none => Table.erase dst.contacts n }
  | .excuses => { dst with excuses := src.excuses }
  | .excuse _ => { dst with excuses := src.excuses }

/-- The store's answer to the next write: does the read-back agree (R62, log 9). -/
def storeAnswer (p : Part) : Bool := p.roster.answers.headD true

/-- The store has answered one write. -/
def answered (p : Part) : Part := { p with roster.answers := p.roster.answers.tail }

/-- A write that succeeds: the items and "every unsaved item" reach the store, and the marks are cleared (R63). -/
def saved (items : List StoreItem) (p : Part) : Part :=
  { p with store := (items ++ p.roster.unsaved).foldl (copyItem p.work) p.store, roster.unsaved := [] }

/-- A request's write (R62): when the read-back agrees the change is applied to the working copy and saved; otherwise the
store and the working copy stand, and the answer is false (ERR STORE). -/
def requestWrite (items : List StoreItem) (f : Image → Image) (p : Part) : Bool × Part :=
  if storeAnswer p then (true, saved items { answered p with work := f p.work }) else (false, answered p)

/-- Adds items to the unsaved marks, each once (log 10). -/
def markUnsaved (items : List StoreItem) (p : Part) : Part :=
  { p with roster.unsaved := items.foldl (fun l i => if i ∈ l then l else l ++ [i]) p.roster.unsaved }

/-- The part's own write (R63): the working copy has changed already; a failed write marks the items unsaved. -/
def ownWrite (items : List StoreItem) (p : Part) : Part :=
  if storeAnswer p then saved items (answered p) else markUnsaved items (answered p)

/-! ## Records of the working copy -/

/-- Slot n, none when VACANT (R57). -/
def Part.slot? (p : Part) (n : Nat) : Option Slot := Table.get? p.work.slots n

/-- Slot n when it is ENROLLED. -/
def Part.enrolled? (p : Part) (n : Nat) : Option Slot := (p.slot? n).filter (fun x => x.state == .enrolled)

/-- The non-vacant slot of a pupil number (R58). -/
def Image.slotOfNumber (img : Image) (n : Nat) : Option Nat := (img.slots.find? (fun e => e.2.number == n)).map (·.1)

/-- Contact n (R59). -/
def Image.contact (img : Image) (n : Nat) : Contact := (Table.get? img.contacts n).getD Contact.fresh

/-- Plan p of the working records (R20). -/
def Image.plan (img : Image) (n : Nat) : Plan := img.plans.getD n (Plan.fresh n)

/-- Template t of the working templates; none is EMPTY (R60). -/
def Image.template (img : Image) (n : Nat) : Option Text := img.templates.getD n none

/-- Position of a map entry in the order of R61. -/
def mapIndex : MapEntry → Nat
  | .absence => 0 | .correction => 1 | .late => 2 | .escalation1 => 3
  | .escalation2 => 4 | .escalation3 => 5 | .confirm => 6 | .alert => 7

/-- The template of a map entry (R61). -/
def Image.mapped (img : Image) (e : MapEntry) : Nat := img.templateMap.getD (mapIndex e) (mapIndex e)

/-- Replaces the working copy's slot. -/
def Part.setSlot (p : Part) (n : Nat) (x : Slot) : Part := { p with work.slots := Table.put p.work.slots n x }

/-! ## Zones -/

/-- The zone numbers, 0..5. -/
def zoneNumbers : List Nat := [0, 1, 2, 3, 4, 5]

/-- Zone record z. -/
def Image.zone (img : Image) (z : Nat) : Zone := img.zones.getD z (Zone.fresh z)

/-- The present zones in zone order. -/
def Image.presentZones (img : Image) : List Nat := zoneNumbers.filter (fun z => (img.zone z).present)

/-- Zones with their driver addresses, "in address order"; an address that two zones hold stands twice (R44, R49, log 51). -/
def membersOf (img : Image) (zones : List Nat) : List Member :=
  sortBy (fun a b => decide (a.address ≤ b.address)) (zones.map (fun z => ⟨z, (img.zone z).address⟩))

/-- Every present zone with its address. -/
def Image.presentMembers (img : Image) : List Member := membersOf img img.presentZones

/-- The addresses of a member list. -/
def addresses (l : List Member) : List Nat := l.map (·.address)

/-- State of zone z; none for an absent one (R22). -/
def Part.zoneState (p : Part) (z : Nat) : Option ZoneState := p.bells.zoneStates.getD z none

/-- Sets the state of zone z. -/
def Part.setZoneState (p : Part) (z : Nat) (s : Option ZoneState) : Part :=
  { p with bells.zoneStates := p.bells.zoneStates.setIfInBounds z s }

/-! ## Reading the shared items -/

/-- The alert state (R179). -/
def Part.alertState (p : Part) : AlertState := p.ac.alert.map (·.kind)

/-- Alert state NONE. -/
def Part.noAlert (p : Part) : Bool := p.ac.alert.isNone

/-- The day record while its phase is OPEN. -/
def Part.openDay (p : Part) : Option DayRecord := p.day.filter (fun r => r.phase == .opened)

/-- The second of the record's day that the clock shows (log 8). -/
def Part.now (p : Part) (c : Clock) : Nat := (p.day.map c.dayNow).getD c.second

/-- The day record is OPEN. -/
def Part.isOpen (p : Part) : Bool := p.openDay.isSome

/-- The number of non-vacant slots. -/
def Image.nonVacant (img : Image) : Nat := img.slots.length

end Sys2Proof.Machine
end

