-- ==== Sys2Proof/Machine/Times.lean ====
section
/-!
DEFINITION. Effective times of the periods of today's copy, the open time O and the close time C (R13, R15, R25 to R28).
-/

namespace Sys2Proof.Machine

/-- The shift in seconds: "the total delay in minutes times 60" (R25). -/
def Today.shift (t : Today) : Nat := t.delayTotal * 60

/-- Zone z of today's zone set. -/
def Today.zone? (t : Today) (z : Nat) : Option TodayZone := t.zones.find? (fun x => x.zone == z)

/-- The offset of zone z: copied, or 0 outside today's zone set (R26). -/
def Today.offset (t : Today) (z : Nat) : Int := ((t.zone? z).map (·.offset)).getD 0

/-- Plan start times 60, plus offset, plus shift, clamped below at 0 (R13, R26). -/
def startSecond (start : Nat) (offset : Int) (shift : Nat) : Nat := ((start : Int) * 60 + offset + shift).toNat

/-- S(k, z) before any cancellation (R26). -/
def Today.rawStart (t : Today) (q : Period) (z : Nat) : Nat := startSecond q.start (t.offset z) t.shift

/-- S and E of a period in zone z under R26; none when E would be greater than 86,399 (cancelled). -/
def Today.baseTimes (t : Today) (q : Period) (z : Nat) : Option (Nat × Nat) :=
  let s := t.rawStart q z
  let e := s + q.length * 60
  if e ≤ 86399 then some (s, e) else none

/-- The table of R27 applied to the times of R26, for an early-close time X in minutes. -/
def closedAt (x : Nat) : Nat × Nat → Option (Nat × Nat)
  | (s, e) => if e ≤ x * 60 then some (s, e) else if s < x * 60 then some (s, x * 60) else none

/-- The effective times of a period in zone z; none when it is cancelled there (R26, R27). -/
def Today.periodTimes (t : Today) (q : Period) (z : Nat) : Option (Nat × Nat) :=
  match t.baseTimes q z with
  | none => none
  | some se => match t.early with
    | none => some se
    | some x => closedAt x se

/-- Period k of today's plan. -/
def Today.period? (t : Today) (k : Nat) : Option Period := t.plan.periods[k]?

/-- The effective times of period k in zone z (R26, R27). -/
def Today.effective (t : Today) (k z : Nat) : Option (Nat × Nat) := (t.period? k).bind (fun q => t.periodTimes q z)

/-- Period k is cancelled in zone z. -/
def Today.cancelled (t : Today) (k z : Nat) : Bool := (t.effective k z).isNone

/-- The numbers of the periods of today's plan. -/
def Today.numbers (t : Today) : List Nat := List.range t.plan.periods.length

/-- The last period not cancelled in zone z (R30). -/
def Today.lastPeriod (t : Today) (z : Nat) : Option Nat := (t.numbers.filter (fun k => !t.cancelled k z)).getLast?

/-- The zones of today's zone set. -/
def Today.zoneSet (t : Today) : List Nat := t.zones.map (·.zone)

/-- A zone number outside every zone set: its offset is 0 (R26). It stands for "a single term with offset 0". -/
def noZone : Nat := 6

/-- Today's zone set, or the single term with offset 0 when it is empty (R15, R75, R134, log 45). -/
def Today.terms (t : Today) : List Nat := if t.zoneSet.isEmpty then [noZone] else t.zoneSet

/-- The marked periods of a plan: REGISTRATION and LESSON, the first two REGISTRATION periods being AM and PM (file 00). -/
def Plan.markedFrom : Nat → Nat → List Period → List MarkedPeriod
  | _, _, [] => []
  | k, seen, q :: qs =>
    match q.kind with
    | .registration =>
      ⟨k, if seen = 0 then some .am else if seen = 1 then some .pm else none⟩ :: Plan.markedFrom (k + 1) (seen + 1) qs
    | .lesson => ⟨k, none⟩ :: Plan.markedFrom (k + 1) seen qs
    | .recess => Plan.markedFrom (k + 1) seen qs
    | .lunch => Plan.markedFrom (k + 1) seen qs

/-- The marked periods of a plan, in period order. -/
def Plan.marked (pl : Plan) : List MarkedPeriod := Plan.markedFrom 0 0 pl.periods

/-- The number of registration period r among marked periods. -/
def regNumber (l : List MarkedPeriod) (r : Reg) : Option Nat := (l.find? (fun m => m.reg == some r)).map (·.number)

/-- The number of registration period r of today's plan. -/
def Today.reg? (t : Today) (r : Reg) : Option Nat := regNumber t.plan.marked r

/-- The least of a list of numbers. -/
def least : List Nat → Option Nat
  | [] => none
  | a :: t => some (t.foldl min a)

/-- The greatest of a list of numbers. -/
def greatest : List Nat → Option Nat
  | [] => none
  | a :: t => some (t.foldl max a)

/-- The open time O of a plan (R13): over the present zone records, or a single term with offset 0. -/
def openTime (img : Image) (pending : Nat) (pl : Plan) : Nat :=
  let start := (pl.periods.head?.map (·.start)).getD 0
  let offsets := if img.presentZones.isEmpty then [0] else img.presentZones.map (fun z => (img.zone z).offset)
  (least (offsets.map (fun o => startSecond start o (pending * 60)))).getD 0 - pl.lead * 60

/-- The contribution of zone z to the close time (R15). -/
def Today.closeTerm (t : Today) (z : Nat) : Nat :=
  match (t.lastPeriod z).bind (fun k => t.effective k z) with
  | some (_, e) => e
  | none => match t.early with
    | some x => x * 60
    | none => Config.daySeconds

/-- The close time C (R15). -/
def Today.closeTime (t : Today) : Nat := (greatest (t.terms.map t.closeTerm)).getD 0 + t.plan.lag * 60

/-- Today's copy as day open makes it (R25). -/
def makeToday (img : Image) (plan delay : Nat) (early : Option Nat) (openReading : Nat) : Today :=
  { plan := img.plan plan
    zones := img.presentZones.map (fun z =>
      let r := img.zone z
      { zone := z, offset := r.offset, lead := r.lead, warnDur := r.warnDur, ringDur := r.ringDur, endDur := r.endDur })
    delayTotal := delay, early := early, openReading := openReading }

/-- The periods and zones (0..5) that are cancelled under the second copy and were not under the first (R92). -/
def newlyCancelled (before after : Today) (k z : Nat) : Bool := !before.cancelled k z && after.cancelled k z

end Sys2Proof.Machine
end

