-- ==== Sys2Proof/Machine/Bells.lean ====
section
/-!
DEFINITION. The ring table: order, building, reaching, steps, and what the overrides of the day do to it (R29 to R41).
-/

namespace Sys2Proof.Machine

/-! ## The table -/

/-- "The table is ordered by time, then by zone; entries of the same time and zone stand in order of creation" (R29). -/
def RingEntry.le (a b : RingEntry) : Bool :=
  decide (a.time < b.time) || (a.time == b.time &&
    (decide (a.zone < b.zone) || (a.zone == b.zone && decide (a.stamp ≤ b.stamp))))

/-- Entries of the same zone, period and tone. -/
def RingEntry.alike (zone : Nat) (period : Option Nat) (tone : BellTone) (e : RingEntry) : Bool :=
  e.zone == zone && e.period == period && e.tone == tone

/-- The key of an entry. -/
def RingEntry.key (e : RingEntry) : RingKey := ⟨e.zone, e.period, e.tone, e.issue⟩

/-- The next issue of a zone, period and tone (R29). -/
def nextIssue (l : List RingEntry) (zone : Nat) (period : Option Nat) (tone : BellTone) : Nat :=
  ((greatest ((l.filter (RingEntry.alike zone period tone)).map (·.issue))).getD 0) + 1

/-- What a new entry is made of. -/
structure RingRequest where
  zone : Nat
  period : Option Nat
  tone : BellTone
  time : Nat
  duration : Option Nat
  byEarlyClose : Bool
  deriving DecidableEq, Repr

/-- A PENDING entry with an issue and a place in the order of creation. -/
def RingRequest.entry (q : RingRequest) (issue stamp : Nat) : RingEntry :=
  { zone := q.zone, period := q.period, tone := q.tone, issue := issue, time := q.time, duration := q.duration
    state := .pending, lateBy := none, dueSince := none, byEarlyClose := q.byEarlyClose, stamp := stamp }

/-- A request has a place: the table is not full and R29 allows its issue. -/
def Bells.hasPlace (b : Bells) (q : RingRequest) : Bool :=
  decide (b.ring.length < Config.ringMax) && decide (nextIssue b.ring q.zone q.period q.tone ≤ Config.issueMax)

/-- Creates an entry, PENDING, at its place in the table (R29). -/
def Bells.add (b : Bells) (q : RingRequest) : Bells :=
  { b with ring := insertBy RingEntry.le (q.entry (nextIssue b.ring q.zone q.period q.tone) b.nextStamp) b.ring
           nextStamp := b.nextStamp + 1 }

/-- Creates an entry when it has a place; the answer counts those not created. -/
def Bells.tryAdd (x : Bells × Nat) (q : RingRequest) : Bells × Nat :=
  if x.1.hasPlace q then (x.1.add q, x.2) else (x.1, x.2 + 1)

/-- The free places of the table. -/
def Bells.free (b : Bells) : Nat := Config.ringMax - b.ring.length

/-- Changes the ring table. -/
def onRing (f : RingEntry → RingEntry) (p : Part) : Part := { p with bells.ring := p.bells.ring.map f }

/-! ## Reaching -/

/-- Zone z is ARMED. -/
def Part.armed (p : Part) (z : Nat) : Bool := p.zoneState z == some (.up .armed)

/-- A reached entry: DUE in an ARMED zone, PASSED otherwise (R32); DUE begins the stale wait (R48). -/
def RingEntry.reached (c : Clock) (armed : Bool) (e : RingEntry) : RingEntry :=
  if armed then { e with state := .due, dueSince := some c.crystal } else { e with state := .passed }

/-- An entry that leaves DUE, or never was, with no stale wait. -/
def RingEntry.pass (e : RingEntry) : RingEntry := { e with state := .passed, dueSince := none }

/-- The clock reaches the entries of second t (R32). -/
def reachAt (c : Clock) (t : Nat) (p : Part) : Part :=
  onRing (fun e => if e.state = .pending ∧ e.time = t then e.reached c (p.armed e.zone) else e) p

/-- A PENDING entry that a step forward skips: later than the old reading and earlier than the new one (R33). -/
def skipped (old new : Nat) (e : RingEntry) : Bool := e.state == .pending && decide (old < e.time) && decide (e.time < new)

/-- A step forward within the open day (R33). -/
def stepRing (c : Clock) (old new : Nat) (p : Part) : Part :=
  let n := (p.bells.ring.filter (skipped old new)).length
  let q := onRing (fun e => if skipped old new e then e.pass else e) p
  reachAt c new (if n = 0 then q else raise c (.bellMissedStep n old new) q)

/-- PENDING entries earlier than the clock pass, with one notice; a CANCELLED one stays so (R31, R41, log 62). -/
def passEarlier (c : Clock) (p : Part) : Part :=
  let late : RingEntry → Bool := fun e => e.state == .pending && decide (e.time < p.now c)
  let n := (p.bells.ring.filter late).length
  let q := onRing (fun e => if late e then e.pass else e) p
  if n = 0 then q else raise c (.bellMissedBuild n) q

/-! ## Building -/

/-- The requests of the periods from k on in one zone: RING at S, and WARN at S minus the lead when it lies after the RING
of the zone's earlier periods and not before the limit (R30). -/
def buildPeriods (t : Today) (x : TodayZone) (limit : Nat) : Option Nat → List Nat → List RingRequest
  | _, [] => []
  | last, k :: ks =>
    match t.period? k, t.effective k x.zone with
    | some q, some (s, _) =>
      if q.ring then
        let ring : RingRequest := ⟨x.zone, some k, .ring, s, none, false⟩
        let warn : List RingRequest :=
          if q.warn ∧ x.lead ≤ s ∧ (∀ l ∈ last, l < s - x.lead) ∧ limit ≤ s - x.lead then
            [⟨x.zone, some k, .warn, s - x.lead, none, false⟩]
          else []
        ring :: (warn ++ buildPeriods t x limit (some s) ks)
      else buildPeriods t x limit last ks
    | _, _ => buildPeriods t x limit last ks

/-- The END request of a zone, at the end of its last uncancelled period (R30). -/
def buildEnd (t : Today) (z : Nat) : List RingRequest :=
  match t.lastPeriod z with
  | none => []
  | some l => match t.effective l z with
    | none => []
    | some (_, e) => [⟨z, some l, .endBell, e, none, false⟩]

/-- The requests of today's copy (R30). -/
def buildRequests (t : Today) (limit : Nat) : List RingRequest :=
  t.zones.flatMap (fun x => buildPeriods t x limit none t.numbers ++ buildEnd t x.zone)

/-- The table emptied and built from today's copy, every entry PENDING with issue 1 (R30). -/
def Bells.built (b : Bells) (t : Today) (limit : Nat) : Bells :=
  let made := (buildRequests t limit).zipIdx b.nextStamp
  { b with ring := sortBy RingEntry.le (made.map (fun x => x.1.entry 1 x.2)), nextStamp := b.nextStamp + made.length }

/-- Builds the table: entries before the clock pass with one notice, entries at the clock are reached (R30, R31). -/
def buildRing (c : Clock) (t : Today) (limit : Nat) (p : Part) : Part :=
  reachAt c c.second (passEarlier c { p with bells := p.bells.built t limit })

/-! ## Delay -/

/-- An entry under a delay of a seconds: PENDING entries move, but for the END entries of an EARLY CLOSE (R35). -/
def RingEntry.delayed (a : Nat) (e : RingEntry) : RingEntry :=
  if e.state = .pending ∧ !e.byEarlyClose then { e with time := e.time + a } else e

/-- A PENDING entry of a period that has just become cancelled in its zone, other than an END of an EARLY CLOSE (R35). -/
def cutOff (before after : Today) (e : RingEntry) : Bool :=
  e.state == .pending && !e.byEarlyClose && (e.period.map (fun k => newlyCancelled before after k e.zone)).getD false

/-- An entry made CANCELLED. -/
def RingEntry.cancel (e : RingEntry) : RingEntry := { e with state := .cancelled }

/-- The END entry for a zone whose END was cancelled: at the end of its new last period, when later than the clock (R35). -/
def newEnd (now : Nat) (t : Today) (z : Nat) : List RingRequest := (buildEnd t z).filter (fun q => decide (now < q.time))

/-- The WARN entry of the highest issue for a period and zone. -/
def lastWarn (l : List RingEntry) (k z : Nat) : Option RingEntry :=
  (l.filter (RingEntry.alike z (some k) .warn)).find? (fun e => e.issue + 1 == nextIssue l z (some k) .warn)

/-- A warning given or being given: DUE, SOUNDING or RUNG (R36). -/
def RingState.warned (s : RingState) : Bool := s == .due || s == .sounding || s == .rung

/-- The fresh warning of a RING entry, before and after the shift (R36). -/
def freshWarn (now : Nat) (t : Today) (before : List RingEntry) (e : RingEntry) : List RingRequest :=
  match e.period with
  | none => []
  | some k =>
    let lead := ((t.zone? e.zone).map (·.lead)).getD 0
    if e.tone = .ring ∧ e.state = .pending ∧ ((lastWarn before k e.zone).map (fun w => w.state.warned)).getD false
        ∧ now < e.time - lead then
      [⟨e.zone, some k, .warn, e.time - lead, none, false⟩]
    else []

/-- The table under a delay, with the count of fresh warnings and END entries not created; END entries are made in rising order
of zones, fresh warnings in the order of their RING entries (R35, R36, logs 64, 79). -/
def Bells.delay (now : Nat) (before after : Today) (a : Nat) (b : Bells) : Bells × Nat :=
  let moved := b.ring.map (RingEntry.delayed a)
  let lost := (moved.filter (fun e => cutOff before after e && e.tone == .endBell)).map (·.zone)
  let cut := sortBy RingEntry.le (moved.map (fun e => if cutOff before after e then e.cancel else e))
  let base : Bells := { b with ring := cut, today := some after }
  let ends := ((zoneNumbers.filter (fun z => lost.contains z)).flatMap (newEnd now after)).foldl Bells.tryAdd (base, 0)
  (cut.flatMap (freshWarn now after b.ring)).foldl Bells.tryAdd ends

/-- Some REGISTRATION RING entry has left PENDING (R34). -/
def Bells.begunRegistration (b : Bells) (t : Today) : Bool :=
  b.ring.any (fun e => e.tone == .ring && e.state != .pending &&
    ((e.period.bind t.period?).map (fun q => q.kind == .registration)).getD false)

/-- Some REGISTRATION period of today's plan has its ring bell (R34). -/
def Today.registrationRings (t : Today) : Bool := t.plan.periods.any (fun q => q.kind == .registration && q.ring)

/-- DELAY is still in time on an open day (R34, log 38). -/
def delayInTime (now : Nat) (t : Today) (b : Bells) : Bool :=
  if t.registrationRings then !b.begunRegistration t
  else match (t.reg? .am).bind t.period? with
    | none => true
    | some q => decide (now < (least (t.terms.map (t.rawStart q))).getD 0)

/-! ## Early close -/

/-- The period in progress at X in zone z, by the times of R26; the lowest number of several (R27, R37, log 63). -/
def Today.inProgress (t : Today) (x z : Nat) : Option Nat :=
  t.numbers.find? (fun k => match (t.period? k).bind (fun q => t.baseTimes q z) with
    | none => false
    | some (s, e) => decide (s < x * 60) && decide (x * 60 < e))

/-- A PENDING entry that an early close at X cancels (R37). -/
def closedOff (after : Today) (x : Nat) (e : RingEntry) : Bool :=
  e.state == .pending && (decide (x * 60 ≤ e.time) || (e.period.map (fun k => after.cancelled k e.zone)).getD false)

/-- The END request of an early close in a zone (R37). -/
def closeEnd (after : Today) (x z : Nat) : RingRequest :=
  let k := match after.inProgress x z with
    | some k => some k
    | none => after.lastPeriod z
  ⟨z, k, .endBell, x * 60, none, true⟩

/-- The table under an early close at X (R37). -/
def Bells.closeEarly (after : Today) (x : Nat) (b : Bells) : Bells :=
  let cut := b.ring.map (fun e => if closedOff after x e then e.cancel else e)
  (after.zoneSet.foldl (fun y z => Bells.tryAdd y (closeEnd after x z)) ({ b with ring := cut, today := some after }, 0)).1

/-- Every END entry of an early close would find an issue (R29). -/
def Bells.issuesFree (after : Today) (x : Nat) (b : Bells) : Bool :=
  after.zoneSet.all (fun z => decide (nextIssue b.ring z (closeEnd after x z).period .endBell ≤ Config.issueMax))

/-! ## Manual rings -/

/-- A manual entry: created at the clock and reached at once (R39). -/
def Bells.addManual (c : Clock) (tone : BellTone) (duration : Nat) (armed : Nat → Bool) (b : Bells) (z : Nat) : Bells :=
  let q : RingRequest := ⟨z, none, tone, c.second, some duration, false⟩
  let e := (q.entry (nextIssue b.ring z none tone) b.nextStamp).reached c (armed z)
  { b with ring := insertBy RingEntry.le e b.ring, nextStamp := b.nextStamp + 1 }

/-! ## Restart -/

/-- An old entry's state as a built entry takes it: SOUNDING is carried as DUE, and DUE starts a new stale wait
(R41, R48). -/
def RingEntry.carry (c : Clock) (old e : RingEntry) : RingEntry :=
  if old.state = .sounding ∨ old.state = .due then { e with state := .due, lateBy := none, dueSince := some c.crystal }
  else { e with state := old.state, lateBy := old.lateBy, dueSince := none }

/-- An old entry carried over whole (R41): fresh warnings, END entries of an early close and manual entries. -/
def RingEntry.carriedWhole (built : List RingEntry) (e : RingEntry) : Bool :=
  (decide (1 < e.issue) || e.period.isNone) && !(built.any (fun a => a.key == e.key))

/-- The table rebuilt from today's copy, with the early close applied, and the old entries' states carried over;
an entry carried over whole keeps its place in the order of creation, before the built ones (R41, logs 20, 48). -/
def Bells.rebuilt (c : Clock) (t : Today) (b : Bells) : Bells :=
  let fresh := Bells.built b { t with early := none } t.openReading
  let fresh := match t.early with
    | none => { fresh with today := some t }
    | some x => Bells.closeEarly t x fresh
  let made := fresh.ring.map (fun e => match b.ring.find? (fun o => o.key == e.key) with
    | some o => o.carry c e
    | none => e)
  let carried := (b.ring.filter (RingEntry.carriedWhole made)).map (fun o => o.carry c o)
  { fresh with ring := sortBy RingEntry.le (made ++ carried.take (Config.ringMax - made.length)) }

/-- DUE entries of zones that are absent pass (R23, R41). -/
def passAbsent (p : Part) : Part :=
  onRing (fun e => if e.state = .due ∧ (p.zoneState e.zone).isNone then e.pass else e) p

/-- The rebuild at a warm restart: entries left behind pass with one notice, entries at exactly the clock are
reached at once (R41, log 49). -/
def rebuildRing (c : Clock) (t : Today) (p : Part) : Part :=
  reachAt c c.second (passEarlier c (passAbsent { p with bells := p.bells.rebuilt c t }))

end Sys2Proof.Machine
end

