-- ==== Sys2Proof/Machine/Flags.lean ====
section
/-!
DEFINITION. The activity state and the wake flags: what setting a flag does (R195, R197, R198).
-/

namespace Sys2Proof.Machine

/-- A flag of the five. -/
def Flags.get (f : Flags) : WakeFlag → Bool
  | .host => f.host | .gateway => f.gateway | .call => f.call | .time => f.time | .alert => f.alert

/-- The flags with one more set. -/
def Flags.set (f : Flags) : WakeFlag → Flags
  | .host => { f with host := true }
  | .gateway => { f with gateway := true }
  | .call => { f with call := true }
  | .time => { f with time := true }
  | .alert => { f with alert := true }

/-- "HOST and ALERT always wake; GATEWAY, CALL and TIME wake when enabled" (R198). -/
def Enables.wakes (e : Enables) : WakeFlag → Bool
  | .host => true | .alert => true | .gateway => e.gateway | .call => e.call | .time => e.time

/-- Moves the activity state. Leaving DORMANT makes the status poll due at once (R49); entering or leaving it moves the next
poll cycle to 500 ms or 250 ms after the current one began (R113, log 18). -/
def setActivity (c : Clock) (a : Activity) (p : Part) : Part :=
  if p.hl.activity = .dormant then
    if a = .dormant then p
    else { p with hl.activity := a, zbus.pollDue := c.crystal, desk.cycleNext := p.desk.cycleStart + Config.cycleAwake }
  else if a = .dormant then
    { p with hl.activity := a, desk.cycleNext := p.desk.cycleStart + Config.cycleDormant }
  else { p with hl.activity := a }

/-- The service wake that a waking flag brings (R198). -/
def serviceOf (c : Clock) : WakeFlag → Option Service
  | .gateway => some .gateway
  | .call => some (.call c.crystal)
  | .host => none
  | .time => none
  | .alert => none

/-- A flag wakes the part: QUIET, perhaps with a service wake, and notice WAKE (R198). -/
def wakeBy (c : Clock) (f : WakeFlag) (p : Part) : Part :=
  raise c (.wake f) { setActivity c .quiet p with hl.service := serviceOf c f }

/-- What a flag set while the part is awake does to a service wake: TIME and ALERT end it, "a counted call during a CALL
service starts its 60 s wait afresh" (R198). -/
def serviceAfter (c : Clock) (f : WakeFlag) : Option Service → Option Service
  | none => none
  | some .gateway => match f with
    | .time => none
    | .alert => none
    | _ => some .gateway
  | some (.call t) => match f with
    | .time => none
    | .alert => none
    | .call => some (.call c.crystal)
    | _ => some (.call t)

/-- Sets a wake flag, with its effect on a DORMANT part or on a service wake (R197, R198). -/
def setFlag (c : Clock) (f : WakeFlag) (p : Part) : Part :=
  let q := { p with hl.flags := p.hl.flags.set f }
  if p.hl.activity = .dormant then
    if p.hl.enables.wakes f then wakeBy c f q else q
  else { q with hl.service := serviceAfter c f p.hl.service }

/-- A request line is completed: it wakes a DORMANT part through HOST, and it ends a service wake (R197, R198, log 16). -/
def requestLine (c : Clock) (p : Part) : Part :=
  if p.hl.activity = .dormant then setFlag c .host p else { p with hl.service := none }

/-- The end of a service wake with a return to DORMANT (R198). -/
def serviceEnds (c : Clock) (p : Part) : Part := setActivity c .dormant { p with hl.service := none }

/-- Day open: ACTIVE, and a service wake ends (R195). -/
def activityAtOpen (c : Clock) (p : Part) : Part := setActivity c .active { p with hl.service := none }

/-- Day close: ACTIVE becomes QUIET (R195). -/
def activityAtClose (c : Clock) (p : Part) : Part :=
  if p.hl.activity = .active then setActivity c .quiet p else p

/-- The flags in the order in which one of several is named as the waking one (log 17). -/
def wakeOrder : List WakeFlag := [.host, .alert, .time, .call, .gateway]

/-- A set flag that wakes, if any: HOST and ALERT always, the others when enabled (R196). -/
def wakingFlag (p : Part) : Option WakeFlag :=
  wakeOrder.find? (fun f => p.hl.flags.get f && p.hl.enables.wakes f)

end Sys2Proof.Machine
end

