-- ==== Sys2Proof/Machine/Marks.lean ====
section
/-!
DEFINITION. Mark records, tallies, presence and the change sequence, without their effects on the outbox
(R73, R76 to R80).
-/

namespace Sys2Proof.Machine

/-! ## Records -/

/-- A record of value UNSET: "holds value and notice status and no other item" (R73). -/
def Mark.unset (m : MarkedPeriod) (notice : Option NoticeStatus) : Mark :=
  { period := m, value := .unset, source := none, minutes := none, reason := none, timeSet := none, band := none, notice := notice }

/-- The notice status of a fresh record: NONE for a registration record, absent for a lesson (R73, R74). -/
def freshNotice (m : MarkedPeriod) : Option NoticeStatus := m.reg.map (fun _ => NoticeStatus.none)

/-- NOT_REQUIRED, source SYSTEM, reason 0, notice status NONE in a registration record, with its time set (R74). -/
def Mark.notRequiredAt (time : Option Nat) (m : MarkedPeriod) : Mark :=
  { period := m, value := .notRequired, source := some .system, minutes := none, reason := some 0, timeSet := time
    band := none, notice := freshNotice m }

/-- A NOT_REQUIRED record set at the second it is made: at day open (R74), and outside it (R65, R96, log 55). -/
def Mark.notRequired (c : Clock) (m : MarkedPeriod) : Mark := Mark.notRequiredAt c.second? m

/-- The record of period k. -/
def SlotDay.mark? (d : SlotDay) (k : Nat) : Option Mark := d.marks.find? (fun m => m.period.number == k)

/-- Replaces the record of the same period. -/
def SlotDay.setMark (d : SlotDay) (m : Mark) : SlotDay :=
  { d with marks := d.marks.map (fun x => if x.period.number = m.period.number then m else x) }

/-- The register's items for slot n. -/
def Register.slot? (r : Register) (n : Nat) : Option SlotDay := Table.get? r.slots n

/-- The register of the open day. -/
def Part.register? (p : Part) : Option Register := p.reg.register

/-- The record of slot n and period k. -/
def Part.mark? (p : Part) (n k : Nat) : Option Mark :=
  p.register?.bind (fun r => (r.slot? n).bind (fun d => d.mark? k))

/-- The number of registration period r in the register. -/
def Register.regNumber? (r : Register) (x : Reg) : Option Nat := regNumber r.periods x

/-- The registration record of slot n for r. -/
def Part.regMark? (p : Part) (n : Nat) (x : Reg) : Option Mark :=
  p.register?.bind (fun r => (r.regNumber? x).bind (fun k => p.mark? n k))

/-- Presence of slot n; without a register "every slot's presence reads as NOT_ARRIVED" (R95). -/
def Part.presence (p : Part) (n : Nat) : Presence :=
  ((p.register?.bind (fun r => r.slot? n)).map (·.presence)).getD .notArrived

/-- Changes the register, when there is one. -/
def Part.onRegister (p : Part) (f : Register → Register) : Part := { p with reg.register := p.reg.register.map f }

/-- Sets the notice status of the registration record of slot n for r; no other item moves and the change sequence
stands (R80, R86). -/
def setNotice (n : Nat) (x : Reg) (st : NoticeStatus) (p : Part) : Part :=
  match p.regMark? n x with
  | none => p
  | some m => p.onRegister (fun r =>
      match r.slot? n with
      | none => r
      | some d => { r with slots := Table.put r.slots n (d.setMark { m with notice := some st }) })

/-! ## Precedence -/

/-- A write (R76, R77). -/
structure Write where
  writer : Writer
  value : MarkValue
  minutes : Option Nat
  reason : Nat
  band : Option Band
  deriving DecidableEq, Repr

/-- The precedence table of R76. -/
def Write.allowed (w : Write) (m : Mark) : Bool :=
  match w.writer with
  | .sweep => m.value == .unset
  | .station =>
    m.value == .unset || m.source == some .sweep || m.source == some .parent || m.source == some .station
      || (m.value == .absent && m.source == some .teacher)
  | .teacher => m.source != some .office && m.source != some .system
  | .parent =>
    (m.value == .absent && m.source == some .sweep && w.value == .absentExcused)
      || (m.value == .late && m.source == some .station && w.value == .lateExcused)
  | .office => true
  | .system => m.source != some .office

/-- LATE or LATE_EXCUSED: the values that hold minutes. -/
def holdsMinutes (v : MarkValue) : Bool := v == .late || v == .lateExcused

/-- PRESENT, LATE or LATE_EXCUSED: the values of an arrival. -/
def isArrival (v : MarkValue) : Bool := v == .present || v == .late || v == .lateExcused

/-- The minutes an applied write leaves (R77). -/
def Write.minutesLeft (w : Write) (m : Mark) : Option Nat :=
  if holdsMinutes w.value then
    if w.writer = .parent then m.minutes else w.minutes.map (fun x => min x Config.minutesMax)
  else none

/-- The reason an applied write leaves: "A SWEEP, PARENT or SYSTEM write sets reason 0" (R77). -/
def Write.reasonLeft (w : Write) : Nat :=
  match w.writer with
  | .sweep => 0 | .parent => 0 | .system => 0
  | .station => w.reason | .teacher => w.reason | .office => w.reason

/-- The band an applied write leaves (R77). -/
def Write.bandLeft (w : Write) (m : Mark) : Option Band :=
  if w.writer = .station ∧ w.value = .late ∧ m.period.reg.isSome then w.band else none

/-- The record an applied write leaves (R77); "an applied UNSET write removes every item but the value and the notice
status", which stands as it was (R82, log 68). -/
def Write.result (c : Clock) (w : Write) (m : Mark) : Mark :=
  if w.value = .unset then Mark.unset m.period m.notice
  else
    { period := m.period, value := w.value, source := some w.writer, minutes := w.minutesLeft m, reason := some w.reasonLeft
      timeSet := c.second?, band := w.bandLeft m, notice := m.notice }

/-! ## Tallies -/

/-- Changes the count of one value (R79). -/
def Tally.onValue (t : Tally) (f : Nat → Nat) : MarkValue → Tally
  | .unset => { t with unset := f t.unset }
  | .present => { t with present := f t.present }
  | .late => { t with late := f t.late }
  | .lateExcused => { t with lateExcused := f t.lateExcused }
  | .absent => { t with absent := f t.absent }
  | .absentExcused => { t with absentExcused := f t.absentExcused }
  | .offsite => { t with offsite := f t.offsite }
  | .notRequired => { t with notRequired := f t.notRequired }

/-- Changes one band count (R79). -/
def Tally.onBand (t : Tally) (f : Nat → Nat) : Option Band → Tally
  | none => t
  | some .minor => { t with minor := f t.minor }
  | some .major => { t with major := f t.major }
  | some .afterClose => { t with afterClose := f t.afterClose }

/-- The count of one value. -/
def Tally.count (t : Tally) : MarkValue → Nat
  | .unset => t.unset | .present => t.present | .late => t.late | .lateExcused => t.lateExcused
  | .absent => t.absent | .absentExcused => t.absentExcused | .offsite => t.offsite | .notRequired => t.notRequired

/-- The eight counts together. -/
def Tally.total (t : Tally) : Nat :=
  t.unset + t.present + t.late + t.lateExcused + t.absent + t.absentExcused + t.offsite + t.notRequired

/-- A tally of nothing. -/
def Tally.zero (m : MarkedPeriod) : Tally :=
  { period := m, unset := 0, present := 0, late := 0, lateExcused := 0, absent := 0, absentExcused := 0, offsite := 0
    notRequired := 0, minor := 0, major := 0, afterClose := 0 }

/-- Counts one record in. -/
def Tally.add (t : Tally) (m : Mark) : Tally := (t.onValue (· + 1) m.value).onBand (· + 1) m.band

/-- Counts one record out. -/
def Tally.remove (t : Tally) (m : Mark) : Tally := (t.onValue (· - 1) m.value).onBand (· - 1) m.band

/-- Changes the tally of period k. -/
def onTally (k : Nat) (f : Tally → Tally) (l : List Tally) : List Tally :=
  l.map (fun t => if t.period.number = k then f t else t)

/-- "The tallies are counted from the records" (R74). -/
def countTallies (periods : List MarkedPeriod) (slots : Table SlotDay) : List Tally :=
  periods.map (fun m => slots.foldl (fun t e =>
    match e.2.mark? m.number with
    | some x => t.add x
    | none => t) (Tally.zero m))

/-! ## The change sequence and presence -/

/-- The counter advanced by one; "at 4,294,967,295 it holds" (R80). -/
def nextChange (n : Nat) : Nat := if n < Config.changeMax then n + 1 else Config.changeMax

/-- The presence that an applied write of value v leaves (R78). -/
def presenceAfter (v : MarkValue) (x : Presence) : Presence :=
  if isArrival v ∧ x = .notArrived then .onSite else x

/-- The on-site count after a move of presence (R78). -/
def countAfter (old new : Presence) (n : Nat) : Nat :=
  if old = new then n else if new = .onSite then n + 1 else if old = .onSite then n - 1 else n

/-- An applied write on the register: record, presence, on-site count, tallies, change sequence (R77 to R80). -/
def Register.apply (c : Clock) (w : Write) (n : Nat) (d : SlotDay) (m : Mark) (r : Register) : Register :=
  let new := w.result c m
  let q := nextChange r.changes
  let d' := { d.setMark new with presence := presenceAfter w.value d.presence, lastChange := q }
  { r with slots := Table.put r.slots n d', onSite := countAfter d.presence d'.presence r.onSite
           tallies := onTally m.period.number (fun t => (t.remove m).add new) r.tallies, changes := q }

/-- A presence move not made by a write: it advances the change sequence once (R80). -/
def Register.movePresence (n : Nat) (moved : Presence) (r : Register) : Register :=
  match r.slot? n with
  | none => r
  | some d =>
    let q := nextChange r.changes
    { r with slots := Table.put r.slots n { d with presence := moved, lastChange := q }
             onSite := countAfter d.presence moved r.onSite, changes := q }

/-- Moves the presence of slot n without a write. -/
def movePresence (n : Nat) (moved : Presence) (p : Part) : Part := p.onRegister (Register.movePresence n moved)

end Sys2Proof.Machine
end

