-- ==== Sys2Proof/Machine/Outbox.lean ====
section
/-!
DEFINITION. The outbox: states, creation, displacement, leaving and withdrawal of entries (R159 to R164, R172, R173),
with the reports of a leaving to the register (R86) and to the sweep (R141).
-/

namespace Sys2Proof.Machine

/-! ## Classes and states -/

/-- "Each kind belongs to one class" (R160). -/
def OutKind.cls : OutKind → OutClass
  | .alert => .alert | .absence => .absence | .correction => .absence | .late => .late
  | .escalation => .escalation | .general => .general | .confirm => .general

/-- The rank of a class, 0 the highest (R160). -/
def OutClass.rank : OutClass → Nat
  | .alert => 0 | .absence => 1 | .late => 2 | .escalation => 3 | .general => 4

/-- The rank of an entry's class. -/
def OutEntry.rank (e : OutEntry) : Nat := e.kind.cls.rank

/-- The slot of an entry's target, none for BROADCAST. -/
def OutEntry.slot? (e : OutEntry) : Option Nat :=
  match e.target with
  | .slot s _ => some s
  | .broadcast _ _ _ _ => none

/-- States of a contact that has been handed over (R161). -/
def Delivery.handed : Delivery → Bool
  | .waiting => false
  | .inFlight => true
  | .delivered => true
  | .failed (.gateway _) => true
  | .failed .timeout => true
  | .failed .barred => false
  | .failed .empty => false
  | .cancelled => false

/-- A FAILED contact, whatever the reason. -/
def Delivery.isFailed : Delivery → Bool
  | .failed _ => true
  | _ => false

/-- The position of the open offer when it is for entry id. -/
def Messages.offered (m : Messages) (id : Nat) : Option Nat :=
  (m.offer.filter (fun o => o.handle.id == id)).map (·.handle.position)

/-- In-flight records that name entry id. -/
def Messages.flights (m : Messages) (id : Nat) : List Inflight := m.inflight.filter (fun f => f.handle.id == id)

/-- Position i (from 1) of entry id has been handed over: its state says so, or it is offered (R161). -/
def Messages.positionHanded (m : Messages) (id i : Nat) (x : Position) : Bool :=
  x.state.handed || m.offered id == some i

/-- The contacts handed over, in list order (R172). For a broadcast no positions are named. -/
def Messages.handedContacts (m : Messages) (e : OutEntry) : List Nat :=
  match e.target with
  | .slot _ ps => ((ps.zipIdx 1).filter (fun x => m.positionHanded e.id x.2 x.1)).map (·.1.contact)
  | .broadcast _ _ _ _ => []

/-- The number of contacts handed over (R161, R175). -/
def Messages.handedCount (m : Messages) (e : OutEntry) : Nat :=
  match e.target with
  | .slot _ _ => (m.handedContacts e).length
  | .broadcast _ _ d f => d + f + (m.flights e.id).length + (if (m.offered e.id).isSome then 1 else 0)

/-- Some contact of the entry has been handed over (R161). -/
def Messages.anyHanded (m : Messages) (e : OutEntry) : Bool := m.handedCount e != 0

/-- The entry has a waiting contact (R161). -/
def OutEntry.hasWaiting (e : OutEntry) : Bool :=
  match e.target with
  | .slot _ ps => ps.any (fun x => x.state == .waiting)
  | .broadcast cur _ _ _ => decide (cur < Config.contactCount)

/-- The entry has a contact IN_FLIGHT. -/
def Messages.hasFlight (m : Messages) (e : OutEntry) : Bool :=
  match e.target with
  | .slot _ ps => ps.any (fun x => x.state == .inFlight)
  | .broadcast _ _ _ _ => !(m.flights e.id).isEmpty

/-- Some contact has left WAITING. -/
def Messages.begun (m : Messages) (e : OutEntry) : Bool :=
  match e.target with
  | .slot _ ps => ps.any (fun x => x.state != .waiting)
  | .broadcast _ _ d f => d != 0 || f != 0 || !(m.flights e.id).isEmpty

/-- The entry's state (R161). -/
def Messages.entryState (m : Messages) (e : OutEntry) : OutState :=
  if !e.hasWaiting then .closing else if m.begun e then .sending else if e.ready then .ready else .waiting

/-- No contact WAITING or IN_FLIGHT: the entry leaves (R161). -/
def Messages.finished (m : Messages) (e : OutEntry) : Bool := !e.hasWaiting && !m.hasFlight e

/-- The number of contacts FAILED. -/
def OutEntry.failedCount (e : OutEntry) : Nat :=
  match e.target with
  | .slot _ ps => (ps.filter (fun x => x.state.isFailed)).length
  | .broadcast _ _ _ f => f

/-- Some contact was DELIVERED. -/
def OutEntry.anyDelivered (e : OutEntry) : Bool :=
  match e.target with
  | .slot _ ps => ps.any (fun x => x.state == .delivered)
  | .broadcast _ _ d _ => d != 0

/-! ## Access -/

/-- The entry with an id. -/
def Part.entry? (p : Part) (id : Nat) : Option OutEntry := p.pmu.outbox.find? (fun e => e.id == id)

/-- Changes the entry with an id. -/
def onEntry (id : Nat) (f : OutEntry → OutEntry) (p : Part) : Part :=
  { p with pmu.outbox := p.pmu.outbox.map (fun e => if e.id = id then f e else e) }

/-- The entry of a kind for a slot and registration period (R163). -/
def Part.entryFor? (p : Part) (k : OutKind) (n : Nat) (x : Reg) : Option OutEntry :=
  p.pmu.outbox.find? (fun e => e.kind == k && e.slot? == some n && e.reg == some x)

/-- Changes position i (from 1) of a slot target. -/
def OutEntry.setPosition (e : OutEntry) (i : Nat) (d : Delivery) : OutEntry :=
  match e.target with
  | .slot s ps => { e with target := .slot s ((ps.zipIdx 1).map (fun x => if x.2 = i then { x.1 with state := d } else x.1)) }
  | .broadcast _ _ _ _ => e

/-- "Every WAITING contact becomes CANCELLED. For a broadcast, the cursor becomes 4096" (R172). -/
def OutEntry.cancelled (e : OutEntry) : OutEntry :=
  match e.target with
  | .slot s ps =>
    { e with target := .slot s (ps.map (fun x => if x.state = .waiting then { x with state := .cancelled } else x)) }
  | .broadcast _ f d g => { e with target := .broadcast Config.contactCount f d g }

/-! ## Leaving -/

/-- The register's answer to an ABSENCE entry's leaving: "only when the record's status is PENDING" (R86). -/
def reportLeaving (n : Nat) (x : Reg) (delivered failed : Bool) (p : Part) : Part :=
  match p.regMark? n x with
  | none => p
  | some m =>
    if m.notice = some .pending then
      setNotice n x (if delivered then .sent else if failed then .expired else .none) p
    else p

/-- A BLOCKED record takes its slot again when an entry leaves (R141). -/
def Sweep.unblocked (s : Sweep) : Sweep := if s.state = .blocked then { s with state := .running } else s

/-- "The Absence Sweep is told that an entry has left" (R161). -/
def sweepTold (p : Part) : Part :=
  { p with sweeps.am := p.sweeps.am.map Sweep.unblocked, sweeps.pm := p.sweeps.pm.map Sweep.unblocked }

/-- The reports that follow a leaving, in order (R161). -/
def afterLeaving (c : Clock) (e : OutEntry) (p : Part) : Part :=
  let p := if e.failedCount = 0 then p else raise c (.undelivered e.id e.kind e.slot? e.failedCount) p
  let p := match e.kind, e.slot?, e.reg with
    | .absence, some n, some x => reportLeaving n x e.anyDelivered (e.failedCount != 0) p
    | _, _, _ => p
  sweepTold p

/-- The entry leaves the outbox (R161). -/
def leave (c : Clock) (e : OutEntry) (p : Part) : Part :=
  afterLeaving c e { p with pmu.outbox := p.pmu.outbox.filter (fun x => x.id != e.id) }

/-- "The entry's state then follows R161": an entry that is finished leaves. -/
def follow (c : Clock) (id : Nat) (p : Part) : Part :=
  match p.entry? id with
  | none => p
  | some e => if p.pmu.finished e then leave c e p else p

/-! ## Creation -/

/-- What a creator asks for (R160). -/
structure EntryRequest where
  kind : OutKind
  target : Target
  reg : Option Reg
  source : Source
  time : Option Nat
  minutes : Option Nat
  level : Option Nat
  settle : Nat
  deriving DecidableEq, Repr

/-- The PMU's answer to a creator (R163). -/
inductive Creation where
  | taken (id : Nat)
  | held
  | refused
  deriving DecidableEq, Repr

/-- The id after one, "upward from 65535 back to 1, with 0 skipped" (R159). -/
def idAfter (n : Nat) : Nat := if n < 65535 then n + 1 else 1

/-- The first free id from a value on; a list of k ids is passed in at most k steps (R159). -/
def freeId (used : List Nat) : Nat → Nat → Nat
  | 0, n => n
  | k + 1, n => if n ∈ used then freeId used k (idAfter n) else n

/-- The eligible time: created plus the settle seconds (R162). -/
def eligibleAt (c : Clock) (settle : Nat) : Option Stamp := c.stamp.map (fun x => x.add settle)

/-- "READY when the clock is at or past its eligible time" (R162). -/
def reachedStamp (c : Clock) : Option Stamp → Bool
  | none => true
  | some x => match c.stamp with
    | none => false
    | some now => x.le now

/-- The entry made from a request with an id. -/
def EntryRequest.entry (c : Clock) (q : EntryRequest) (id : Nat) : OutEntry :=
  { id := id, kind := q.kind, target := q.target, reg := q.reg, source := q.source, time := q.time, minutes := q.minutes
    level := q.level, created := c.stamp, eligible := eligibleAt c q.settle, ready := reachedStamp c (eligibleAt c q.settle) }

/-- Appends the new entry with its id (R159, R163). -/
def append (c : Clock) (q : EntryRequest) (p : Part) : Part × Creation :=
  let id := freeId (p.pmu.outbox.map (·.id)) p.pmu.outbox.length p.pmu.nextId
  ({ p with pmu.outbox := p.pmu.outbox ++ [q.entry c id], pmu.nextId := idAfter id }, .taken id)

/-- Kinds of which a slot and registration period has at most one entry (R163). -/
def OutKind.unique : OutKind → Bool
  | .absence => true | .correction => true | .late => true
  | .alert => false | .escalation => false | .general => false | .confirm => false

/-- An entry of the requested kind already stands for the slot and r (R163). -/
def alreadyHeld (q : EntryRequest) (p : Part) : Bool :=
  match q.target, q.reg with
  | .slot n _, some x => q.kind.unique && (p.entryFor? q.kind n x).isSome
  | _, _ => false

/-- The oldest entry of a rank with no contact handed over. -/
def Messages.oldestFree (m : Messages) (rank : Nat) : Option OutEntry :=
  m.outbox.find? (fun e => e.rank == rank && !m.anyHanded e)

/-- The entry that a new one of a class displaces: of the lowest class below it, the oldest with no contact handed
over (R164). -/
def Messages.candidate (m : Messages) (cls : OutClass) : Option OutEntry :=
  ([4, 3, 2, 1].filter (fun r => decide (cls.rank < r))).findSome? m.oldestFree

/-- Decides a creation: uniqueness, room, displacement (R163, R164, log 34). -/
def create (c : Clock) (q : EntryRequest) (p : Part) : Part × Creation :=
  if alreadyHeld q p then (p, .held)
  else if p.pmu.outbox.length < Config.outboxMax then append c q p
  else match p.pmu.candidate q.kind.cls with
    | none => (p, .refused)
    | some e =>
      let p := leave c e.cancelled p
      append c q (raise c (.displaced e.id e.kind e.slot? q.kind) p)

/-- The slot of a request, none for BROADCAST. -/
def EntryRequest.slot? (q : EntryRequest) : Option Nat :=
  match q.target with
  | .slot n _ => some n
  | .broadcast _ _ _ _ => none

/-- "Every other creator raises notice OUTBOX_FULL" at a refusal (R163). -/
def createOrReport (c : Clock) (q : EntryRequest) (p : Part) : Part × Creation :=
  match create c q p with
  | (p, .refused) => (raise c (.outboxFull q.kind q.slot? q.reg) p, .refused)
  | (p, .taken id) => (p, .taken id)
  | (p, .held) => (p, .held)

/-- Positions of a contact list, each WAITING (R160). -/
def waitingPositions (l : List Nat) : List Position := l.map (fun n => ⟨n, .waiting⟩)

/-! ## Withdrawal -/

/-- The PMU's answer to a withdrawal (R172). -/
structure Withdrawal where
  found : Bool
  handed : Bool
  contacts : List Nat
  deriving DecidableEq, Repr

/-- Withdraws one entry: WAITING contacts are cancelled, an open offer of it ends with the gateway state unchanged, and the
entry's state follows (R172). -/
def withdrawEntry (c : Clock) (e : OutEntry) (p : Part) : Part × Withdrawal :=
  let facts : Withdrawal := ⟨true, p.pmu.anyHanded e, p.pmu.handedContacts e⟩
  let p := onEntry e.id OutEntry.cancelled p
  let p := { p with pmu.offer := p.pmu.offer.filter (fun o => o.handle.id != e.id) }
  (follow c e.id p, facts)

/-- Withdraws by id. -/
def withdrawId (c : Clock) (id : Nat) (p : Part) : Part × Withdrawal :=
  match p.entry? id with
  | none => (p, ⟨false, false, []⟩)
  | some e => withdrawEntry c e p

/-- Withdraws by slot, kind and r (R172). -/
def withdrawFor (c : Clock) (k : OutKind) (n : Nat) (x : Reg) (p : Part) : Part × Withdrawal :=
  match p.entryFor? k n x with
  | none => (p, ⟨false, false, []⟩)
  | some e => withdrawEntry c e p

/-- Withdraws every entry that a test picks, in outbox order. -/
def withdrawAll (c : Clock) (pick : OutEntry → Bool) (p : Part) : Part :=
  ((p.pmu.outbox.filter pick).map (·.id)).foldl (fun p id => (withdrawId c id p).1) p

/-- WAITING entries whose eligible time the clock has reached become READY (R162). -/
def eligibleReached (c : Clock) (p : Part) : Part :=
  { p with pmu.outbox := p.pmu.outbox.map (fun e => if e.ready then e else { e with ready := reachedStamp c e.eligible }) }

end Sys2Proof.Machine
end

