-- ==== Sys2Proof/Machine/Sweep.lean ====
section
/-!
DEFINITION. The sweep records: making, cutoffs, holds, starting, skipping (R132 to R138, R144). The step of a running
sweep stands in Absence.lean.
-/

namespace Sys2Proof.Machine

/-- The sweep record of r. -/
def Sweeps.get? (s : Sweeps) : Reg → Option Sweep
  | .am => s.am
  | .pm => s.pm

/-- Replaces the sweep record of r. -/
def Sweeps.set (s : Sweeps) (x : Reg) (v : Option Sweep) : Sweeps :=
  match x with
  | .am => { s with am := v }
  | .pm => { s with pm := v }

/-- Changes every record. -/
def Sweeps.map (f : Reg → Sweep → Sweep) (s : Sweeps) : Sweeps :=
  { s with am := s.am.map (f .am), pm := s.pm.map (f .pm) }

/-- RUNNING, BLOCKED, SUSPENDED or DONE: the states in which UNSET writes are held back (R82, R143). -/
def Sweep.begun (s : Sweep) : Bool :=
  s.state == .running || s.state == .blocked || s.state == .suspended || s.state == .done

/-- The sweep of r is RUNNING, BLOCKED, SUSPENDED or DONE. -/
def Part.sweepBegun (p : Part) (x : Reg) : Bool := ((p.sweeps.get? x).map Sweep.begun).getD false

/-- The sweep of r is SKIPPED. -/
def Part.sweepSkipped (p : Part) (x : Reg) : Bool :=
  ((p.sweeps.get? x).map (fun s => s.state == .skipped)).getD false

/-! ## Holds -/

/-- The recovery hold stands (R137). -/
def Part.recoveryHold (p : Part) : Bool := (p.register?.map (fun r => r.state == .recovery)).getD false

/-- The alert hold stands (R137). -/
def Part.alertHold (p : Part) : Bool := !p.noAlert || p.sweeps.resume.isSome

/-- Some hold stands (R137). -/
def Part.held (p : Part) : Bool := p.recoveryHold || p.alertHold

/-- "Every RUNNING or BLOCKED record becomes SUSPENDED at its cursor" (R137). -/
def Sweep.suspend (s : Sweep) : Sweep :=
  if s.state = .running ∨ s.state = .blocked then { s with state := .suspended } else s

/-- "Every SUSPENDED record becomes RUNNING at its cursor" (R137). -/
def Sweep.release (s : Sweep) : Sweep := if s.state = .suspended then { s with state := .running } else s

/-- A hold has begun (R137). -/
def suspendSweeps (p : Part) : Part := { p with sweeps := p.sweeps.map (fun _ s => s.suspend) }

/-- A hold has ended: when none stands, the suspended records run (R137). -/
def releaseSweeps (p : Part) : Part :=
  if p.held then p else { p with sweeps := p.sweeps.map (fun _ s => s.release) }

/-! ## Cutoffs and starting -/

/-- The cutoff K of period k (R134); none when the period is cancelled in every zone of today's zone set. -/
def Today.cutoff (t : Today) (k : Nat) : Option Nat :=
  greatest ((t.terms.filterMap (fun z => t.effective k z)).map (fun se => se.1 + t.plan.close * 60))

/-- The cutoff of registration period r (R134). -/
def Today.cutoffOf (t : Today) (x : Reg) : Option Nat := (t.reg? x).bind t.cutoff

/-- The clock stands at or past second K of the open record's date (R135). -/
def atOrPast (c : Clock) (r : DayRecord) (k : Nat) : Bool :=
  match c.reading with
  | none => false
  | some x => x.date == r.date && decide (k ≤ x.second)

/-- A WAITING record starts (R135). -/
def Sweep.start (c : Clock) (held : Bool) (s : Sweep) : Sweep :=
  { s with state := if held then .suspended else .running, cursor := 0, startedAt := c.second? }

/-- Starts every WAITING record whose cutoff the clock has reached (R135). -/
def startDue (c : Clock) (p : Part) : Part :=
  match p.openDay with
  | none => p
  | some r =>
    { p with sweeps := p.sweeps.map (fun _ s =>
        if s.state = .waiting ∧ (s.cutoff.map (atOrPast c r)).getD false then s.start c p.held else s) }

/-- A new record (R133). -/
def makeSweep (c : Clock) (now : Nat) (t : Today) (recovery : Bool) (k : Nat) : Sweep :=
  let cut := t.cutoff k
  let base : Sweep :=
    { state := .waiting, cutoff := cut, cursor := 0, notified := 0, onSite := 0, excused := 0, startedAt := none, doneAt := none }
  match cut with
  | none => { base with state := .skipped }
  | some q => if recovery ∧ q ≤ now then { base with state := .suspended, startedAt := c.second? } else base

/-- The records of today's plan made anew (R133). -/
def makeSweeps (c : Clock) (t : Today) (p : Part) : Part :=
  { p with sweeps.am := (t.reg? .am).map (makeSweep c (p.now c) t p.recoveryHold)
           sweeps.pm := (t.reg? .pm).map (makeSweep c (p.now c) t p.recoveryHold) }

/-- A WAITING record takes the cutoff of the new effective times (R134). -/
def Sweep.recut (t : Today) (x : Reg) (s : Sweep) : Sweep :=
  if s.state = .waiting then { s with cutoff := t.cutoffOf x } else s

/-- A record of a period that is cancelled in every zone becomes SKIPPED with cutoff NONE, unless it is DONE (R144); so does one
that a PLAN TODAY left WAITING with cutoff NONE (log 84). -/
def Sweep.skipCancelled (t : Today) (x : Reg) (s : Sweep) : Sweep :=
  if (t.cutoffOf x).isNone ∧ s.state ≠ .done then { s with state := .skipped, cutoff := none } else s

/-- A record at day close (R144). -/
def Sweep.skipAtClose (s : Sweep) : Sweep := if s.state = .done then s else { s with state := .skipped }

/-- The sweeps after today's effective times have changed by DELAY, EARLY CLOSE or a warm restart (R134, R135, R144). -/
def sweepsAfterTimes (c : Clock) (t : Today) (p : Part) : Part :=
  startDue c { p with sweeps := p.sweeps.map (fun x s => (s.skipCancelled t x).recut t x) }

/-- PLAN TODAY: a record carried whole with a fresh cutoff when WAITING, or a new one, or none (R133). -/
def carriedSweep (c : Clock) (t : Today) (p : Part) (x : Reg) : Option Sweep :=
  (t.reg? x).map (fun k =>
    match p.sweeps.get? x with
    | some s => s.recut t x
    | none => makeSweep c (p.now c) t p.recoveryHold k)

/-- The sweep records after a PLAN TODAY (R133); a new record whose cutoff has come starts at once (R135, log 74). -/
def sweepsAfterPlan (c : Clock) (t : Today) (p : Part) : Part :=
  startDue c { p with sweeps.am := carriedSweep c t p .am, sweeps.pm := carriedSweep c t p .pm }

/-- The resume time is reached: it becomes NONE, and held sweeps may run (R138). -/
def resumeReached (p : Part) : Part := releaseSweeps { p with sweeps.resume := none }

/-- The all-clear sets the resume time: clock plus settle; a settle of 0 is reached at once, and so is the hold of an all-clear
under an UNSET clock (R138, log 24). -/
def resumeAtAllClear (c : Clock) (p : Part) : Part :=
  match c.second? with
  | none => resumeReached p
  | some s =>
    if p.work.gateway.settle = 0 then resumeReached p
    else { p with sweeps.resume := some (s + p.work.gateway.settle * 60) }

end Sys2Proof.Machine
end

