-- ==== Sys2Proof/Machine/Writes.lean ====
section
/-!
DEFINITION. Mark writes with their effects on the outbox (R76 to R80, R86 to R88, R92), and the making of the register:
at day open, at enrolment, and at the rebuilds of PLAN TODAY and of a warm restart (R65, R74, R75, R94, R96).
-/

namespace Sys2Proof.Machine

/-! ## Writes -/

/-- ABSENT_EXCUSED, OFFSITE, NOT_REQUIRED: the values of an excusing or releasing write (R88). -/
def isReleasing (v : MarkValue) : Bool := v == .absentExcused || v == .offsite || v == .notRequired

/-- The CORRECTION entry that the register asks for (R87, R160, R173). -/
def correctionRequest (c : Clock) (p : Part) (n : Nat) (x : Reg) (contacts : List Nat) : EntryRequest :=
  { kind := .correction, target := .slot n (waitingPositions contacts), reg := some x
    source := .template (p.work.mapped .correction), time := c.second?, minutes := none, level := none, settle := 0 }

/-- What follows an arrival write over status PENDING (R87). -/
def arrivalFollows (c : Clock) (n : Nat) (x : Reg) (p : Part) : Part :=
  match withdrawFor c .absence n x p with
  | (q, w) =>
    if w.handed then
      match createOrReport c (correctionRequest c q n x w.contacts) q with
      | (q, .refused) => setNotice n x .none q
      | (q, .taken _) => setNotice n x .corrected q
      | (q, .held) => setNotice n x .corrected q
    else setNotice n x .none q

/-- What follows an excusing or releasing write over status PENDING (R88). -/
def releaseFollows (c : Clock) (n : Nat) (x : Reg) (p : Part) : Part :=
  setNotice n x .none (withdrawFor c .absence n x p).1

/-- What follows an applied write to a registration record, by its status before the write (R87, R88). -/
def noticeFollows (c : Clock) (v : MarkValue) (n : Nat) (x : Reg) (old : Mark) (p : Part) : Part :=
  if old.notice = some .pending then
    if isArrival v then arrivalFollows c n x p else if isReleasing v then releaseFollows c n x p else p
  else p

/-- "Writes over a station LATE" withdraw the LATE entry (R88). -/
def lateFollows (c : Clock) (v : MarkValue) (n : Nat) (x : Reg) (old : Mark) (p : Part) : Part :=
  if old.value = .late ∧ old.source = some .station ∧ v ≠ .late then (withdrawFor c .late n x p).1 else p

/-- What follows an applied write on the outbox (R87, R88). -/
def writeFollows (c : Clock) (v : MarkValue) (n : Nat) (old : Mark) (p : Part) : Part :=
  match old.period.reg with
  | none => p
  | some x => lateFollows c v n x old (noticeFollows c v n x old p)

/-- A write: applied with all its effects when precedence allows it, and skipped otherwise (R76). The answer tells which. -/
def writeMark (c : Clock) (w : Write) (n k : Nat) (p : Part) : Part × Bool :=
  match p.register? with
  | none => (p, false)
  | some r =>
    match r.slot? n with
    | none => (p, false)
    | some d =>
      match d.mark? k with
      | none => (p, false)
      | some m =>
        if w.allowed m then (writeFollows c w.value n m (p.onRegister (Register.apply c w n d m)), true) else (p, false)

/-- A write of the part without minutes, band or reason. -/
def plainWrite (writer : Writer) (v : MarkValue) : Write := { writer := writer, value := v, minutes := none, reason := 0, band := none }

/-! ## Cancellation writes -/

/-- The register's periods that are newly cancelled in a zone (R92). -/
def Register.cancelledNow (r : Register) (before after : Today) (z : Nat) : List Nat :=
  (r.periods.map (·.number)).filter (fun k => newlyCancelled before after k z)

/-- NOT_REQUIRED from SYSTEM to the records of periods newly cancelled in the slots' home zones (R92); slots in slot order,
periods in period order (log 23). -/
def cancellationWrites (c : Clock) (before after : Today) (p : Part) : Part :=
  match p.register? with
  | none => p
  | some r => p.work.slots.foldl (fun p e =>
      (r.cancelledNow before after e.2.zone).foldl (fun p k => (writeMark c (plainWrite .system .notRequired) e.1 k p).1) p) p

/-! ## Making the register -/

/-- A fresh record: NOT_REQUIRED when the period is cancelled in the home zone, UNSET otherwise (R74). -/
def freshMark (c : Clock) (t : Today) (z : Nat) (m : MarkedPeriod) : Mark :=
  if t.cancelled m.number z then Mark.notRequired c m else Mark.unset m (freshNotice m)

/-- The register state at day open: RECOVERY when the clock is later than the least S(AM, z) (R75), the starts taken before any
cancellation (log 71). -/
def stateAtOpen (c : Clock) (t : Today) : RegisterState :=
  match (t.reg? .am).bind t.period? with
  | none => .normal
  | some q => if (least (t.terms.map (t.rawStart q))).getD 0 < c.second then .recovery else .normal

/-- The register at day open (R74). -/
def makeRegister (c : Clock) (img : Image) (t : Today) : Register :=
  let periods := t.plan.marked
  let slots : Table SlotDay := img.slots.map (fun e => (e.1, ⟨periods.map (freshMark c t e.2.zone), .notArrived, 0⟩))
  { state := stateAtOpen c t, periods := periods, slots := slots, onSite := 0, tallies := countTallies periods slots
    changes := 0, exporting := none }

/-- A slot without records: NOT_ARRIVED and never changed (R78, R80). -/
def SlotDay.fresh : SlotDay := ⟨[], .notArrived, 0⟩

/-- New records for every non-vacant slot, made from its home zone and its old records, with one advance of the change
sequence for each, in slot order; a slot keeps its presence (R94, R96). -/
def renewSlots (mk : Nat → List Mark → List Mark) (old : Table SlotDay) : Nat → Table Slot → Table SlotDay × Nat
  | q, [] => ([], q)
  | q, (n, x) :: t =>
    let q := nextChange q
    let d := (Table.get? old n).getD SlotDay.fresh
    let rest := renewSlots mk old q t
    ((n, { d with marks := mk x.zone d.marks, lastChange := q }) :: rest.1, rest.2)

/-- A rebuilt register over the non-vacant slots: presence and on-site count kept, tallies counted afresh, export IDLE
(R94, R96). -/
def Register.renew (r : Register) (slots : Table Slot) (periods : List MarkedPeriod) (state : RegisterState)
    (mk : Nat → List Mark → List Mark) : Register :=
  let made := renewSlots mk r.slots r.changes slots
  { r with state := state, periods := periods, slots := made.1, tallies := countTallies periods made.1, changes := made.2
           exporting := none }

/-- The record of a period of the new plan: one cancelled in the home zone is made under R74, with status NONE and the reading
at day open; a registration record takes the old record of the same r; any other is UNSET (R94, log 43). -/
def carriedMark (t : Today) (z : Nat) (old : List Mark) (m : MarkedPeriod) : Mark :=
  if t.cancelled m.number z then Mark.notRequiredAt (some t.openReading) m
  else match m.reg.bind (fun x => old.find? (fun a => a.period.reg == some x)) with
    | some a => { a with period := m }
    | none => Mark.unset m (freshNotice m)

/-- Slots whose PM record has status PENDING. -/
def Register.pendingPm (r : Register) : List Nat :=
  (r.slots.filter (fun e => e.2.marks.any (fun m => m.period.reg == some .pm && m.notice == some .pending))).map (·.1)

/-- The rebuild of PLAN TODAY (R94). -/
def registerAfterPlan (c : Clock) (t : Today) (p : Part) : Part :=
  match p.register? with
  | none => p
  | some r =>
    let periods := t.plan.marked
    let q := p.onRegister (fun r =>
      r.renew p.work.slots periods r.state (fun z old => periods.map (carriedMark t z old)))
    if (regNumber periods .pm).isNone then r.pendingPm.foldl (fun q n => (withdrawFor c .absence n .pm q).1) q else q

/-- The rebuild of a warm restart whose marked periods differ (R96). -/
def registerAfterRestart (c : Clock) (t : Today) (p : Part) : Part :=
  let periods := t.plan.marked
  let q := p.onRegister (fun r =>
    r.renew p.work.slots periods .recovery (fun z _ => periods.map (freshMark c t z)))
  withdrawAll c (fun e => e.kind == .absence || e.kind == .late) q

/-! ## Enrolment during the open day -/

/-- The record of a newly enrolled slot (R65). -/
def enrolledMark (c : Clock) (p : Part) (r : DayRecord) (t : Today) (z : Nat) (m : MarkedPeriod) : Mark :=
  let off := Mark.notRequired c m
  let unset := Mark.unset m (freshNotice m)
  if t.cancelled m.number z then off
  else match m.reg with
    | some x => if p.sweepSkipped x || p.sweepBegun x then off else unset
    | none => match t.effective m.number z with
      | some (s, _) => if s ≤ c.dayNow r then off else unset
      | none => off

/-- Adds a newly enrolled slot to the register (R65, R79, R80). -/
def Register.enrol (n : Nat) (marks : List Mark) (r : Register) : Register :=
  let q := nextChange r.changes
  { r with slots := Table.put r.slots n ⟨marks, .notArrived, q⟩, changes := q
           tallies := marks.foldl (fun l m => onTally m.period.number (fun t => t.add m) l) r.tallies }

/-- The slot's entry of the first-arrival table is NONE (R110). -/
def forgetArrival (n : Nat) (p : Part) : Part := { p with desk.firstArrivals := Table.erase p.desk.firstArrivals n }

/-- An enrolment's effect on an open day (R65, R110). -/
def enrolToday (c : Clock) (n z : Nat) (p : Part) : Part :=
  match p.openDay, p.bells.today with
  | some r, some t => forgetArrival n (p.onRegister (fun x => x.enrol n (x.periods.map (enrolledMark c p r t z))))
  | _, _ => p

/-- The record of a reinstated slot: an UNSET registration record whose sweep has begun becomes NOT_REQUIRED (R65). -/
def reinstatedMark (c : Clock) (p : Part) (m : Mark) : Mark :=
  match m.period.reg with
  | none => m
  | some x => if m.value = .unset ∧ p.sweepBegun x then { Mark.notRequired c m.period with notice := m.notice } else m

/-- Puts a slot's changed records in the register: tallies follow, and the change sequence advances once (R65). -/
def Register.replaceMarks (n : Nat) (d : SlotDay) (marks : List Mark) (r : Register) : Register :=
  let q := nextChange r.changes
  { r with slots := Table.put r.slots n { d with marks := marks, lastChange := q }, changes := q
           tallies := (d.marks.zip marks).foldl (fun l e =>
             onTally e.1.period.number (fun t => (t.remove e.1).add e.2) l) r.tallies }

/-- A reinstatement's effect on an open day (R65, log 41). -/
def reinstateToday (c : Clock) (n : Nat) (p : Part) : Part :=
  match (p.register?).bind (fun r => r.slot? n) with
  | none => p
  | some d =>
    let marks := d.marks.map (reinstatedMark c p)
    if marks = d.marks then p else p.onRegister (Register.replaceMarks n d marks)

end Sys2Proof.Machine
end

