-- ==== Sys2Proof/Machine/Scores.lean ====
section
/-!
DEFINITION. The day lateness, the tardy score and the escalation level (R70, R127 to R131).
-/

namespace Sys2Proof.Machine

/-- The minutes that a record counts: those of a LATE registration record (R127). -/
def Mark.lateMinutes (m : Mark) : Nat := if m.period.reg.isSome ∧ m.value = .late then m.minutes.getD 0 else 0

/-- The day lateness D of a slot (R127). -/
def SlotDay.lateness (d : SlotDay) : Nat := min (d.marks.map Mark.lateMinutes).sum Config.minutesMax

/-- The new score Q': decay, addition, saturation (R128). -/
def newScore (d q lateness : Nat) : Nat := min (q - q * d / 256 + lateness * 16) Config.scoreMax

/-- Threshold T_i, i from 1 (R70). -/
def Policy.threshold (pol : Policy) (i : Nat) : Nat := if i = 1 then pol.t1 else if i = 2 then pol.t2 else pol.t3

/-- The number of thresholds met by a score (R70, R129). -/
def Policy.met (pol : Policy) (q : Nat) : Nat := ([1, 2, 3].filter (fun i => decide (pol.threshold i ≤ q))).length

/-- The number of i in 1..L with Q' at or above T_i - H (R130). -/
def Policy.held (pol : Policy) (l q : Nat) : Nat :=
  ([1, 2, 3].filter (fun i => decide (i ≤ l) && decide (pol.threshold i ≤ q + pol.h))).length

/-- The new level L' (R129, R130). -/
def Policy.level (pol : Policy) (l q : Nat) : Nat :=
  if l ≤ pol.met q then pol.met q else max (pol.met q) (pol.held l q)

/-- The map entry of an escalation level (R61). -/
def escalationEntry (l : Nat) : MapEntry := if l = 1 then .escalation1 else if l = 2 then .escalation2 else .escalation3

/-- The ESCALATION entry of a rise (R129, R160). -/
def escalationRequest (p : Part) (n : Nat) (x : Slot) (level : Nat) : EntryRequest :=
  { kind := .escalation, target := .slot n (waitingPositions x.contacts), reg := none
    source := .template (p.work.mapped (escalationEntry level)), time := none, minutes := none, level := some level
    settle := 0 }

/-- The score update of one ENROLLED slot (R128 to R131). -/
def scoreSlot (c : Clock) (n : Nat) (x : Slot) (d : SlotDay) (p : Part) : Part :=
  let pol := p.work.policy
  let q := newScore pol.d x.score d.lateness
  let l := pol.level x.level q
  let p := p.setSlot n { x with score := q, level := l }
  if x.level < l then (createOrReport c (escalationRequest p n x l) p).1
  else if l < x.level then raise c (.levelDown n x.number x.level l q) p
  else p

/-- The records of a slot at day close: those of the register; a slot that it lacks has none, and a lateness of 0 (R127,
log 66). -/
def Part.dayOf (p : Part) (n : Nat) : SlotDay := (p.register?.bind (fun r => r.slot? n)).getD SlotDay.fresh

/-- The score update of every ENROLLED slot, in slot order (R71, R131). -/
def scoreAll (c : Clock) (p : Part) : Part :=
  p.work.slots.foldl (fun q e => if e.2.state = .enrolled then scoreSlot c e.1 e.2 (p.dayOf e.1) q else q) p

/-- SCORE SET: every level recomputed as the count of thresholds met (R70). -/
def relevel (pol : Policy) (l : Table Slot) : Table Slot := l.map (fun e => (e.1, { e.2 with level := pol.met e.2.score }))

/-- The slots whose level a policy changes (R70). -/
def levelsChanged (pol : Policy) (l : Table Slot) : Nat := (l.filter (fun e => e.2.level != pol.met e.2.score)).length

end Sys2Proof.Machine
end

