-- ==== Sys2Proof/Machine/Day.lean ====
section
/-!
DEFINITION. The two events of the school day and their tests: evaluation, day open, day close, midnight (R11 to R18, R25,
R71, R95, R144, R158, R177), and what an advance or a step of the clock reaches (R2, R4).
-/

namespace Sys2Proof.Machine

/-- The part's own write of a list of items, when there is one to write (R63). -/
def ownWriteSome (items : List StoreItem) (p : Part) : Part := if items.isEmpty then p else ownWrite items p

/-! ## Evaluation and day open -/

/-- Evaluates the day kind of a date (R11, R12). -/
def evaluate (d : Date) (p : Part) : Part := { p with day := some (p.work.evaluate d) }

/-- The open time O of the record, while it is a SCHOOL record, CLOSED with done no (R13). -/
def Part.openTimeOf (p : Part) (r : DayRecord) : Option Nat :=
  if r.kind = .school ∧ r.phase = .closed ∧ !r.done then
    r.plan.map (fun n => openTime p.work p.bells.pendingDelay (p.work.plan n))
  else none

/-- Today's copy, taken from the pending delay (R25). -/
def copyToday (c : Clock) (n : Nat) (p : Part) : Today := makeToday p.work n p.bells.pendingDelay none c.second

/-- Day open for a record and its plan (R14): every block's response in turn. -/
def dayOpen (c : Clock) (r : DayRecord) (n : Nat) (p : Part) : Part :=
  let p := raise c (.dayOpen r.date n) { p with day := some { r with phase := .opened } }
  let t := copyToday c n p
  let p := { p with bells.today := some t, bells.pendingDelay := 0 }
  let p := buildRing c t c.second p
  let p := { p with reg.register := some (makeRegister c p.work t) }
  let p := makeSweeps c t p
  activityAtOpen c { p with desk.firstArrivals := [] }

/-- Day open when its conditions hold (R14). -/
def tryOpen (c : Clock) (p : Part) : Part :=
  match p.day with
  | none => p
  | some r =>
    match r.plan, p.openTimeOf r, c.second? with
    | some n, some o, some s => if o ≤ s then dayOpen c r n p else p
    | _, _, _ => p

/-! ## Day close -/

/-- The rota advance at day close (R17). -/
def advanceRota (p : Part) : Part :=
  let r := p.work.rota
  let i := if r.index + 1 < r.plans.length then r.index + 1 else 0
  ownWrite [.rota] { p with work.rota := { r with index := i } }

/-- Yesterday's set (R95). -/
def keepYesterday (r : DayRecord) (p : Part) : Part :=
  match p.register? with
  | none => p
  | some g => { p with reg.yesterday := some { date := r.date, plan := r.plan.getD 0, tallies := g.tallies, onSite := g.onSite
                                               nonVacant := p.work.nonVacant } }

/-- The slots in a state, as store items. -/
def slotsIn (st : SlotState) (p : Part) : List StoreItem :=
  (p.work.slots.filter (fun e => e.2.state == st)).map (fun e => .slot e.1)

/-- The RS at day close: scores written, then LEFT slots VACANT (R71). -/
def rosterAtClose (p : Part) : Part :=
  let p := ownWriteSome (slotsIn .enrolled p) p
  let left := slotsIn .left p
  ownWriteSome left { p with work.slots := p.work.slots.filter (fun e => e.2.state == .enrolled) }

/-- A kind of entry that speaks of one day (R177). -/
def OutKind.daily : OutKind → Bool
  | .absence => true | .late => true | .correction => true
  | .alert => false | .escalation => false | .general => false | .confirm => false

/-- An entry that day close withdraws (R177). -/
def OutEntry.isStale (e : OutEntry) : Bool := e.kind.daily && e.hasWaiting

/-- The PMU at day close: stale entries withdrawn, with one notice of their number (R177). -/
def outboxAtClose (c : Clock) (p : Part) : Part :=
  let n := (p.pmu.outbox.filter OutEntry.isStale).length
  let q := withdrawAll c OutEntry.isStale p
  if n = 0 then q else raise c (.staleWithdrawn n) q

/-- The purge of the excuse list (R158). -/
def purgeExcuses (d : Date) (p : Part) : Part :=
  let kept := p.work.excuses.filter (fun e => decide (d < e.date))
  if kept.length = p.work.excuses.length then p else ownWrite [.excuses] { p with work.excuses := kept }

/-- The AS at day close: records not DONE are SKIPPED, and the resume time is NONE (R138, R144). -/
def sweepsAtClose (p : Part) : Part :=
  { p with sweeps.am := p.sweeps.am.map Sweep.skipAtClose, sweeps.pm := p.sweeps.pm.map Sweep.skipAtClose
           sweeps.resume := none }

/-- Day close of a record, with every block's response, in the order of log 60 (R16). -/
def dayClose (c : Clock) (r : DayRecord) (p : Part) : Part :=
  let p := { p with day := some { r with phase := .closed, done := true } }
  let p := raise c (.dayClose r.date) (advanceRota p)
  let p := keepYesterday r (scoreAll c p)
  let p := rosterAtClose { p with reg.register := none }
  let p := purgeExcuses r.date (outboxAtClose c p)
  let p := sweepsAtClose p
  activityAtClose c { p with bells.ring := [], bells.today := none, desk.firstArrivals := [] }

/-- "Time passed": at or past C on the record date, or DATE beyond it (R16). -/
def timePassed (c : Clock) (r : DayRecord) (t : Today) : Bool :=
  match c.reading with
  | none => false
  | some x => x.date != r.date || decide (t.closeTime ≤ x.second)

/-- The day close test, for a record of the date shown (R16). -/
def closeNow (c : Clock) (p : Part) : Part :=
  match p.openDay, p.bells.today with
  | some r, some t => if p.noAlert && timePassed c r t then dayClose c r p else p
  | _, _ => p

/-- The date shown is evaluated, and its record may open and close at once (R11, R14). -/
def evaluateAndTest (c : Clock) (p : Part) : Part :=
  match c.reading with
  | none => p
  | some x => closeNow c (tryOpen c (evaluate x.date p))

/-- The record's date is not the one shown: its close was deferred past midnight (R12, R18). -/
def deferred (c : Clock) (r : DayRecord) : Bool :=
  match c.reading with
  | none => false
  | some x => x.date != r.date

/-- The day close test (R16); the close of a record deferred past midnight is followed by an evaluation of the date shown
(R18). -/
def tryClose (c : Clock) (p : Part) : Part :=
  match p.openDay with
  | none => p
  | some r => if p.noAlert && deferred c r then evaluateAndTest c (dayClose c r p) else closeNow c p

/-! ## Midnight -/

/-- Midnight on the day record (R18). -/
def midnightDay (c : Clock) (p : Part) : Part :=
  match p.openDay with
  | none => evaluateAndTest c p
  | some r => if p.noAlert then evaluateAndTest c (dayClose c r p) else p

/-- Midnight: the day record, then the resume time (R18, R138). -/
def midnight (c : Clock) (p : Part) : Part :=
  let q := midnightDay c p
  if q.sweeps.resume.isSome then resumeReached q else q

/-! ## Advances and steps -/

/-- Sets the TIME flag when the wake time lies among the seconds reached, `first` to `past - 1` (R197). -/
def wakeTimeAmong (c : Clock) (first past : Nat) (p : Part) : Part :=
  match p.hl.wakeTime with
  | none => p
  | some m => if first ≤ m * 60 ∧ m * 60 < past then setFlag c .time p else p

/-- The resume time lies among the seconds reached (R138). -/
def resumeAmong (first past : Nat) (p : Part) : Part :=
  match p.sweeps.resume with
  | none => p
  | some k => if first ≤ k ∧ k < past then resumeReached p else p

/-- What the seconds `a .. b - 1` reach beside the ring table: day open first, then sweeps, outbox, resume time, wake time,
day close last (log 5). `ring` is the ring table's own response. -/
def reachSeconds (c : Clock) (a b : Nat) (ring : Part → Part) (p : Part) : Part :=
  let p := ring (tryOpen c p)
  let p := eligibleReached c (startDue c p)
  tryClose c (wakeTimeAmong c a b (resumeAmong a b p))

/-- A new second by running or slewing (R2). -/
def newSecond (c : Clock) (p : Part) : Part := reachSeconds c c.second (c.second + 1) (reachAt c c.second) p

/-- A step on the same date (R4): forward it reaches every second it passes over, backward it reaches nothing. -/
def stepped (c : Clock) (old new : Nat) (p : Part) : Part :=
  if old < new then reachSeconds c (old + 1) (new + 1) (stepRing c old new) p else tryClose c (tryOpen c p)

/-- What a date change makes known to the AS and the PMU, forward or back (R5, R138, R162, log 7). -/
def dateChanged (c : Clock) (forward : Bool) (p : Part) : Part :=
  if forward then
    let q := eligibleReached c p
    if q.sweeps.resume.isSome then resumeReached q else q
  else p

/-! ## The clock itself -/

/-- What an advance of the clock brings. -/
inductive Advance where
  | within | second | midnight
  deriving DecidableEq, Repr

/-- Adds sixteenths to a reading (R2). At most two are added at a time, so at most one second is passed. -/
def Reading.advance (x : Reading) (n : Nat) : Reading × Advance :=
  if x.fraction + n < 16 then ({ x with fraction := x.fraction + n }, .within)
  else if x.second + 1 < Config.daySeconds then ({ x with second := x.second + 1, fraction := x.fraction + n - 16 }, .second)
  else ({ date := nextDate x.date, second := 0, fraction := x.fraction + n - 16 }, .midnight)

/-- The sixteenths that this sixteenth of a crystal second adds, and the slew after it: the extra or withheld sixteenth falls
at the end of each crystal second (R2, log 4). -/
def slewStep (crystal : Nat) (slew : Int) : Nat × Int :=
  if crystal % Config.sixteenths = 0 ∧ slew > 0 then (2, slew - 1)
  else if crystal % Config.sixteenths = 0 ∧ slew < 0 then (0, slew + 1)
  else (1, slew)

/-- One sixteenth of a crystal second (R2). -/
def Clock.tick (c : Clock) : Clock × Advance :=
  match c.reading with
  | none => ({ c with crystal := c.crystal + 1 }, .within)
  | some x =>
    let n := slewStep (c.crystal + 1) c.slew
    let y := x.advance n.1
    ({ crystal := c.crystal + 1, reading := some y.1, slew := n.2 }, y.2)

/-- What the tick's advance does to the part. A second of day is reached only while DATE is unchanged (R2), so a midnight
reaches none, the wake time 00:00 included; the eligible times it comes to are times of a date (R162, log 6). -/
def afterTick (c : Clock) (a : Advance) (p : Part) : Part :=
  match a with
  | .within => p
  | .second => newSecond c p
  | .midnight => eligibleReached c (midnight c p)

/-- The error e of a same-date setting in sixteenths (R4). -/
def clockError (x : Reading) (s : Nat) : Int := (s : Int) * 16 - (x.second : Int) * 16 - (x.fraction : Int)

end Sys2Proof.Machine
end

