-- ==== Sys2Proof/Machine/HostLink.lean ====
section
/-!
DEFINITION. How a command reaches the part: the frame of a request and of an event, replies, the BUSY answer
(R62, R188 to R191, R197).
-/

namespace Sys2Proof.Machine

/-- The outcome of a command. -/
abbrev Result := Host.Outcome State Fault Refusal

/-! ## Replies -/

/-- The word of a reply code (R190). -/
def errWord : ErrCode → String
  | .malformed => "SYNTAX" | .check => "CHECK" | .unknown => "UNKNOWN" | .range => "RANGE" | .state => "STATE"
  | .full => "FULL" | .notFound => "NOTFOUND" | .busy => "BUSY" | .tooLate => "TOOLATE" | .store => "STORE"

/-- OK followed by the request's fields (R190). -/
def ok (fields : List Field) : Reply := { data := [], closing := .word "OK" :: fields, sfx := false }

/-- ERR followed by one code (R190). -/
def err (e : ErrCode) : Reply := { data := [], closing := [.word "ERR", .word (errWord e)], sfx := false }

/-- Data lines closed by OK and a count (R190). -/
def listed (lines : List (List Field)) (n : Nat) : Reply := { data := lines, closing := [.word "OK", .num n], sfx := false }

/-- Data lines closed by OK and their number (R190). -/
def counted (lines : List (List Field)) : Reply := listed lines lines.length

/-- A reply goes on the line; it is in progress "until its last character has been sent" (R190). -/
def answer (r : Reply) (p : Part) : Part := emit (.hostReply r) { p with hl.reply := some r }

/-- A line completed while a reply is in progress: at most one BUSY answer is held, a further line is discarded (R191, log 33). -/
def holdBusy (sfx : Bool) (p : Part) : Part :=
  match p.hl.busy with
  | none => { p with hl.busy := some sfx }
  | some _ => p

/-! ## Frames of commands -/

/-- The part at the start of a command: nothing on the lines yet, and the store's answers of this command (log 9, 35). -/
def begin (ws : List Bool) (p : Part) : Part := { p with out := [], roster.answers := ws }

/-- The part at the end of a command. -/
def finish (p : Part) : Part := { p with roster.answers := [] }

/-- An event on everything but the clock. -/
def event (ws : List Bool) (f : Clock → Part → Part) (s : State) : Result :=
  .next { s with part := finish (f s.clock (begin ws s.part)) }

/-- A request line: it wakes a DORMANT part or ends a service wake; while a reply is in progress it is BUSY, otherwise it is
acted on and its reply sent (R190, R191, R197, R198). The service has ended when STATUS is acted on (R193, log 77). -/
def requestPart (c : Clock) (sfx : Bool) (act : Clock → Part → Part × Reply) (p : Part) : Part :=
  let q := requestLine c p
  if q.hl.reply.isSome then holdBusy sfx q
  else answer { (act c q).2 with sfx := sfx } (act c q).1

/-- A request, with the store's answers to its writes. -/
def request (sfx : Bool) (ws : List Bool) (act : Clock → Part → Part × Reply) (s : State) : Result :=
  event ws (fun c p => requestPart c sfx act p) s

/-- A request that changes no state. -/
def query (sfx : Bool) (read : Clock → Part → Reply) (s : State) : Result :=
  request sfx [] (fun c p => (p, read c p)) s

/-- A refused request: nothing changes. -/
def refuse (e : ErrCode) (p : Part) : Part × Reply := (p, err e)

/-- A request's write to the store, answered ERR STORE when the read-back disagrees (R62). -/
def stored (items : List StoreItem) (f : Image → Image) (p : Part) (k : Part → Part × Reply) : Part × Reply :=
  match requestWrite items f p with
  | (true, q) => k q
  | (false, q) => refuse .store q

/-- A request's write that is answered OK (R62). -/
def storedOk (items : List StoreItem) (f : Image → Image) (p : Part) : Part × Reply :=
  stored items f p (fun q => (q, ok []))

/-! ## Fields of replies -/

/-- The word NONE. -/
def noneWord : Field := .word "NONE"

/-- A dash for an absent item. -/
def dash : Field := .word "-"

/-- A field, or a dash. -/
def orDash {α : Type} (f : α → Field) : Option α → Field
  | none => dash
  | some a => f a

/-- A field, or NONE. -/
def orNone {α : Type} (f : α → Field) : Option α → Field
  | none => noneWord
  | some a => f a

/-- A number field. -/
def nat (n : Nat) : Field := .num n

/-- YES or NO. -/
def yesNo (b : Bool) : Field := .word (if b then "YES" else "NO")

/-- A date and time, or NONE. -/
def stampFields : Option Stamp → List Field
  | none => [noneWord]
  | some x => [.date x.date, .hms x.second]

/-- A list of words, or NONE for an empty one. -/
def wordsOrNone (l : List String) : Field := if l.isEmpty then noneWord else .words l

/-- The words of the alert states. -/
def alertWord : AlertState → String
  | none => "NONE"
  | some .lockdown => "LOCKDOWN"
  | some .evacuate => "EVACUATE"

/-- AM or PM. -/
def regWord : Reg → String
  | .am => "AM"
  | .pm => "PM"

/-- Crystal time still to pass until a point, in seconds rounded up (log 26). -/
def secondsUntil (c : Clock) (point : Nat) : Nat := (point - c.crystal + 15) / Config.sixteenths

end Sys2Proof.Machine
end

