-- ==== Sys2Proof/Machine/ClockRequests.lean ====
section
/-!
DEFINITION. The clock and the calendar: CLOCK_TICK, TIME_SET, TIME_GET, CAL_SET, CAL_GET, EXCEPT_PUT, EXCEPT_DEL, ROTA_SET,
DAY_GET (file 01).
-/

namespace Sys2Proof.Machine

/-- CLOCK_TICK: each sixteenth of a crystal second advances the school clock (R2, R18). -/
def execClockTick (ws : List Bool) (s : State) : Result :=
  .next { s with clock := s.clock.tick.1
                 part := finish (afterTick s.clock.tick.1 s.clock.tick.2 (begin ws s.part)) }

/-! ## TIME SET -/

/-- The clock at a requested reading: fraction 0, no slew (R3, R4, R5). -/
def Clock.at (c : Clock) (d : Date) (s : Nat) : Clock := { c with reading := some ⟨d, s, 0⟩, slew := 0 }

/-- TIME SET while UNSET (R3). -/
def setFromUnset (c : Clock) (d : Date) (s : Nat) (p : Part) : Clock × Part × Reply :=
  (c.at d s, evaluateAndTest (c.at d s) p, ok [.word "SET"])

/-- A same-date setting: slewed within 1,920 sixteenths, stepped beyond (R4). -/
def setSameDate (c : Clock) (x : Reading) (s : Nat) (p : Part) : Clock × Part × Reply :=
  let e := clockError x s
  if e.natAbs ≤ Config.slewMax then ({ c with slew := e }, p, ok [.word "SLEW", .num e])
  else
    let c' := c.at x.date s
    (c', stepped c' x.second s (raise c' (.clockStep ⟨x.date, x.second⟩ ⟨x.date, s⟩) p), ok [.word "STEP"])

/-- A date change that is taken, after any day close (R5). -/
def changeDate (c : Clock) (x : Reading) (d : Date) (s : Nat) (p : Part) : Clock × Part × Reply :=
  let c' := c.at d s
  let p := raise c' (.clockStep ⟨x.date, x.second⟩ ⟨d, s⟩) p
  (c', evaluateAndTest c' (dateChanged c' (decide (x.date < d)) p), ok [.word "DATE"])

/-- A date change by the day record and the alert state (R5). -/
def setOtherDate (c : Clock) (x : Reading) (d : Date) (s : Nat) (force : Bool) (p : Part) : Clock × Part × Reply :=
  match p.openDay with
  | none => changeDate c x d s p
  | some r => if p.noAlert && force then changeDate c x d s (dayClose c r p) else (c, refuse .state p)

/-- TIME SET (R3). -/
def setTime (c : Clock) (date : DateField) (time : TimeField) (force : Bool) (p : Part) : Clock × Part × Reply :=
  match dateOf date, secondOf time with
  | some d, some s =>
    match c.reading with
    | none => setFromUnset c d s p
    | some x => if x.date = d then setSameDate c x s p else setOtherDate c x d s force p
  | _, _ => (c, refuse .range p)

/-- TIME_SET (R3 to R5). -/
def execTimeSet (sfx : Bool) (date : DateField) (time : TimeField) (force : Bool) (ws : List Bool) (s : State) : Result :=
  let q := requestLine s.clock (begin ws s.part)
  if q.hl.reply.isSome then .next { s with part := finish (holdBusy sfx q) }
  else
    let r := setTime s.clock date time force q
    .next { s with clock := r.1, part := finish (answer { r.2.2 with sfx := sfx } r.2.1) }

/-- The words of the clock states (R1). -/
def clockWord : ClockState → String
  | .unset => "UNSET"
  | .running => "RUNNING"
  | .slewing => "SLEWING"

/-- The reply of TIME GET (R6). -/
def timeReply (c : Clock) : Reply :=
  match c.reading with
  | none => ok [.word "UNSET"]
  | some x => ok [.word (clockWord c.state), .date x.date, .hms x.second, nat x.fraction, .num c.slew]

/-- TIME_GET (R6). -/
def execTimeGet (sfx : Bool) (s : State) : Result := query sfx (fun c _ => timeReply c) s

/-! ## The calendar -/

/-- The word of a day. -/
def dayWord : Weekday → String
  | .mon => "MON" | .tue => "TUE" | .wed => "WED" | .thu => "THU" | .fri => "FRI" | .sat => "SAT" | .sun => "SUN"

/-- No element of a list stands in it twice. -/
def noRepeat {α : Type} [BEq α] : List α → Bool
  | [] => true
  | a :: t => !t.contains a && noRepeat t

/-- Every word of a list lies in its vocabulary. -/
def allKnown {α : Type} : List (Option α) → Option (List α)
  | [] => some []
  | none :: _ => none
  | some a :: t => (allKnown t).map (a :: ·)

/-- CAL SET (R8). -/
def setCalendar (days : List (Option Weekday)) (p : Part) : Part × Reply :=
  match allKnown days with
  | none => refuse .malformed p
  | some l =>
    if noRepeat l then
      storedOk [.weekdays] (fun img => { img with weekdays := weekdays.filter (fun d => l.contains d) }) p
    else refuse .malformed p

/-- CAL_SET (R8). -/
def execCalSet (sfx : Bool) (days : List (Option Weekday)) (ws : List Bool) (s : State) : Result :=
  request sfx ws (fun _ p => setCalendar days p) s

/-- The data line of an exception entry. -/
def exceptionLine (e : Exception) : List Field :=
  match e.kind with
  | .noSchool => [.date e.date, .word "NO_SCHOOL"]
  | .school n => [.date e.date, .word "SCHOOL", nat n]

/-- The reply of CAL GET (R8). -/
def calendarReply (img : Image) : Reply :=
  listed ([wordsOrNone (img.weekdays.map dayWord)]
      :: [nat img.rota.plans.length, nat img.rota.index, .nums img.rota.plans]
      :: img.exceptions.map exceptionLine) img.exceptions.length

/-- CAL_GET (R8). -/
def execCalGet (sfx : Bool) (s : State) : Result := query sfx (fun _ p => calendarReply p.work) s

/-- The plan of an exception kind is in 0..7 (R9). -/
def exceptKindOk : ExceptKind → Bool
  | .noSchool => true
  | .school n => decide (n ≤ 7)

/-- The exception list with an entry written at its date position, or replaced (R9). -/
def putException (e : Exception) (l : List Exception) : List Exception :=
  insertBy (fun a b => decide (a.date ≤ b.date)) e (l.filter (fun a => a.date != e.date))

/-- EXCEPT PUT (R9). -/
def exceptionPut (date : DateField) (kind : ExceptKind) (p : Part) : Part × Reply :=
  match dateOf date with
  | none => refuse .range p
  | some d =>
    if !exceptKindOk kind then refuse .range p
    else if p.work.exceptions.any (fun a => a.date == d) || decide (p.work.exceptions.length < Config.exceptionMax) then
      storedOk [.exceptions] (fun img => { img with exceptions := putException ⟨d, kind⟩ img.exceptions }) p
    else refuse .full p

/-- EXCEPT_PUT (R9). -/
def execExceptPut (sfx : Bool) (date : DateField) (kind : ExceptKind) (ws : List Bool) (s : State) : Result :=
  request sfx ws (fun _ p => exceptionPut date kind p) s

/-- EXCEPT DEL (R9). -/
def exceptionDel (date : DateField) (p : Part) : Part × Reply :=
  match dateOf date with
  | none => refuse .range p
  | some d =>
    if p.work.exceptions.any (fun a => a.date == d) then
      storedOk [.exceptions] (fun img => { img with exceptions := img.exceptions.filter (fun a => a.date != d) }) p
    else refuse .notFound p

/-- EXCEPT_DEL (R9). -/
def execExceptDel (sfx : Bool) (date : DateField) (ws : List Bool) (s : State) : Result :=
  request sfx ws (fun _ p => exceptionDel date p) s

/-- The fields of ROTA SET are in range (R10). -/
def rotaOk (length : Nat) (plans : List Nat) (index : Nat) : Bool :=
  decide (1 ≤ length) && decide (length ≤ 20) && plans.length == length && plans.all (fun n => decide (n ≤ 7)) && decide (index < length)

/-- ROTA SET (R10). -/
def rotaPut (length : Nat) (plans : List Nat) (index : Nat) (p : Part) : Part × Reply :=
  if rotaOk length plans index then storedOk [.rota] (fun img => { img with rota := ⟨plans, index⟩ }) p else refuse .range p

/-- ROTA_SET (R10). -/
def execRotaSet (sfx : Bool) (length : Nat) (plans : List Nat) (index : Nat) (ws : List Bool) (s : State) : Result :=
  request sfx ws (fun _ p => rotaPut length plans index p) s

/-! ## DAY GET -/

/-- The words of the day kinds. -/
def kindWord : DayKind → String
  | .school => "SCHOOL"
  | .noSchool => "NO_SCHOOL"

/-- The words of the day phases. -/
def phaseWord : Phase → String
  | .closed => "CLOSED"
  | .opened => "OPEN"

/-- O while CLOSED with done no, C while OPEN, and DEFERRED while an alert holds the close; a time at or past
86,400 is shown with an hour above 23 (R19, log 47). A NO_SCHOOL record has no O, and its field is left out (log 69). -/
def dayTimes (c : Clock) (r : DayRecord) (p : Part) : List Field :=
  match r.phase, p.bells.today with
  | .opened, some t =>
    .hms t.closeTime :: (if !p.noAlert && timePassed c r t then [.word "DEFERRED"] else [])
  | _, _ => match p.openTimeOf r with
    | none => []
    | some o => [.hms o]

/-- The shift in minutes: "the applied total while the record is OPEN, the pending delay otherwise" (R19). -/
def Part.shiftMinutes (p : Part) : Nat := (p.bells.today.map (·.delayTotal)).getD p.bells.pendingDelay

/-- The reply of DAY GET (R19). -/
def dayReply (c : Clock) (p : Part) : Reply :=
  match p.day with
  | none => ok [.word "UNSET"]
  | some r =>
    ok ([.date r.date, .word (kindWord r.kind), orNone nat r.plan, .word (phaseWord r.phase), yesNo r.done, nat p.shiftMinutes,
         orNone .hm (p.bells.today.bind (·.early))] ++ dayTimes c r p)

/-- DAY_GET (R19). -/
def execDayGet (sfx : Bool) (s : State) : Result := query sfx dayReply s

end Sys2Proof.Machine
end

