-- ==== Sys2Proof/Machine/Operands.lean ====
section
/-!
DEFINITION. How the operands of requests are read: pupils, periods, digits and names (R58, R60, R64, R81).
-/

namespace Sys2Proof.Machine

/-! ## Pupils -/

/-- "A slot outside 0..3071 or a pupil number outside 1..999,999 is refused with ERR RANGE" (R58). -/
def pupilInRange : PupilRef → Bool
  | .slot n => decide (n < Config.slotCount)
  | .number n => decide (1 ≤ n) && decide (n ≤ Config.pupilNumberMax)

/-- The non-vacant slot that a request names, with its record (R58). -/
def Image.pupil (img : Image) : PupilRef → Option (Nat × Slot)
  | .slot n => (Table.get? img.slots n).map (fun x => (n, x))
  | .number n => (img.slotOfNumber n).bind (fun k => (Table.get? img.slots k).map (fun x => (k, x)))

/-- The ENROLLED slot that a request names. -/
def Image.enrolledPupil (img : Image) (r : PupilRef) : Option (Nat × Slot) :=
  (img.pupil r).filter (fun x => x.2.state == .enrolled)

/-! ## Periods -/

/-- The number of a period named in a request, when it is a marked period of today's plan (R81, R89). -/
def Today.markedPeriod (t : Today) : PeriodRef → Option Nat
  | .number n => (t.plan.marked.find? (fun m => m.number == n)).map (·.number)
  | .reg r => t.reg? r

/-! ## Characters -/

/-- A decimal digit. -/
def isDigit (ch : Chr) : Bool := decide (48 ≤ ch.toNat) && decide (ch.toNat ≤ 57)

/-- An upper-case letter. -/
def isUpper (ch : Chr) : Bool := decide (65 ≤ ch.toNat) && decide (ch.toNat ≤ 90)

/-- A lower-case letter. -/
def isLower (ch : Chr) : Bool := decide (97 ≤ ch.toNat) && decide (ch.toNat ≤ 122)

/-- A letter in upper case; other characters stand. -/
def toUpper (ch : Chr) : Chr := if isLower ch then ch - 32 else ch

/-- A space. -/
def space : Chr := 32

/-- The value of a run of digits. -/
def digitsValue (l : Text) : Nat := l.foldl (fun n ch => n * 10 + (ch.toNat - 48)) 0

/-- A text that holds only digits, and some. -/
def allDigits (l : Text) : Bool := !l.isEmpty && l.all isDigit

/-- The digits of a number, the last first, with room for n of them. -/
def digitsRev : Nat → Nat → Text
  | 0, _ => []
  | f + 1, n => BitVec.ofNat 8 (48 + n % 10) :: (if n < 10 then [] else digitsRev f (n / 10))

/-- A number in decimal. -/
def decimal (n : Nat) : Text := (digitsRev (n + 1) n).reverse

/-- A number in two digits. -/
def twoDigits (n : Nat) : Text := [BitVec.ofNat 8 (48 + n / 10 % 10), BitVec.ofNat 8 (48 + n % 10)]

/-- A second of day as hh:mm. -/
def hhmm (s : Nat) : Text := twoDigits (s / 3600) ++ [58] ++ twoDigits (s / 60 % 60)

/-- The pieces of a text between the characters that a test picks. -/
def splitOn (sep : Chr → Bool) : Text → List Text
  | [] => [[]]
  | ch :: t =>
    if sep ch then [] :: splitOn sep t
    else match splitOn sep t with
      | [] => [[ch]]
      | w :: ws => (ch :: w) :: ws

/-- The part of a text before its first space (R57). -/
def beforeSpace (l : Text) : Text := l.takeWhile (fun ch => ch != space)

/-! ## Template fields -/

/-- The field names of R60. -/
inductive TemplateField where
  | name | time | min | period | date | level | school
  deriving DecidableEq, Repr

/-- The field that a name stands for (R60). -/
def templateField (l : Text) : Option TemplateField :=
  if l = text "name" then some .name
  else if l = text "time" then some .time
  else if l = text "min" then some .min
  else if l = text "period" then some .period
  else if l = text "date" then some .date
  else if l = text "level" then some .level
  else if l = text "school" then some .school
  else none

/-- A piece of a template: a character, or a field in braces. -/
inductive Piece where
  | chr (ch : Chr)
  | field (f : TemplateField)
  deriving DecidableEq, Repr

/-- The pieces of a template; `open'` holds the field name being read, last character first. None for a brace without its
partner or a name not in the table (R60). -/
def pieces : Option Text → Text → Option (List Piece)
  | none, [] => some []
  | some _, [] => none
  | none, ch :: t =>
    if ch = 123 then pieces (some []) t
    else if ch = 125 then none
    else (pieces none t).map (.chr ch :: ·)
  | some name, ch :: t =>
    if ch = 125 then
      match templateField name.reverse with
      | none => none
      | some f => (pieces none t).map (.field f :: ·)
    else pieces (some (ch :: name)) t

/-- A template text that R60 allows. -/
def templateOk (l : Text) : Bool := decide (1 ≤ l.length) && decide (l.length ≤ 140) && (pieces none l).isSome

end Sys2Proof.Machine
end

