-- ==== Sys2Proof/Machine/Excuses.lean ====
section
/-!
DEFINITION. The excuse list and its effects on the day it names (R146, R147, R155, R156), with EXCUSE_PUT, EXCUSE_DEL and
EXCUSE_LIST (R148, R149).
-/

namespace Sys2Proof.Machine

/-! ## The list -/

/-- A record of a slot, kind and date. -/
def Excuse.isFor (n : Nat) (k : ExcuseKind) (d : Date) (e : Excuse) : Bool := e.slot == n && e.kind == k && e.date == d

/-- The list holds a record of the slot, kind and date. -/
def Image.holdsExcuse (img : Image) (n : Nat) (k : ExcuseKind) (d : Date) : Bool := img.excuses.any (Excuse.isFor n k d)

/-- The ACTIVE record of a slot, kind and date. -/
def Image.activeExcuse (img : Image) (n : Nat) (k : ExcuseKind) (d : Date) : Option Excuse :=
  img.excuses.find? (fun e => e.isFor n k d && !e.used)

/-- A record written: the old one of its slot, kind and date is removed, the new one stands at the tail (R146). -/
def putExcuse (e : Excuse) (l : List Excuse) : List Excuse := l.filter (fun a => !a.isFor e.slot e.kind e.date) ++ [e]

/-- The list with the record of a slot, kind and date USED (R147). -/
def markUsed (n : Nat) (k : ExcuseKind) (d : Date) (l : List Excuse) : List Excuse :=
  l.map (fun e => if e.isFor n k d then { e with used := true } else e)

/-- A record's move to USED, the PMU's own change (R147, R63). -/
def useExcuse (n : Nat) (k : ExcuseKind) (d : Date) (p : Part) : Part :=
  ownWrite [.excuses] { p with work.excuses := markUsed n k d p.work.excuses }

/-! ## The day they name -/

/-- One registration record under an ABSENCE_DAY excuse: ABSENT from SWEEP is written ABSENT_EXCUSED (R155). -/
def excuseAbsence (c : Clock) (writer : Writer) (n : Nat) (x : Reg) (p : Part) : Part :=
  match p.regMark? n x with
  | none => p
  | some m =>
    if m.value = .absent ∧ m.source = some .sweep then (writeMark c (plainWrite writer .absentExcused) n m.period.number p).1
    else p

/-- Notice EXCUSE_ONSITE at the clock reading, for a slot ON_SITE (R155). -/
def noticeIfOnSite (c : Clock) (n : Nat) (p : Part) : Part :=
  match p.slot? n with
  | none => p
  | some x => if p.presence n = .onSite then raise c (.excuseOnsite n x.number c.second) p else p

/-- An ABSENCE_DAY record dated the open day acts on a slot (R155). -/
def absenceDayEffect (c : Clock) (writer : Writer) (n : Nat) (p : Part) : Part :=
  noticeIfOnSite c n (excuseAbsence c writer n .pm (excuseAbsence c writer n .am p))

/-- The write of an allowance: a PARENT write carries no minutes, an OFFICE write the record's own (R77, R156). -/
def allowanceWrite (writer : Writer) (m : Mark) : Write :=
  { writer := writer, value := .lateExcused, minutes := m.minutes, reason := 0, band := none }

/-- One registration record under an allowance: a station LATE within it is written LATE_EXCUSED. The answer tells whether
it was (R156). -/
def excuseLate (c : Clock) (writer : Writer) (a n : Nat) (x : Reg) (p : Part) : Part × Bool :=
  match p.regMark? n x with
  | none => (p, false)
  | some m =>
    if m.value = .late ∧ m.source = some .station ∧ m.minutes.getD 0 ≤ a then
      writeMark c (allowanceWrite writer m) n m.period.number p
    else (p, false)

/-- A LATE_ALLOWANCE record dated the open day acts on a slot; the record is USED when a mark was excused (R156). -/
def allowanceEffect (c : Clock) (writer : Writer) (a n : Nat) (d : Date) (p : Part) : Part :=
  let am := excuseLate c writer a n .am p
  let pm := excuseLate c writer a n .pm am.1
  if am.2 || pm.2 then useExcuse n .lateAllowance d pm.1 else pm.1

/-- The same-day effect of an excuse record, when it is dated the record date of an OPEN day (R148, R154). -/
def sameDayEffect (c : Clock) (writer : Writer) (e : Excuse) (p : Part) : Part :=
  match p.openDay with
  | none => p
  | some r =>
    if r.date = e.date then
      match e.kind with
      | .absenceDay => absenceDayEffect c writer e.slot p
      | .lateAllowance => allowanceEffect c writer (e.allowance.getD 0) e.slot e.date p
    else p

/-! ## EXCUSE PUT, EXCUSE DEL, EXCUSE LIST -/

/-- An allowance is given with LATE_ALLOWANCE and with no other kind (R148, step 1). -/
def allowanceFits : ExcuseKind → Option Nat → Bool
  | .absenceDay, a => a.isNone
  | .lateAllowance, a => a.isSome

/-- An allowance in 1..240; absent is in range (R148, step 2). -/
def allowanceInRange : Option Nat → Bool
  | none => true
  | some a => decide (1 ≤ a) && decide (a ≤ 240)

/-- The answer of the date check of R148, step 5: none when the date is taken. -/
def excuseDateRefused (p : Part) (today d : Date) : Option ErrCode :=
  match p.day with
  | none => if d < today then some .range else if (p.work.dayKind d).1 = .school then none else some .range
  | some r =>
    if r.date = d ∧ r.done then some .state
    else if r.date = d ∧ r.kind = .school then none
    else if d < today then some .range
    else if (p.work.dayKind d).1 = .school then none
    else some .range

/-- EXCUSE PUT, once its checks are passed (R146, R148). -/
def writeExcuse (c : Clock) (e : Excuse) (p : Part) : Part × Reply :=
  let held := p.work.holdsExcuse e.slot e.kind e.date
  if !held && decide (Config.excuseMax ≤ p.work.excuses.length) then refuse .full p
  else stored [.excuses] (fun img => { img with excuses := putExcuse e img.excuses }) p
    (fun q => (sameDayEffect c .office e q, ok [.word (if held then "REPLACED" else "NEW")]))

/-- EXCUSE PUT, in its order of decision (R148). -/
def excusePutRequest (c : Clock) (r : PupilRef) (kind : Option ExcuseKind) (a : Option Nat) (date : DateField) (p : Part) :
    Part × Reply :=
  match kind with
  | none => refuse .malformed p
  | some k =>
    if !allowanceFits k a then refuse .malformed p
    else match dateOf date with
      | none => refuse .range p
      | some d =>
        if !pupilInRange r || !allowanceInRange a then refuse .range p
        else match c.stamp with
          | none => refuse .state p
          | some now =>
            match p.work.enrolledPupil r with
            | none => refuse .notFound p
            | some (n, _) =>
              match excuseDateRefused p now.date d with
              | some e => refuse e p
              | none => writeExcuse c { slot := n, kind := k, allowance := a, date := d, source := .office, received := now
                                        contact := none, used := false } p

/-- EXCUSE_PUT (R148). -/
def execExcusePut (sfx : Bool) (pupil : PupilRef) (kind : Option ExcuseKind) (allowance : Option Nat) (date : DateField)
    (ws : List Bool) (s : State) : Result :=
  request sfx ws (fun c p => excusePutRequest c pupil kind allowance date p) s

/-- The slot that a request names, VACANT or not; none for a pupil number that no non-vacant slot holds (R58). -/
def Image.slotNamed (img : Image) : PupilRef → Option Nat
  | .slot n => some n
  | .number n => img.slotOfNumber n

/-- EXCUSE DEL (R149). -/
def excuseDelRequest (r : PupilRef) (kind : Option ExcuseKind) (date : DateField) (p : Part) : Part × Reply :=
  match kind with
  | none => refuse .malformed p
  | some k =>
    match dateOf date with
    | none => refuse .range p
    | some d =>
      if !pupilInRange r then refuse .range p
      else match p.work.slotNamed r with
        | none => refuse .notFound p
        | some n =>
          if p.work.holdsExcuse n k d then
            storedOk [.excuses] (fun img => { img with excuses := img.excuses.filter (fun e => !e.isFor n k d) }) p
          else refuse .notFound p

/-- EXCUSE_DEL (R149). -/
def execExcuseDel (sfx : Bool) (pupil : PupilRef) (kind : Option ExcuseKind) (date : DateField) (ws : List Bool) (s : State) :
    Result :=
  request sfx ws (fun _ p => excuseDelRequest pupil kind date p) s

/-- The words of the excuse kinds. -/
def excuseWord : ExcuseKind → String
  | .absenceDay => "ABSENCE_DAY"
  | .lateAllowance => "LATE_ALLOWANCE"

/-- The words of the excuse sources. -/
def excuseSourceWord : ExcuseSource → String
  | .parent => "PARENT"
  | .office => "OFFICE"

/-- The data line of an excuse record (R149). -/
def excuseLine (img : Image) (e : Excuse) : List Field :=
  [nat e.slot, orDash (fun x : Slot => nat x.number) (Table.get? img.slots e.slot), .word (excuseWord e.kind),
   orDash nat e.allowance, .date e.date, .word (excuseSourceWord e.source), .date e.received.date, .hms e.received.second,
   orDash nat e.contact, .word (if e.used then "USED" else "ACTIVE")]

/-- The reply of EXCUSE LIST (R149). -/
def excuseListReply (r : Option PupilRef) (p : Part) : Reply :=
  match r with
  | none => counted (p.work.excuses.map (excuseLine p.work))
  | some x =>
    if !pupilInRange x then err .range
    else match p.work.slotNamed x with
      | none => err .notFound
      | some n => counted ((p.work.excuses.filter (fun e => e.slot == n)).map (excuseLine p.work))

/-- EXCUSE_LIST (R149). -/
def execExcuseList (sfx : Bool) (pupil : Option PupilRef) (s : State) : Result :=
  query sfx (fun _ p => excuseListReply pupil p) s

end Sys2Proof.Machine
end

