-- ==== Sys2Proof/Machine/Absence.lean ====
section
/-!
DEFINITION. The Absence Sweep: SWEEP_STEP, SWEEP_NOW, SWEEP_GET (file 08).
-/

namespace Sys2Proof.Machine

/-- Changes the sweep record of r. -/
def onSweep (x : Reg) (f : Sweep → Sweep) (p : Part) : Part :=
  { p with sweeps := p.sweeps.set x ((p.sweeps.get? x).map f) }

/-- The ABSENCE entry of a step (R140, R160, R162). -/
def absenceRequest (p : Part) (n : Nat) (y : Slot) (x : Reg) : EntryRequest :=
  { kind := .absence, target := .slot n (waitingPositions y.contacts), reg := some x
    source := .template (p.work.mapped .absence), time := none, minutes := none, level := none
    settle := if y.priority then 0 else p.work.gateway.settle * 60 }

/-- The record completes at cursor 3,072 (R142). -/
def completeSweep (c : Clock) (x : Reg) (p : Part) : Part :=
  match p.sweeps.get? x with
  | none => p
  | some s =>
    raise c (.sweepDone x s.notified s.onSite s.excused s.startedAt c.second?)
      (onSweep x (fun s => { s with state := .done, doneAt := c.second? }) p)

/-- "After every step that ends without blocking, the cursor rises by one" (R139, R142). -/
def advanceCursor (c : Clock) (x : Reg) (p : Part) : Part :=
  match p.sweeps.get? x with
  | none => p
  | some s =>
    let q := onSweep x (fun s => { s with cursor := s.cursor + 1 }) p
    if s.cursor + 1 = Config.slotCount then completeSweep c x q else q

/-- An ACTIVE ABSENCE_DAY excuse: ABSENT_EXCUSED, and the excuse is USED (R139). -/
def sweepExcused (c : Clock) (x : Reg) (n k : Nat) (d : Date) (p : Part) : Part :=
  let q := useExcuse n .absenceDay d (writeMark c (plainWrite .sweep .absentExcused) n k p).1
  onSweep x (fun s => { s with excused := s.excused + 1 }) q

/-- ABSENT with status PENDING, once the PMU has taken the entry (R139, R140). -/
def sweepNotified (c : Clock) (x : Reg) (n k : Nat) (p : Part) : Part :=
  let q := setNotice n x .pending (writeMark c (plainWrite .sweep .absent) n k p).1
  onSweep x (fun s => { s with notified := s.notified + 1 }) q

/-- ABSENT with notice UNREGISTERED_ONSITE (R139). -/
def sweepOnSite (c : Clock) (x : Reg) (n k number : Nat) (at' : Presence) (p : Part) : Part :=
  let q := raise c (.unregisteredOnsite n number x at') (writeMark c (plainWrite .sweep .absent) n k p).1
  onSweep x (fun s => { s with onSite := s.onSite + 1 }) q

/-- The step at an UNSET record of an ENROLLED slot (R139 to R141). -/
def sweepUnset (c : Clock) (x : Reg) (n : Nat) (y : Slot) (k : Nat) (d : Date) (p : Part) : Part :=
  if (p.work.activeExcuse n .absenceDay d).isSome then advanceCursor c x (sweepExcused c x n k d p)
  else if p.presence n = .notArrived then
    match create c (absenceRequest p n y x) p with
    | (q, .refused) => onSweep x (fun s => { s with state := .blocked }) q
    | (q, .taken _) => advanceCursor c x (sweepNotified c x n k q)
    | (q, .held) => advanceCursor c x (sweepNotified c x n k q)
  else advanceCursor c x (sweepOnSite c x n k y.number (p.presence n) p)

/-- One sweep step at the cursor (R139). -/
def sweepTake (c : Clock) (x : Reg) (n : Nat) (d : Date) (p : Part) : Part :=
  match p.enrolled? n, p.regMark? n x with
  | some y, some m => if m.value = .unset then sweepUnset c x n y m.period.number d p else advanceCursor c x p
  | _, _ => advanceCursor c x p

/-- A step of a RUNNING record of the open day (R139). -/
def sweepOnce (c : Clock) (x : Reg) (p : Part) : Part :=
  match p.openDay, p.sweeps.get? x with
  | some r, some s => if s.state = .running then sweepTake c x s.cursor r.date p else p
  | _, _ => p

/-- SWEEP_STEP (R139). -/
def execSweepStep (r : Reg) (ws : List Bool) (s : State) : Result := event ws (fun c p => sweepOnce c r p) s

/-- The words of the sweep states (R132). -/
def sweepWord : SweepState → String
  | .waiting => "WAITING" | .running => "RUNNING" | .blocked => "BLOCKED" | .suspended => "SUSPENDED" | .done => "DONE"
  | .skipped => "SKIPPED"

/-- The plan of the day: today's copy of it, or the day record's plan while there is no copy (log 46). -/
def Part.planOfDay (p : Part) : Option Plan :=
  match p.bells.today with
  | some t => some t.plan
  | none => (p.day.bind (·.plan)).map p.work.plan

/-- r names no REGISTRATION period of the plan of the day (R136). -/
def Part.lacksReg (p : Part) (x : Reg) : Bool := (p.planOfDay.map (fun l => (regNumber l.marked x).isNone)).getD false

/-- SWEEP NOW (R136). -/
def sweepNowRequest (c : Clock) (r : Option Reg) (p : Part) : Part × Reply :=
  match r with
  | none => refuse .malformed p
  | some x =>
    if p.lacksReg x then refuse .range p
    else if !p.isOpen then refuse .state p
    else match p.sweeps.get? x with
      | none => refuse .range p
      | some s =>
        if s.state = .waiting then
          (onSweep x (Sweep.start c p.held) p, ok [.word (if p.held then "SUSPENDED" else "RUNNING")])
        else refuse .state p

/-- SWEEP_NOW (R136). -/
def execSweepNow (sfx : Bool) (r : Option Reg) (s : State) : Result := request sfx [] (fun c p => sweepNowRequest c r p) s

/-- The holds that stand, for a SUSPENDED record (R145). -/
def holdWords (p : Part) : List String :=
  (if p.recoveryHold then ["RECOVERY"] else []) ++ (if p.alertHold then ["ALERT"] else [])

/-- The data line of a sweep record (R145); a cutoff at or past 86,400 is shown with an hour above 23 (log 47). -/
def sweepLine (p : Part) (x : Reg) (s : Sweep) : List Field :=
  [.word (regWord x), .word (sweepWord s.state), orNone .hms s.cutoff, nat s.cursor, nat s.notified, nat s.onSite, nat s.excused,
   orNone .hms s.startedAt, orNone .hms s.doneAt]
    ++ (if s.state = .suspended then [.words (holdWords p)] else [])

/-- The lines of the sweep records, AM first (R145). -/
def sweepLines (p : Part) : List (List Field) :=
  (p.sweeps.am.toList.map (sweepLine p .am)) ++ (p.sweeps.pm.toList.map (sweepLine p .pm))

/-- SWEEP_GET (R145); the resume time is shown as a cutoff is (log 47). -/
def execSweepGet (sfx : Bool) (s : State) : Result :=
  query sfx (fun _ p => listed (sweepLines p ++ [[orNone .hms p.sweeps.resume]]) (sweepLines p).length) s

end Sys2Proof.Machine
end

