-- ==== Sys2Proof/Machine/ZoneBus.lean ====
section
/-!
DEFINITION. The zone bus: broadcasts, the status poll, exchanges and their outcomes, alert sounding, and the zone states
(R42 to R55, and the zone effects of R22, R23 and R182). The commands BROADCAST, SOUNDING_END, STATUS_POLL, STATUS_ANSWER,
STATUS_WINDOW_END and STALE_WAIT_END.
-/

namespace Sys2Proof.Machine

/-! ## Lines to the drivers -/

/-- SOUND to an address set; a command "names one or more driver addresses" (file 03, 3.1). -/
def sendSound (l : List Nat) (t : Tone) (seconds : Option Nat) (p : Part) : Part :=
  if l.isEmpty then p else emit (.sound l t seconds) p

/-- STOP to an address set. -/
def sendStop (l : List Nat) (p : Part) : Part := if l.isEmpty then p else emit (.stop l) p

/-- The driver addresses of the present zones, in address order. -/
def Part.presentAddresses (p : Part) : List Nat := addresses p.work.presentMembers

/-- The tone of an alert (R52). -/
def alertTone : AlertKind → Tone
  | .lockdown => .lockdown
  | .evacuate => .evacuate

/-! ## Zone states -/

/-- Sets the fault memory of zone z. -/
def setFaultMemory (z : Nat) (m : FaultMemory) (p : Part) : Part := { p with zbus.faults := p.zbus.faults.setIfInBounds z m }

/-- DUE entries of zone z pass. -/
def passDueOf (z : Nat) (p : Part) : Part := onRing (fun e => if e.state = .due ∧ e.zone = z then e.pass else e) p

/-- A FAULT or NO_REPLY outcome acts on a zone; the notice carries the address that was asked (R47, log 50). -/
def faultZone (c : Clock) (m : Member) (code : FaultCode) (p : Part) : Part :=
  let memory : FaultMemory := ⟨some code, c.stamp⟩
  match p.zoneState m.zone with
  | none => p
  | some (.faulted _) => setFaultMemory m.zone memory p
  | some (.up s) =>
    passDueOf m.zone (raise c (.zoneFault m.zone m.address code)
      (setFaultMemory m.zone memory (p.setZoneState m.zone (some (.faulted s)))))

/-- A READY or SOUNDING outcome brings a FAULTED zone back to its remembered state; the notice carries the address that
was asked (R50, log 50). -/
def recoverZone (c : Clock) (m : Member) (p : Part) : Part :=
  match p.zoneState m.zone with
  | some (.faulted s) => raise c (.zoneOk m.zone m.address) (p.setZoneState m.zone (some (.up s)))
  | some (.up _) => p
  | none => p

/-- A zone under an alert start: ARMED becomes SILENCED, and a FAULTED zone remembers SILENCED (R182). -/
def ZoneState.silenced : ZoneState → ZoneState
  | .up _ => .up .silenced
  | .faulted _ => .faulted .silenced

/-- Every present zone silenced (R182). -/
def silenceZones (p : Part) : Part :=
  { p with bells.zoneStates := Vector.ofFn (fun i => (p.zoneState i.val).map ZoneState.silenced) }

/-- The state that a zone receives when it becomes present (R22). -/
def Part.newZoneState (p : Part) : ZoneState := .up (if p.noAlert then .armed else .silenced)

/-- What a change of the present flag does at once (R22, R23, R43). -/
def presenceChange (z : Nat) (was isNow : Bool) (p : Part) : Part :=
  if was = isNow then p
  else if isNow then setFaultMemory z FaultMemory.fresh (p.setZoneState z (some p.newZoneState))
  else passDueOf z (setFaultMemory z FaultMemory.fresh (p.setZoneState z none))

/-! ## Broadcasts -/

/-- The tones of the ring table, the highest rank first (R44). -/
def toneOrder : List BellTone := [.endBell, .ring, .warn, .test]

/-- An entry is DUE. -/
def RingEntry.isDue (e : RingEntry) : Bool := e.state == .due

/-- The tone of highest rank among the DUE entries (R44). -/
def dueTone (l : List RingEntry) : Option BellTone := toneOrder.find? (fun t => l.any (fun e => e.isDue && e.tone == t))

/-- The duration of a tone in today's copy. -/
def TodayZone.durationOf (x : TodayZone) : BellTone → Option Nat
  | .warn => some x.warnDur | .ring => some x.ringDur | .endBell => some x.endDur | .test => none

/-- The place of a tone, by which the free duration is looked up. -/
def toneRank : BellTone → Nat
  | .warn => 0 | .ring => 1 | .endBell => 2 | .test => 3

/-- An entry's contribution to the broadcast duration (R44, log 21). -/
def contribution (t : Option Today) (e : RingEntry) : Nat :=
  match e.duration with
  | some d => d
  | none => ((t.bind (fun t => t.zone? e.zone)).bind (fun x => x.durationOf e.tone)).getD
      (Config.durationOutsideCopy e.zone (toneRank e.tone))

/-- The entries that a broadcast of a tone takes (R44). -/
def taken (l : List RingEntry) (t : BellTone) : List RingEntry := l.filter (fun e => e.isDue && e.tone == t)

/-- Issues a broadcast of a tone to a member list (R45). -/
def issue (c : Clock) (t : Tone) (members : List Member) (duration : Nat) (p : Part) : Part :=
  sendSound (addresses members) t (some duration)
    { p with zbus.bus := .sounding
             zbus.broadcast := some { tone := t, members := members, duration := duration, issueTime := c.second?
                                      issuedAt := c.crystal, position := 0 } }

/-- The arbiter forms the broadcast of the DUE entries of the highest tone and issues it (R44, R45). -/
def broadcastNow (c : Clock) (p : Part) : Part :=
  match dueTone p.bells.ring with
  | none => p
  | some t =>
    if p.zbus.bus = .idle then
      let mine := taken p.bells.ring t
      let members := membersOf p.work (zoneNumbers.filter (fun z => mine.any (fun e => e.zone == z)))
      let duration := (greatest (mine.map (contribution p.bells.today))).getD 0
      issue c (.bell t) members duration
        (onRing (fun e => if e.isDue && e.tone == t then { e with state := .sounding, dueSince := none } else e) p)
    else p

/-- The broadcast ends and the bus is IDLE. -/
def endBroadcast (p : Part) : Part := { p with zbus.broadcast := none, zbus.bus := .idle }

/-- Opens the exchange of the fetch at a position, or ends the broadcast after the last member (R46). -/
def fetchAt (b : Broadcast) (i : Nat) (p : Part) : Part :=
  match b.members[i]? with
  | some m => emit (.statusTo m.address) { p with zbus.bus := .fetching, zbus.broadcast := some { b with position := i } }
  | none => endBroadcast p

/-- The tone has ended: "the duration plus 1 s, counted on the crystal from the issue" (R45). -/
def soundingEnds (c : Clock) (p : Part) : Part :=
  match p.zbus.broadcast with
  | none => p
  | some b =>
    if p.zbus.bus = .sounding ∧ b.issuedAt + (b.duration + 1) * Config.sixteenths ≤ c.crystal then fetchAt b 0 p else p

/-- An entry that the member's outcome settles (R46). -/
def RingEntry.settle (ok : Bool) (issue : Nat) (e : RingEntry) : RingEntry :=
  if ok then { e with state := .rung, lateBy := some (issue - e.time) } else { e with state := .failed }

/-- Settles the SOUNDING entries of zone z (R46). -/
def settleZone (z : Nat) (ok : Bool) (issue : Nat) (p : Part) : Part :=
  onRing (fun e => if e.state = .sounding ∧ e.zone = z then e.settle ok issue else e) p

/-- The outcome of a member's exchange in a fetch (R46). -/
def fetchOutcome (c : Clock) (b : Broadcast) (m : Member) (o : Option DriverAnswer) (p : Part) : Part :=
  let at' := b.issueTime.getD 0
  match o with
  | some .ready => recoverZone c m (settleZone m.zone true at' p)
  | some .sounding => sendStop [m.address] (recoverZone c m (settleZone m.zone true at' p))
  | some (.fault f) => faultZone c m (.driver f) (settleZone m.zone false at' p)
  | none => faultZone c m .noReply (settleZone m.zone false at' p)

/-! ## The status poll -/

/-- The poll ends: the bus returns to what it was before (R49). -/
def endPoll (p : Part) : Part :=
  { p with zbus.poll := none, zbus.bus := if p.zbus.bus = .polling then .idle else p.zbus.bus }

/-- Opens the exchange of the poll at a position, or ends the poll after the last member (R49). -/
def pollAt (l : List Member) (i : Nat) (p : Part) : Part :=
  match l[i]? with
  | some m => emit (.statusTo m.address) { p with zbus.poll := some ⟨l, i⟩ }
  | none => endPoll p

/-- The poll may begin: due, awake, bus free, no DUE entry (R44, R49). -/
def Part.pollReady (c : Clock) (p : Part) : Bool :=
  decide (p.zbus.pollDue ≤ c.crystal) && p.hl.activity != .dormant && !p.bells.ring.any RingEntry.isDue
    && (p.zbus.bus == .idle || (p.zbus.bus == .alert && p.zbus.poll.isNone))

/-- The status poll begins (R49). -/
def pollBegins (c : Clock) (p : Part) : Part :=
  if p.pollReady c then
    pollAt p.work.presentMembers 0
      { p with zbus.pollDue := c.crystal + Config.pollSpacing
               zbus.bus := if p.zbus.bus = .alert then .alert else .polling }
  else p

/-- The outcome of an exchange of the poll, by the zone's state and the alert state (R50). -/
def pollOutcome (c : Clock) (m : Member) (o : Option DriverAnswer) (p : Part) : Part :=
  if (p.zoneState m.zone).isNone then p
  else match o with
    | some .ready =>
      let q := recoverZone c m p
      match q.alertState with
      | none => q
      | some k => sendSound [m.address] (alertTone k) none q
    | some .sounding => if p.noAlert then sendStop [m.address] (recoverZone c m p) else recoverZone c m p
    | some (.fault f) => faultZone c m (.driver f) p
    | none => faultZone c m .noReply p

/-- An outcome of the open exchange, and the next exchange (R42, R46, R49). The expected address is checked first; none
stands for the end of the window. An answer is known by its address alone (log 52). -/
def exchangeEnds (c : Clock) (address : Option Nat) (o : Option DriverAnswer) (p : Part) : Part :=
  match p.zbus.bus, p.zbus.broadcast, p.zbus.poll with
  | .fetching, some b, _ =>
    match b.members[b.position]? with
    | none => p
    | some m => if address.getD m.address = m.address then fetchAt b (b.position + 1) (fetchOutcome c b m o p) else p
  | .polling, _, some l =>
    match l.members[l.position]? with
    | none => p
    | some m => if address.getD m.address = m.address then pollAt l.members (l.position + 1) (pollOutcome c m o p) else p
  | .alert, _, some l =>
    match l.members[l.position]? with
    | none => p
    | some m => if address.getD m.address = m.address then pollAt l.members (l.position + 1) (pollOutcome c m o p) else p
  | _, _, _ => p

/-! ## The stale wait -/

/-- The stale wait of an entry has ended (R48). -/
def RingEntry.stale (c : Clock) (k : RingKey) (e : RingEntry) : Bool :=
  e.isDue && e.key == k && (e.dueSince.map (fun t => decide (t + Config.staleWait ≤ c.crystal))).getD false

/-- A DUE entry whose stale wait ends becomes PASSED with notice BELL_MISSED (R48). -/
def staleEnds (c : Clock) (k : RingKey) (p : Part) : Part :=
  match p.bells.ring.find? (RingEntry.stale c k) with
  | none => p
  | some e => raise c (.bellMissedStale e.zone e.period e.tone e.time)
      (onRing (fun x => if x.stale c k then x.pass else x) p)

/-! ## Alerts on the bus -/

/-- A broadcast in progress is stopped; its entries still SOUNDING pass, and DUE entries pass (R52). -/
def preempt (p : Part) : Part :=
  let q := match p.zbus.broadcast with
    | none => p
    | some b => sendStop (addresses b.members) p
  onRing (fun e => if e.state = .sounding ∨ e.state = .due then e.pass else e)
    { q with zbus.broadcast := none, zbus.poll := none }

/-- An alert start from NONE takes the bus (R52). -/
def busAtAlertStart (k : AlertKind) (p : Part) : Part :=
  let q := preempt p
  { sendSound q.presentAddresses (alertTone k) none q with zbus.bus := .alert }

/-- A change of kind: the new tone, and a poll in progress ends (R53). -/
def busAtChange (k : AlertKind) (p : Part) : Part :=
  sendSound p.presentAddresses (alertTone k) none { p with zbus.poll := none }

/-- The all-clear: STOP, and the ALL_CLEAR broadcast of 10 s (R54). -/
def busAtAllClear (c : Clock) (p : Part) : Part :=
  let q := { p with zbus.poll := none }
  issue c .allClear q.work.presentMembers Config.allClearSeconds (sendStop q.presentAddresses q)

/-- A warm restart on the bus, after the table is rebuilt (R55). -/
def busAtRestart (c : Clock) (p : Part) : Part :=
  let q := { p with zbus.broadcast := none, zbus.poll := none, zbus.pollDue := c.crystal }
  match q.alertState with
  | none => { sendStop q.presentAddresses q with zbus.bus := .idle }
  | some k => { sendSound q.presentAddresses (alertTone k) none q with zbus.bus := .alert }

end Sys2Proof.Machine
end

