-- ==== Sys2Proof/Machine/BellRequests.lean ====
section
/-!
DEFINITION. Plans, zones, the overrides of the day and the ring table: PLAN_PUT, PLAN_GET, ZONE_PUT, ZONE_GET, ZONE_ARM,
TIMES_GET, DELAY, EARLY_CLOSE, PLAN_TODAY, RING, RINGS_GET (file 02).
-/

namespace Sys2Proof.Machine

/-- A recomputation of O or C: the day may open, and it may close, at once (R13 to R16). -/
def dayTests (c : Clock) (p : Part) : Part := tryClose c (tryOpen c p)

/-! ## Plans -/

/-- A period description in range (R21). -/
def readPeriod (f : PeriodField) : Option Period :=
  match f.kind, minuteOf f.start with
  | some k, some s =>
    if 1 ≤ f.length ∧ f.length ≤ 240 then some { kind := k, start := s, length := f.length, warn := f.warn, ring := f.ring }
    else none
  | _, _ => none

/-- Every period description of a list in range. -/
def readPeriods : List PeriodField → Option (List Period)
  | [] => some []
  | f :: t => match readPeriod f, readPeriods t with
    | some q, some qs => some (q :: qs)
    | _, _ => none

/-- The periods do not overlap, stand in order and end by midnight (R21). -/
def periodsInOrder : List Period → Bool
  | [] => true
  | [q] => decide (q.start + q.length ≤ 1440)
  | q :: r :: t => decide (q.start + q.length ≤ r.start) && periodsInOrder (r :: t)

/-- The number of REGISTRATION periods. -/
def registrations (l : List Period) : Nat := (l.filter (fun q => q.kind == .registration)).length

/-- A period list that R21 allows. -/
def periodsOk (l : List Period) : Bool :=
  decide (1 ≤ l.length) && decide (l.length ≤ 14) && periodsInOrder l && (registrations l == 1 || registrations l == 2)

/-- The plain items of a plan are in range (R20, R21). -/
def planItemsOk (n : Nat) (name : Text) (lead lag grace close : Nat) : Bool :=
  decide (n ≤ 7) && decide (name.length ≤ 12) && decide (lead ≤ 120) && decide (lag ≤ 180) && decide (grace ≤ 600)
    && decide (5 ≤ close) && decide (close ≤ 90)

/-- PLAN PUT (R21). -/
def planPut (c : Clock) (n : Nat) (name : Text) (lead lag grace close : Nat) (periods : List PeriodField) (p : Part) :
    Part × Reply :=
  match readPeriods periods with
  | none => refuse .range p
  | some l =>
    if planItemsOk n name lead lag grace close && periodsOk l then
      let plan : Plan := { name := name, periods := l, lead := lead, lag := lag, grace := grace, close := close }
      stored [.plan n] (fun img => { img with plans := img.plans.setIfInBounds n plan }) p (fun q => (dayTests c q, ok []))
    else refuse .range p

/-- PLAN_PUT (R21). -/
def execPlanPut (sfx : Bool) (n : Nat) (name : Text) (lead lag grace close : Nat) (periods : List PeriodField)
    (ws : List Bool) (s : State) : Result :=
  request sfx ws (fun c p => planPut c n name lead lag grace close periods p) s

/-- The words of the period kinds (R20). -/
def periodWord : PeriodKind → String
  | .registration => "REGISTRATION" | .lesson => "LESSON" | .recess => "BREAK" | .lunch => "LUNCH"

/-- The data line of a period: its number and its items (R20, R21, log 65). -/
def periodLine (x : Period × Nat) : List Field :=
  [nat x.2, .word (periodWord x.1.kind), .hm x.1.start, nat x.1.length, yesNo x.1.warn, yesNo x.1.ring]

/-- The reply of PLAN GET (R21). -/
def planReply (pl : Plan) : Reply :=
  listed ([.quoted pl.name, nat pl.lead, nat pl.lag, nat pl.grace, nat pl.close] :: pl.periods.zipIdx.map periodLine)
    pl.periods.length

/-- PLAN_GET (R21). -/
def execPlanGet (sfx : Bool) (n : Nat) (s : State) : Result :=
  query sfx (fun _ p => if n ≤ 7 then planReply (p.work.plan n) else err .range) s

/-! ## Zones -/

/-- The fields of ZONE PUT are in range (R22, R23). -/
def zoneOk (z : Nat) (r : Zone) : Bool :=
  decide (z ≤ 5) && decide (-300 ≤ r.offset) && decide (r.offset ≤ 300) && decide (r.lead ≤ 300) && decide (1 ≤ r.address)
    && decide (r.address ≤ 15) && decide (1 ≤ r.warnDur) && decide (r.warnDur ≤ 30) && decide (1 ≤ r.ringDur)
    && decide (r.ringDur ≤ 30) && decide (1 ≤ r.endDur) && decide (r.endDur ≤ 30)

/-- Another present zone holds the address (R23). -/
def Image.addressTaken (img : Image) (z a : Nat) : Bool := img.presentZones.any (fun y => y != z && (img.zone y).address == a)

/-- ZONE PUT (R23). -/
def zonePut (c : Clock) (z : Nat) (r : Zone) (p : Part) : Part × Reply :=
  if !zoneOk z r then refuse .range p
  else if r.present && p.work.addressTaken z r.address then refuse .state p
  else
    let was := (p.work.zone z).present
    stored [.zone z] (fun img => { img with zones := img.zones.setIfInBounds z r }) p
      (fun q => (dayTests c (presenceChange z was r.present q), ok []))

/-- ZONE_PUT (R23). -/
def execZonePut (sfx : Bool) (z : Nat) (present : Bool) (offset : Int) (lead address warnDur ringDur endDur : Nat)
    (ws : List Bool) (s : State) : Result :=
  request sfx ws (fun c p => zonePut c z ⟨present, offset, lead, address, warnDur, ringDur, endDur⟩ p) s

/-- The words of the zone states (R22). -/
def armWord : ArmState → String
  | .armed => "ARMED"
  | .silenced => "SILENCED"

/-- A zone state, with the remembered state when FAULTED, or NONE (R23, R56). -/
def zoneStateFields : Option ZoneState → List Field
  | none => [noneWord]
  | some (.up a) => [.word (armWord a)]
  | some (.faulted a) => [.word "FAULTED", .word (armWord a)]

/-- The reply of ZONE GET: the stored items and the state; for an absent zone, the stored items and then NONE (R23, log 82). -/
def zoneReply (z : Nat) (p : Part) : Reply :=
  let r := p.work.zone z
  ok ([yesNo r.present, .num r.offset, nat r.lead, nat r.address, nat r.warnDur, nat r.ringDur, nat r.endDur]
    ++ zoneStateFields (p.zoneState z))

/-- ZONE_GET (R23). -/
def execZoneGet (sfx : Bool) (z : Nat) (s : State) : Result :=
  query sfx (fun _ p => if z ≤ 5 then zoneReply z p else err .range) s

/-- ZONE ARM; the range of z comes before the alert state (R24, log 59). -/
def zoneArm (z : Nat) (p : Part) : Part × Reply :=
  if 5 < z then refuse .range p
  else if !p.noAlert then refuse .state p
  else match p.zoneState z with
    | none => refuse .notFound p
    | some (.up .silenced) => (p.setZoneState z (some (.up .armed)), ok [])
    | some (.up .armed) => (p, ok [])
    | some (.faulted _) => refuse .state p

/-- ZONE_ARM (R24). -/
def execZoneArm (sfx : Bool) (z : Nat) (s : State) : Result := request sfx [] (fun _ p => zoneArm z p) s

/-- The data line of a period's effective times (R28). -/
def timesLine (t : Today) (z : Nat) (x : Period × Nat) : List Field :=
  nat x.2 :: .word (periodWord x.1.kind) :: (match t.effective x.2 z with
    | some (a, b) => [.hms a, .hms b]
    | none => [.word "CANCELLED"])

/-- The reply of TIMES GET (R28). -/
def timesReply (z : Nat) (p : Part) : Reply :=
  if 5 < z then err .range
  else match p.openDay, p.bells.today with
    | some _, some t => counted (t.plan.periods.zipIdx.map (timesLine t z))
    | _, _ => err .state

/-- TIMES_GET (R28). -/
def execTimesGet (sfx : Bool) (z : Nat) (s : State) : Result := query sfx (fun _ p => timesReply z p) s

/-! ## Overrides -/

/-- The register and the sweeps follow a change of today's effective times, and C is tested again
(R35, R37, R92, R134, R144; log 23). -/
def timesChanged (c : Clock) (before after : Today) (p : Part) : Part :=
  tryClose c (sweepsAfterTimes c after (cancellationWrites c before after p))

/-- A pending delay (R34). -/
def delayPending (c : Clock) (d : Nat) (p : Part) : Part × Reply :=
  let total := min (p.bells.pendingDelay + d) Config.delayMax
  (dayTests c { p with bells.pendingDelay := total }, ok [nat total, nat 0])

/-- A delay of the open day (R34 to R36). -/
def delayToday (c : Clock) (d : Nat) (t : Today) (p : Part) : Part × Reply :=
  let total := min (t.delayTotal + d) Config.delayMax
  if total = t.delayTotal then (p, ok [nat total, nat 0])
  else
    let after := { t with delayTotal := total }
    let b := p.bells.delay (p.now c) t after ((total - t.delayTotal) * 60)
    (timesChanged c t after { p with bells := b.1 }, ok [nat total, nat b.2])

/-- DELAY (R34). -/
def delayRequest (c : Clock) (d : Nat) (p : Part) : Part × Reply :=
  if d < 5 ∨ 120 < d then refuse .range p
  else if c.reading.isNone then refuse .state p
  else match p.openDay, p.bells.today with
    | some r, some t => if delayInTime (c.dayNow r) t p.bells then delayToday c d t p else refuse .tooLate p
    | _, _ => delayPending c d p

/-- DELAY (R34 to R36). -/
def execDelay (sfx : Bool) (d : Nat) (ws : List Bool) (s : State) : Result :=
  request sfx ws (fun c p => delayRequest c d p) s

/-- EARLY CLOSE, taken (R37). -/
def closeToday (c : Clock) (x : Nat) (t : Today) (p : Part) : Part × Reply :=
  let after := { t with early := some x }
  (timesChanged c t after { p with bells := p.bells.closeEarly after x }, ok [.hm x])

/-- EARLY CLOSE, in its order of decision (R37). -/
def earlyCloseRequest (c : Clock) (x : Nat) (p : Part) : Part × Reply :=
  if 1439 < x then refuse .range p
  else match p.openDay, p.bells.today with
    | some r, some t =>
      if x * 60 ≤ c.dayNow r then refuse .range p
      else if (t.early.map (fun y => decide (y ≤ x))).getD false then refuse .state p
      else if p.bells.free < t.zoneSet.length ∨ !p.bells.issuesFree { t with early := some x } x then refuse .full p
      else closeToday c x t p
    | _, _ => refuse .state p

/-- EARLY_CLOSE (R37). -/
def execEarlyClose (sfx : Bool) (x : Nat) (ws : List Bool) (s : State) : Result :=
  request sfx ws (fun c p => earlyCloseRequest c x p) s

/-- PLAN TODAY on an open day: copy, table, register, sweeps, then the close test (R38, R94, R133). -/
def replanOpen (c : Clock) (n : Nat) (r : DayRecord) (t : Today) (p : Part) : Part × Reply :=
  let t' := { t with plan := p.work.plan n, early := none }
  let p := buildRing c t' t.openReading { p with day := some { r with plan := some n }, bells.today := some t' }
  let built := p.bells.ring.length
  (tryClose c (sweepsAfterPlan c t' (registerAfterPlan c t' p)), ok [nat built])

/-- PLAN TODAY, by the day record (R38). -/
def planTodayRequest (c : Clock) (n : Nat) (p : Part) : Part × Reply :=
  if 7 < n then refuse .range p
  else match p.day with
    | none => refuse .state p
    | some r =>
      match r.phase, p.bells.today with
      | .opened, some t =>
        if p.bells.ring.all (fun e => e.state == .pending) then replanOpen c n r t p else refuse .state p
      | _, _ =>
        if r.kind = .school ∧ r.phase = .closed ∧ !r.done then
          (dayTests c { p with day := some { r with plan := some n } }, ok [])
        else refuse .state p

/-- PLAN_TODAY (R38). -/
def execPlanToday (sfx : Bool) (n : Nat) (ws : List Bool) (s : State) : Result :=
  request sfx ws (fun c p => planTodayRequest c n p) s

/-! ## RING and RINGS GET -/

/-- The zones that RING names (R39). -/
def ringZones (p : Part) : ZonesField → List Nat
  | .all => p.work.presentZones
  | .list l => l

/-- Every named zone's next manual issue is allowed (R29). -/
def manualIssues (b : Bells) (tone : BellTone) (l : List Nat) : Bool :=
  l.all (fun z => decide (nextIssue b.ring z none tone ≤ Config.issueMax))

/-- RING (R39). -/
def ringRequest (c : Clock) (zones : ZonesField) (tone : Option BellTone) (duration : Nat) (p : Part) : Part × Reply :=
  let l := ringZones p zones
  match tone with
  | none => refuse .range p
  | some t =>
    if l.any (fun z => decide (5 < z)) || !noRepeat l || decide (duration < 1) || decide (30 < duration) then refuse .range p
    else if l.any (fun z => (p.zoneState z).isNone) then refuse .notFound p
    else if !p.isOpen || !p.noAlert then refuse .state p
    else if p.bells.free < l.length ∨ !manualIssues p.bells t l then refuse .full p
    else ({ p with bells := l.foldl (Bells.addManual c t duration p.armed) p.bells }, ok [nat (l.filter p.armed).length])

/-- RING (R39). -/
def execRing (sfx : Bool) (zones : ZonesField) (tone : Option BellTone) (duration : Nat) (s : State) : Result :=
  request sfx [] (fun c p => ringRequest c zones tone duration p) s

/-- The words of the bell tones. -/
def bellWord : BellTone → String
  | .warn => "WARN" | .ring => "RING" | .endBell => "END" | .test => "TEST"

/-- The words of the entry states (R29). -/
def ringWord : RingState → String
  | .pending => "PENDING" | .due => "DUE" | .sounding => "SOUNDING" | .rung => "RUNG" | .failed => "FAILED"
  | .passed => "PASSED" | .cancelled => "CANCELLED"

/-- A period number, or MANUAL. -/
def periodOrManual : Option Nat → Field
  | none => .word "MANUAL"
  | some k => nat k

/-- The data line of a ring table entry (R40); a CANCELLED one that a DELAY moved past 86,399 is shown with an hour above 23
(R35, log 47). -/
def ringLine (e : RingEntry) : List Field :=
  [nat e.zone, periodOrManual e.period, .word (bellWord e.tone), nat e.issue, .hms e.time, .word (ringWord e.state)]
    ++ (if e.state = .rung then [nat (e.lateBy.getD 0)] else [])

/-- RINGS_GET (R40). -/
def execRingsGet (sfx : Bool) (s : State) : Result := query sfx (fun _ p => counted (p.bells.ring.map ringLine)) s

end Sys2Proof.Machine
end

