-- ==== Sys2Proof/Machine/BusRequests.lean ====
section
/-!
DEFINITION. The zone bus: BROADCAST, SOUNDING_END, STATUS_POLL, STATUS_ANSWER, STATUS_WINDOW_END, STALE_WAIT_END, ZBUS_GET
(file 03).
-/

namespace Sys2Proof.Machine

/-- BROADCAST (R44, R45). -/
def execBroadcast (s : State) : Result := event [] broadcastNow s

/-- SOUNDING_END (R45). -/
def execSoundingEnd (s : State) : Result := event [] soundingEnds s

/-- STATUS_POLL (R49). -/
def execStatusPoll (s : State) : Result := event [] pollBegins s

/-- STATUS_ANSWER: an answer "from an address other than the one asked, is discarded" (R42, R46, R50). -/
def execStatusAnswer (address : Nat) (a : DriverAnswer) (s : State) : Result :=
  event [] (fun c p => exchangeEnds c (some address) (some a) p) s

/-- STATUS_WINDOW_END: the outcome is NO_REPLY (R42, log 2). -/
def execStatusWindowEnd (s : State) : Result := event [] (fun c p => exchangeEnds c none none p) s

/-- STALE_WAIT_END (R48). -/
def execStaleWaitEnd (entry : RingKey) (s : State) : Result := event [] (fun c p => staleEnds c entry p) s

/-! ## ZBUS GET -/

/-- The words of the bus states (R43). -/
def busWord : BusState → String
  | .idle => "IDLE" | .sounding => "SOUNDING" | .fetching => "FETCHING" | .polling => "POLLING" | .alert => "ALERT"

/-- The words of the tones. -/
def toneWord : Tone → String
  | .bell t => bellWord t
  | .lockdown => "LOCKDOWN"
  | .evacuate => "EVACUATE"
  | .allClear => "ALL_CLEAR"

/-- The words of the drivers' fault codes. -/
def driverWord : DriverFault → String
  | .lineOpen => "LINE_OPEN" | .ampFault => "AMP_FAULT" | .overheat => "OVERHEAT"

/-- The words of the fault memory's codes (R43). -/
def codeWord : FaultCode → String
  | .driver f => driverWord f
  | .noReply => "NO_REPLY"

/-- The address at a place of a member list, NONE past the last (log 14). -/
def memberField (l : List Member) (i : Nat) : Field := orNone (fun m => nat m.address) l[i]?

/-- The place of "the next member address to be asked" (R43): the first member while the tone sounds, and in the fetch the one
after the member whose exchange is open. -/
def nextFetched (s : BusState) (b : Broadcast) : Nat := if s = .fetching then b.position + 1 else b.position

/-- The fields of a broadcast (R56). -/
def broadcastFields (s : BusState) : Option Broadcast → List Field
  | none => []
  | some b => [.word (toneWord b.tone), .nums (addresses b.members), nat b.duration, orNone .hms b.issueTime,
      memberField b.members (nextFetched s b)]

/-- The fields of a poll: "the next address to be asked", after the one whose exchange is open (R56). -/
def pollFields : Option Poll → List Field
  | none => []
  | some l => [memberField l.members (l.position + 1)]

/-- The bus line (R56). -/
def busLine (c : Clock) (z : ZoneBus) : List Field :=
  .word (busWord z.bus) :: (broadcastFields z.bus z.broadcast ++ pollFields z.poll ++ [nat (secondsUntil c z.pollDue)])

/-- A zone line (R56). -/
def zoneLine (p : Part) (z : Nat) : List Field :=
  let m := p.zbus.faults.getD z FaultMemory.fresh
  [nat z, nat (p.work.zone z).address] ++ zoneStateFields (p.zoneState z)
    ++ [orNone (fun k => .word (codeWord k)) m.code] ++ stampFields m.seen

/-- The reply of ZBUS GET (R56). -/
def zbusReply (c : Clock) (p : Part) : Reply :=
  let zones := p.work.presentZones
  listed (busLine c p.zbus :: zones.map (zoneLine p)) zones.length

/-- ZBUS_GET (R56). -/
def execZbusGet (sfx : Bool) (s : State) : Result := query sfx zbusReply s

end Sys2Proof.Machine
end

