-- ==== Sys2Proof/Machine/RosterRequests.lean ====
section
/-!
DEFINITION. The Roster Store's requests: TEMPLATE_PUT, TEMPLATE_GET, SCHOOL_SET, SCHOOL_GET, TEMPLATE_MAP, TEMPLATE_MAP_GET,
STORE_GET, PUPIL_PUT, PUPIL_REMOVE, PUPIL_GET, ROSTER_GET, CONTACT_PUT, CONTACT_GET, SCORE_SET, SCORE_GET (file 04).
-/

namespace Sys2Proof.Machine

/-! ## Templates -/

/-- TEMPLATE PUT (R60). -/
def templatePut (t : Nat) (l : Text) (p : Part) : Part × Reply :=
  if t ≤ 31 ∧ templateOk l then
    storedOk [.template t] (fun img => { img with templates := img.templates.setIfInBounds t (some l) }) p
  else refuse .range p

/-- TEMPLATE_PUT (R60). -/
def execTemplatePut (sfx : Bool) (t : Nat) (message : Text) (ws : List Bool) (s : State) : Result :=
  request sfx ws (fun _ p => templatePut t message p) s

/-- The reply of TEMPLATE GET (R60). -/
def templateReply (t : Nat) (p : Part) : Reply :=
  if 31 < t then err .range
  else match p.work.template t with
    | none => ok [.word "EMPTY"]
    | some l => ok [.quoted l]

/-- TEMPLATE_GET (R60). -/
def execTemplateGet (sfx : Bool) (t : Nat) (s : State) : Result := query sfx (fun _ p => templateReply t p) s

/-- SCHOOL SET (R60). -/
def schoolSet (name : Text) (p : Part) : Part × Reply :=
  if name.length ≤ 40 then storedOk [.school] (fun img => { img with school := name }) p else refuse .range p

/-- SCHOOL_SET (R60). -/
def execSchoolSet (sfx : Bool) (name : Text) (ws : List Bool) (s : State) : Result :=
  request sfx ws (fun _ p => schoolSet name p) s

/-- SCHOOL_GET (R60). -/
def execSchoolGet (sfx : Bool) (s : State) : Result := query sfx (fun _ p => ok [.quoted p.work.school]) s

/-- TEMPLATE MAP (R61). -/
def templateMapSet (e : Option MapEntry) (t : Nat) (p : Part) : Part × Reply :=
  match e with
  | none => refuse .malformed p
  | some e =>
    if 31 < t then refuse .range p
    else if (p.work.template t).isNone then refuse .notFound p
    else storedOk [.templateMap] (fun img => { img with templateMap := img.templateMap.setIfInBounds (mapIndex e) t }) p

/-- TEMPLATE_MAP (R61). -/
def execTemplateMap (sfx : Bool) (entry : Option MapEntry) (t : Nat) (ws : List Bool) (s : State) : Result :=
  request sfx ws (fun _ p => templateMapSet entry t p) s

/-- The map entries in table order (R61). -/
def mapEntries : List MapEntry :=
  [.absence, .correction, .late, .escalation1, .escalation2, .escalation3, .confirm, .alert]

/-- The words of the map entries (R61). -/
def mapWord : MapEntry → String
  | .absence => "ABSENCE" | .correction => "CORRECTION" | .late => "LATE" | .escalation1 => "ESCALATION1"
  | .escalation2 => "ESCALATION2" | .escalation3 => "ESCALATION3" | .confirm => "CONFIRM" | .alert => "ALERT"

/-- TEMPLATE_MAP_GET (R61). -/
def execTemplateMapGet (sfx : Bool) (s : State) : Result :=
  query sfx (fun _ p => counted (mapEntries.map (fun e => [.word (mapWord e), nat (p.work.mapped e)]))) s

/-- STORE_GET (R63). -/
def execStoreGet (sfx : Bool) (s : State) : Result :=
  query sfx (fun _ p => ok [nat p.roster.unsaved.length, nat p.roster.defaulted]) s

/-! ## Pupils -/

/-- A display name of 1..20 characters that does not hold only spaces (R64). -/
def nameOk (l : Text) : Bool := decide (l.length ≤ 20) && l.any (fun ch => ch != space)

/-- The fields of PUPIL PUT are in range (R64, step 1). -/
def pupilFieldsOk (n number : Nat) (name : Text) (year zone : Nat) (contacts : List Nat) : Bool :=
  decide (n < Config.slotCount) && decide (1 ≤ number) && decide (number ≤ Config.pupilNumberMax) && nameOk name
    && decide (7 ≤ year) && decide (year ≤ 13) && decide (zone ≤ 5) && decide (1 ≤ contacts.length)
    && decide (contacts.length ≤ 3) && contacts.all (fun i => decide (i < Config.contactCount)) && noRepeat contacts

/-- Another non-vacant slot holds a pupil number (R64, step 3). -/
def Image.numberTaken (img : Image) (n number : Nat) : Bool := img.slots.any (fun e => e.1 != n && e.2.number == number)

/-- PUPIL PUT, by the slot's state, once its checks are passed (R64, R65). -/
def writePupil (c : Clock) (n : Nat) (x : Slot) (p : Part) : Part × Reply :=
  let put := fun (y : Slot) (img : Image) => { img with slots := Table.put img.slots n y }
  match p.slot? n with
  | none => stored [.slot n] (put x) p (fun q => (enrolToday c n x.zone q, ok [.word "NEW"]))
  | some o =>
    let y := { x with score := o.score, level := o.level }
    match o.state with
    | .enrolled => storedOk [.slot n] (put y) p
    | .left =>
      if o.number = x.number then stored [.slot n] (put y) p (fun q => (reinstateToday c n q, ok [.word "BACK"]))
      else refuse .state p

/-- PUPIL PUT, in its order of checks (R64). -/
def pupilPut (c : Clock) (n : Nat) (x : Slot) (p : Part) : Part × Reply :=
  if !pupilFieldsOk n x.number x.name x.year x.zone x.contacts then refuse .range p
  else if x.contacts.any (fun i => (p.work.contact i).number.isNone) then refuse .notFound p
  else if p.work.numberTaken n x.number then refuse .state p
  else writePupil c n x p

/-- PUPIL_PUT (R64 to R66). -/
def execPupilPut (sfx : Bool) (n number : Nat) (name : Text) (year zone : Nat) (contacts : List Nat) (late priority : Bool)
    (ws : List Bool) (s : State) : Result :=
  request sfx ws (fun c p => pupilPut c n
    { state := .enrolled, number := number, name := name, year := year, zone := zone, contacts := contacts
      lateNotice := late, priority := priority, score := 0, level := 0 } p) s

/-- The removal of an ENROLLED slot: one store write for slot and excuses, then the withdrawals (R67). -/
def removeSlot (c : Clock) (n : Nat) (x : Slot) (p : Part) : Part × Reply :=
  let keep := p.isOpen
  stored [.slot n, .excuses] (fun img =>
      { img with slots := if keep then Table.put img.slots n { x with state := .left } else Table.erase img.slots n
                 excuses := img.excuses.filter (fun e => e.slot != n) }) p
    (fun q => (withdrawAll c (fun e => e.slot? == some n) q, ok [.word (if keep then "LEFT" else "VACANT")]))

/-- PUPIL REMOVE (R67). -/
def pupilRemove (c : Clock) (r : PupilRef) (p : Part) : Part × Reply :=
  if !pupilInRange r then refuse .range p
  else match p.work.pupil r with
    | none => refuse .notFound p
    | some (n, x) =>
      if x.state = .left ∧ p.isOpen then (p, ok [.word "LEFT"]) else removeSlot c n x p

/-- PUPIL_REMOVE (R67). -/
def execPupilRemove (sfx : Bool) (pupil : PupilRef) (ws : List Bool) (s : State) : Result :=
  request sfx ws (fun c p => pupilRemove c pupil p) s

/-- The words of the slot states. -/
def slotWord : SlotState → String
  | .enrolled => "ENROLLED"
  | .left => "LEFT"

/-- The fields of a non-vacant slot (R68). -/
def slotFields (n : Nat) (x : Slot) : List Field :=
  [nat n, .word (slotWord x.state), nat x.number, .quoted x.name, nat x.year, nat x.zone, .nums x.contacts,
   yesNo x.lateNotice, yesNo x.priority, nat x.score, nat x.level]

/-- The reply of PUPIL GET (R68). -/
def pupilReply (r : PupilRef) (p : Part) : Reply :=
  if !pupilInRange r then err .range
  else match p.work.pupil r, r with
    | some (n, x), _ => ok (slotFields n x)
    | none, .slot n => ok [nat n, .word "VACANT"]
    | none, .number _ => err .notFound

/-- PUPIL_GET (R68). -/
def execPupilGet (sfx : Bool) (pupil : PupilRef) (s : State) : Result := query sfx (fun _ p => pupilReply pupil p) s

/-- The number of slots in a state. -/
def Image.countIn (img : Image) (st : SlotState) : Nat := (img.slots.filter (fun e => e.2.state == st)).length

/-- ROSTER_GET (R68). -/
def execRosterGet (sfx : Bool) (s : State) : Result :=
  query sfx (fun _ p => ok [nat (Config.slotCount - p.work.slots.length), nat (p.work.countIn .enrolled),
    nat (p.work.countIn .left), nat (p.work.contacts.filter (fun e => e.2.number.isSome)).length]) s

/-! ## Contacts -/

/-- CONTACT PUT (R69). -/
def contactPut (n : Nat) (number : Text) (channel : Option Channel) (p : Part) : Part × Reply :=
  match channel with
  | none => refuse .range p
  | some ch =>
    if n < Config.contactCount ∧ allDigits number ∧ number.length ≤ 15 then
      storedOk [.contact n] (fun img => { img with contacts := Table.put img.contacts n ⟨some number, ch, false⟩ }) p
    else refuse .range p

/-- CONTACT_PUT (R69). -/
def execContactPut (sfx : Bool) (n : Nat) (number : Text) (channel : Option Channel) (ws : List Bool) (s : State) : Result :=
  request sfx ws (fun _ p => contactPut n number channel p) s

/-- The words of the channels (R59). -/
def channelWord : Channel → String
  | .sms => "TEXT"
  | .voice => "VOICE"

/-- The reply of CONTACT GET (R69). -/
def contactReply (n : Nat) (p : Part) : Reply :=
  if Config.contactCount ≤ n then err .range
  else
    let x := p.work.contact n
    ok [match x.number with
          | none => .word "EMPTY"
          | some l => .plain l,
        .word (channelWord x.channel), .word (if x.barred then "BARRED" else "ACTIVE"),
        nat (p.work.slots.filter (fun e => e.2.contacts.contains n)).length]

/-- CONTACT_GET (R69). -/
def execContactGet (sfx : Bool) (n : Nat) (s : State) : Result := query sfx (fun _ p => contactReply n p) s

/-! ## Tardy policy -/

/-- A tardy policy in range (R70). -/
def policyOk (x : Policy) : Bool :=
  decide (1 ≤ x.t1) && decide (x.t1 < x.t2) && decide (x.t2 < x.t3) && decide (x.t3 ≤ 65535) && decide (x.h ≤ 4095)
    && decide (x.d ≤ 255)

/-- SCORE SET: policy and levels in one write (R70). -/
def scoreSet (x : Policy) (p : Part) : Part × Reply :=
  if policyOk x then
    let n := levelsChanged x p.work.slots
    stored (.policy :: p.work.slots.map (fun e => .slot e.1))
      (fun img => { img with policy := x, slots := relevel x img.slots }) p (fun q => (q, ok [nat n]))
  else refuse .range p

/-- SCORE_SET (R70). -/
def execScoreSet (sfx : Bool) (t1 t2 t3 h d : Nat) (ws : List Bool) (s : State) : Result :=
  request sfx ws (fun _ p => scoreSet ⟨t1, t2, t3, h, d⟩ p) s

/-- SCORE_GET (R70). -/
def execScoreGet (sfx : Bool) (s : State) : Result :=
  query sfx (fun _ p => let x := p.work.policy; ok [nat x.t1, nat x.t2, nat x.t3, nat x.h, nat x.d]) s

end Sys2Proof.Machine
end

