-- ==== Sys2Proof/Machine/Alerts.lean ====
section
/-!
DEFINITION. Alert Control: ALERT_PIN_SAMPLE, ALERT_START, ALERT_NOTIFY, ALERT_GET, ROLL_MARK, ROLL_GET, ALERT_END (file 11).
-/

namespace Sys2Proof.Machine

/-! ## The roll -/

/-- A roll entry of a slot, UNACCOUNTED (R185). -/
def rollEntry (e : Nat × Slot) : RollEntry :=
  { slot := e.1, number := e.2.number, zone := e.2.zone, name := e.2.name, accounted := false, accountedAt := none }

/-- The roll: every non-vacant slot ON_SITE, by home zone and then by slot (R185). -/
def takeRoll (p : Part) : List RollEntry :=
  sortBy (fun a b => decide (a.zone < b.zone) || (a.zone == b.zone && decide (a.slot ≤ b.slot)))
    ((p.work.slots.filter (fun e => p.presence e.1 == .onSite)).map rollEntry)

/-- The roll of a kind: present while EVACUATE (R179). -/
def rollFor (k : AlertKind) (p : Part) : Option (List RollEntry) :=
  match k with
  | .lockdown => none
  | .evacuate => some (takeRoll p)

/-- The number of UNACCOUNTED entries. -/
def unaccounted (l : List RollEntry) : Nat := (l.filter (fun e => !e.accounted)).length

/-! ## Starting and changing -/

/-- The source of an ALERT entry: the template given, or that of the map entry ALERT (R181, R184). -/
def alertSource (img : Image) : AlertMessage → Source
  | .template t => .template t
  | .default => .template (img.mapped .alert)

/-- An ALERT entry (R184). -/
def alertRequest (p : Part) (m : AlertMessage) : EntryRequest :=
  { kind := .alert, target := .broadcast 0 .all 0 0, reg := none, source := alertSource p.work m, time := none
    minutes := none, level := none, settle := 0 }

/-- The start itself: the alert record with its roll, the ALERT flag, the zones and the bus, and the sweep hold (R182). -/
def startAlert (c : Clock) (k : AlertKind) (src : AlertSource) (p : Part) : Part :=
  let p := { p with ac.alert := some { kind := k, source := src, startedAt := c.stamp, changedAt := none, roll := rollFor k p } }
  let p := busAtAlertStart k (silenceZones (setFlag c .alert p))
  suspendSweeps { p with sweeps.resume := none }

/-- The ALERT entry of a start that gave a message: its id, NOENTRY, or NONE (R181, R184). -/
def startMessage (c : Clock) (m : Option AlertMessage) (p : Part) : Part × Field :=
  match m with
  | none => (p, noneWord)
  | some m =>
    match createOrReport c (alertRequest p m) p with
    | (q, .taken id) => (q, nat id)
    | (q, .held) => (q, .word "NOENTRY")
    | (q, .refused) => (q, .word "NOENTRY")

/-- A change of kind: source and started at kept, the roll taken or discarded, the new tone (R183). -/
def changeKind (c : Clock) (a : Alert) (k : AlertKind) (p : Part) : Part :=
  busAtChange k { p with ac.alert := some { a with kind := k, changedAt := c.stamp, roll := rollFor k p } }

/-- The word of an alert kind. -/
def alertKindWord (k : AlertKind) : String := alertWord (some k)

/-- The roll size after a change to EVACUATE (R181). -/
def rollSize (p : Part) : List Field :=
  match p.ac.alert.bind (·.roll) with
  | none => []
  | some l => [nat l.length]

/-- A start that passed its checks, by the alert state (R181). -/
def takeStart (c : Clock) (k : AlertKind) (src : AlertSource) (m : Option AlertMessage) (p : Part) : Part × Reply :=
  match p.ac.alert with
  | none =>
    let x := startMessage c m (startAlert c k src p)
    (x.1, ok [.word (alertKindWord k), x.2])
  | some a =>
    if a.kind = k then (p, ok [.word (alertKindWord k)])
    else (changeKind c a k p, ok (.word (alertKindWord k) :: rollSize (changeKind c a k p)))

/-! ## The pin -/

/-- The pin qualifies: the ALERT flag, notice ALERT_PIN, and a LOCKDOWN start (R180). -/
def pinQualified (c : Clock) (p : Part) : Part :=
  (takeStart c .lockdown .pin none (raise c (.alertPin p.alertState) (setFlag c .alert p))).1

/-- One sample of the pin (R180, log 2). -/
def pinSample (c : Clock) (low : Bool) (p : Part) : Part :=
  if low then
    if p.ac.pinCount + 1 < Config.pinQualifies then { p with ac.pinCount := p.ac.pinCount + 1 }
    else if p.ac.pinCount + 1 = Config.pinQualifies then pinQualified c { p with ac.pinCount := Config.pinQualifies }
    else p
  else { p with ac.pinCount := 0 }

/-- ALERT_PIN_SAMPLE (R180). -/
def execAlertPinSample (low : Bool) (s : State) : Result := event [] (fun c p => pinSample c low p) s

/-! ## Requests -/

/-- The check of a message field: none when it passes (R181). -/
def messageRefused (img : Image) : AlertMessage → Option ErrCode
  | .default => none
  | .template t => if 31 < t then some .range else if (img.template t).isNone then some .notFound else none

/-- ALERT START (R181). -/
def alertStartRequest (c : Clock) (k : Option AlertKind) (m : Option AlertMessage) (p : Part) : Part × Reply :=
  match k with
  | none => refuse .malformed p
  | some k =>
    match m.bind (messageRefused p.work) with
    | some e => refuse e p
    | none => takeStart c k .host m p

/-- ALERT_START (R181 to R185). -/
def execAlertStart (sfx : Bool) (kind : Option AlertKind) (message : Option AlertMessage) (s : State) : Result :=
  request sfx [] (fun c p => alertStartRequest c kind message p) s

/-- ALERT NOTIFY (R184). -/
def alertNotifyRequest (c : Clock) (m : AlertMessage) (p : Part) : Part × Reply :=
  match messageRefused p.work m with
  | some e => refuse e p
  | none =>
    if p.noAlert then refuse .state p
    else match create c (alertRequest p m) p with
      | (q, .taken id) => (q, ok [nat id])
      | (q, .held) => (q, err .full)
      | (q, .refused) => (q, err .full)

/-- ALERT_NOTIFY (R184). -/
def execAlertNotify (sfx : Bool) (message : AlertMessage) (s : State) : Result :=
  request sfx [] (fun c p => alertNotifyRequest c message p) s

/-- The words of the alert sources (R179). -/
def sourceWord : AlertSource → String
  | .host => "HOST"
  | .pin => "PIN"

/-- The size and the unaccounted count of a roll. -/
def rollCounts : Option (List RollEntry) → List Field
  | none => []
  | some l => [nat l.length, nat (unaccounted l)]

/-- The reply of ALERT GET (R179). -/
def alertReply (p : Part) : Reply :=
  match p.ac.alert with
  | none => ok [noneWord]
  | some a =>
    ok ([.word (alertKindWord a.kind), .word (sourceWord a.source)] ++ stampFields a.startedAt ++ stampFields a.changedAt
      ++ rollCounts a.roll)

/-- ALERT_GET (R179). -/
def execAlertGet (sfx : Bool) (s : State) : Result := query sfx (fun _ p => alertReply p) s

/-- A roll entry that a request names, by the numbers copied into the roll (R186). -/
def RollEntry.isFor (r : PupilRef) (e : RollEntry) : Bool :=
  match r with
  | .slot n => e.slot == n
  | .number n => e.number == n

/-- An entry ACCOUNTED (R186). -/
def RollEntry.account (c : Clock) (e : RollEntry) : RollEntry :=
  if e.accounted then e else { e with accounted := true, accountedAt := c.second? }

/-- The roll with the entries of a pupil ACCOUNTED. -/
def markRoll (c : Clock) (r : PupilRef) (l : List RollEntry) : List RollEntry :=
  l.map (fun e => if e.isFor r then e.account c else e)

/-- ROLL MARK (R186). -/
def rollMarkRequest (c : Clock) (r : PupilRef) (p : Part) : Part × Reply :=
  if !pupilInRange r then refuse .range p
  else match p.ac.alert with
    | none => refuse .state p
    | some a => match a.roll with
      | none => refuse .state p
      | some l =>
        if l.any (RollEntry.isFor r) then
          ({ p with ac.alert := some { a with roll := some (markRoll c r l) } }, ok [nat (unaccounted (markRoll c r l))])
        else refuse .notFound p

/-- ROLL_MARK (R186). -/
def execRollMark (sfx : Bool) (pupil : PupilRef) (s : State) : Result := request sfx [] (fun c p => rollMarkRequest c pupil p) s

/-- The line of a roll entry (R186). -/
def rollLine (e : RollEntry) : List Field :=
  [nat e.slot, nat e.number, nat e.zone, .quoted e.name, .word (if e.accounted then "ACCOUNTED" else "UNACCOUNTED"),
   orDash .hms e.accountedAt]

/-- The reply of ROLL GET (R186). -/
def rollReply (zone : Option Nat) (p : Part) : Reply :=
  if (zone.map (fun z => decide (5 < z))).getD false then err .range
  else match p.ac.alert.bind (·.roll) with
    | none => err .state
    | some l =>
      let mine := match zone with
        | none => l
        | some z => l.filter (fun e => e.zone == z)
      listed ([nat l.length, nat (unaccounted l)] :: mine.map rollLine) mine.length

/-- ROLL_GET (R186). -/
def execRollGet (sfx : Bool) (zone : Option Nat) (s : State) : Result := query sfx (fun _ p => rollReply zone p) s

/-- The all-clear: record and roll discarded, the bus, the resume time, then the day close test (R187). -/
def allClear (c : Clock) (p : Part) : Part :=
  tryClose c (resumeAtAllClear c (busAtAllClear c { p with ac.alert := none }))

/-- ALERT END (R187). -/
def alertEndRequest (c : Clock) (p : Part) : Part × Reply :=
  match p.ac.alert with
  | none => refuse .state p
  | some a => (allClear c p, ok (.word (alertKindWord a.kind) :: rollCounts a.roll))

/-- ALERT_END (R187). -/
def execAlertEnd (sfx : Bool) (ws : List Bool) (s : State) : Result := request sfx ws (fun c p => alertEndRequest c p) s

end Sys2Proof.Machine
end

