-- ==== Sys2Proof/Machine/Classify.lean ====
section
/-!
DEFINITION. Classification of a first arrival, and the lesson rule (R115 to R126).
-/

namespace Sys2Proof.Machine

/-- The class of an arrival (R115). -/
inductive ArrivalClass where
  | onTime | late | excused
  deriving DecidableEq, Repr

/-- The registration period chosen, with its number and registration start R (R117). -/
structure Chosen where
  reg : Reg
  number : Nat
  start : Nat
  deriving DecidableEq, Repr

/-- The result handed back to the desk (R115); `band` is kept with LATE. -/
structure Classified where
  cls : ArrivalClass
  reg : Option Reg
  minutes : Option Nat
  band : Option Band
  exceeded : Bool
  written : Bool
  deriving DecidableEq, Repr

/-- What classification reads once, when it begins (R116). -/
structure Arrival where
  time : Nat
  slot : Nat
  record : Slot
  today : Today
  bandLimit : Nat
  reason : Nat
  deriving DecidableEq, Repr

/-- A registration period that is not cancelled in the zone, with its start. -/
def Arrival.candidate (a : Arrival) (x : Reg) : Option Chosen :=
  (a.today.reg? x).bind (fun k => (a.today.effective k a.record.zone).map (fun se => ⟨x, k, se.1⟩))

/-- The choice of r: PM from its start onward, otherwise AM, otherwise NONE (R117). -/
def Arrival.choose (a : Arrival) : Option Chosen :=
  match a.candidate .pm with
  | some q => if q.start ≤ a.time then some q else a.candidate .am
  | none => a.candidate .am

/-- "floor((L + 59) / 60)", clamped to at most 240 (R119). -/
def minutesLate (t start : Nat) : Nat := min ((t - start + 59) / 60) Config.minutesMax

/-- The band of a LATE arrival (R120). -/
def bandOf (t start close limit : Nat) : Band :=
  if start + close * 60 ≤ t then .afterClose else if minutesLate t start ≤ limit then .minor else .major

/-- Class, minutes and band before the excuse stage (R118 to R120). -/
def Arrival.measure (a : Arrival) (q : Option Chosen) : Classified :=
  match q with
  | none => ⟨.onTime, none, none, none, false, false⟩
  | some q =>
    if a.time ≤ q.start + a.today.plan.grace then ⟨.onTime, some q.reg, none, none, false, false⟩
    else ⟨.late, some q.reg, some (minutesLate a.time q.start),
      some (bandOf a.time q.start a.today.plan.close a.bandLimit), false, false⟩

/-- The allowance of the slot's ACTIVE LATE_ALLOWANCE record of a date. -/
def Image.allowance (img : Image) (n : Nat) (d : Date) : Option Nat :=
  (img.activeExcuse n .lateAllowance d).map (fun e => e.allowance.getD 0)

/-- An allowance compared with the minutes of a LATE arrival (R121). -/
def Classified.withAllowance (r : Classified) (allowance : Option Nat) : Classified :=
  match r.cls, r.minutes, allowance with
  | .late, some m, some a => if m ≤ a then { r with cls := .excused, band := none } else { r with exceeded := true }
  | _, _, _ => r

/-- The ABSENCE_DAY record of an arrival becomes USED with notice EXCUSE_ONSITE (R122). -/
def absenceDayAtArrival (c : Clock) (a : Arrival) (d : Date) (p : Part) : Part :=
  match p.work.activeExcuse a.slot .absenceDay d with
  | none => p
  | some _ => raise c (.excuseOnsite a.slot a.record.number a.time) (useExcuse a.slot .absenceDay d p)

/-- The excuse stage's effect on the list (R121, R122). -/
def excuseStage (c : Clock) (a : Arrival) (d : Date) (r : Classified) (p : Part) : Part :=
  absenceDayAtArrival c a d (if r.cls = .excused then useExcuse a.slot .lateAllowance d p else p)

/-- The registration write of a class (R123). -/
def registrationWrite (a : Arrival) (r : Classified) : Write :=
  match r.cls with
  | .onTime => { writer := .station, value := .present, minutes := none, reason := a.reason, band := none }
  | .late => { writer := .station, value := .late, minutes := r.minutes, reason := a.reason, band := r.band }
  | .excused => { writer := .station, value := .lateExcused, minutes := r.minutes, reason := a.reason, band := none }

/-- The half-period rule: value and minutes of a lesson in progress (R125). -/
def halfPeriod (s e t : Nat) (excused : Bool) : MarkValue × Option Nat :=
  if e - s < 2 * (t - s) then (if excused then .absentExcused else .absent, none)
  else (if excused then .lateExcused else .late, some (max 1 (min ((t - s + 59) / 60) Config.minutesMax)))

/-- What a lesson's position decides; none for one not started (R124). -/
def lessonValue (s e t : Nat) (excused : Bool) : Option (MarkValue × Option Nat) :=
  if e ≤ t then some (if excused then .absentExcused else .absent, none)
  else if s ≤ t then some (halfPeriod s e t excused)
  else none

/-- A record that classification considers: UNSET, or ABSENT from TEACHER (R124). -/
def Mark.openToArrival (m : Mark) : Bool := m.value == .unset || (m.value == .absent && m.source == some .teacher)

/-- A station's write of a decided value. -/
def stationWrite (reason : Nat) (v : MarkValue × Option Nat) : Write :=
  { writer := .station, value := v.1, minutes := v.2, reason := reason, band := none }

/-- One lesson of the day: the writes applied so far are carried along with whether an arrival value was written (R124). -/
def lessonStage (c : Clock) (a : Arrival) (excused : Bool) (x : Part × Bool) (m : MarkedPeriod) : Part × Bool :=
  if m.reg.isSome then x
  else match x.1.mark? a.slot m.number, a.today.effective m.number a.record.zone with
    | some k, some (s, e) =>
      match lessonValue s e a.time excused with
      | none => x
      | some v =>
        if k.openToArrival && v.1 != k.value then
          let w := writeMark c (stationWrite a.reason v) a.slot m.number x.1
          (w.1, x.2 || (w.2 && isArrival v.1))
        else x
    | _, _ => x

/-- The LATE entry that an applied LATE write asks for (R126, R160). -/
def lateRequest (p : Part) (a : Arrival) (x : Reg) (minutes : Option Nat) : EntryRequest :=
  { kind := .late, target := .slot a.slot (waitingPositions a.record.contacts), reg := some x
    source := .template (p.work.mapped .late), time := some a.time, minutes := minutes, level := none, settle := 0 }

/-- The LATE entry: MAJOR or AFTER_CLOSE, late notice YES, none standing yet (R126). -/
def lateStage (c : Clock) (a : Arrival) (r : Classified) (p : Part) : Part :=
  match r.cls, r.reg with
  | .late, some x =>
    if a.record.lateNotice && r.band != some .minor && (p.entryFor? .late a.slot x).isNone then
      (createOrReport c (lateRequest p a x r.minutes) p).1
    else p
  | _, _ => p

/-- The registration write, when r is chosen (R123). -/
def registrationStage (c : Clock) (a : Arrival) (q : Option Chosen) (r : Classified) (p : Part) : Part × Bool :=
  match q with
  | none => (p, false)
  | some q => writeMark c (registrationWrite a r) a.slot q.number p

/-- Classification, stage by stage (R115). -/
def classify (c : Clock) (a : Arrival) (d : Date) (p : Part) : Part × Classified :=
  let q := a.choose
  let r := (a.measure q).withAllowance (p.work.allowance a.slot d)
  let w := registrationStage c a q r (excuseStage c a d r p)
  let l := a.today.plan.marked.foldl (lessonStage c a (r.cls == .excused)) w
  (if w.2 then lateStage c a r l.1 else l.1, { r with written := l.2 })

end Sys2Proof.Machine
end

