-- ==== Sys2Proof/Machine/MarkRequests.lean ====
section
/-!
DEFINITION. The Day Register's requests: MARK_SET, MARK_BATCH, MARK_GET, TALLY, TALLY_YESTERDAY, EXPORT, EXPORT_NEXT,
REGISTER_RESUME (file 05).
-/

namespace Sys2Proof.Machine

/-! ## Words -/

/-- The words of the mark values (R73). -/
def valueWord : MarkValue → String
  | .unset => "UNSET" | .present => "PRESENT" | .late => "LATE" | .lateExcused => "LATE_EXCUSED" | .absent => "ABSENT"
  | .absentExcused => "ABSENT_EXCUSED" | .offsite => "OFFSITE" | .notRequired => "NOT_REQUIRED"

/-- The words of the sources (R73). -/
def writerWord : Writer → String
  | .station => "STATION" | .sweep => "SWEEP" | .teacher => "TEACHER" | .office => "OFFICE" | .parent => "PARENT"
  | .system => "SYSTEM"

/-- The words of the bands (R73). -/
def bandWord : Band → String
  | .minor => "MINOR" | .major => "MAJOR" | .afterClose => "AFTER_CLOSE"

/-- The words of the notice statuses (R73). -/
def noticeWord : NoticeStatus → String
  | .none => "NONE" | .pending => "PENDING" | .sent => "SENT" | .corrected => "CORRECTED" | .expired => "EXPIRED"

/-- The words of the presences (R78). -/
def presenceWord : Presence → String
  | .notArrived => "NOT_ARRIVED" | .onSite => "ON_SITE" | .signedOut => "SIGNED_OUT"

/-- The words of the register states (R75). -/
def registerWord : RegisterState → String
  | .normal => "NORMAL"
  | .recovery => "RECOVERY"

/-- The kind of a marked period. -/
def markedWord (m : MarkedPeriod) : String := if m.reg.isSome then "REGISTRATION" else "LESSON"

/-! ## MARK SET and MARK BATCH -/

/-- The fields that the items of a host write share (R81, R83). -/
structure HostMark where
  period : PeriodRef
  value : Option MarkValue
  minutes : Option Nat
  reason : Nat
  source : Option HostSource
  deriving DecidableEq, Repr

/-- The writer of a host mark request. -/
def hostWriter : HostSource → Writer
  | .teacher => .teacher
  | .office => .office

/-- Minutes are given with LATE and LATE_EXCUSED and with no other value (R81, step 1). -/
def minutesFit (v : MarkValue) (m : Option Nat) : Bool := m.isSome == holdsMinutes v

/-- The period's own range: a marked period of today's plan, or 0..13 while there is none (R81, step 2). -/
def Part.periodInRange (p : Part) (r : PeriodRef) : Bool :=
  match p.bells.today, r with
  | some t, _ => (t.markedPeriod r).isSome
  | none, .number n => decide (n ≤ 13)
  | none, .reg _ => true

/-- A host write ready to be taken: its period and its write. -/
structure ReadyMark where
  period : Nat
  write : Write
  deriving DecidableEq, Repr

/-- The first three steps of R81, with the range of a pupil given by the caller. -/
def readMark (h : HostMark) (pupilOk : Bool) (p : Part) : Except ErrCode ReadyMark :=
  match h.value with
  | none => .error .malformed
  | some v =>
    if !minutesFit v h.minutes then .error .malformed
    else match h.source with
      | none => .error .range
      | some src =>
        if !pupilOk || decide (7 < h.reason) || !p.periodInRange h.period || h.minutes == some 0 then .error .range
        else match p.openDay, p.bells.today.bind (fun t => t.markedPeriod h.period) with
          | some _, some k => .ok ⟨k, { writer := hostWriter src, value := v, minutes := h.minutes, reason := h.reason, band := none }⟩
          | _, _ => .error .state

/-- R82 refuses an UNSET write: the sweep of the registration period has begun. -/
def unsetRefused (p : Part) (n k : Nat) (v : MarkValue) : Bool :=
  v == .unset && (((p.mark? n k).bind (fun m => m.period.reg)).map p.sweepBegun).getD false

/-- A host write of one record (R81, steps 5 and 6). -/
def hostWrite (c : Clock) (w : Write) (n k : Nat) (p : Part) : Part × Bool :=
  if unsetRefused p n k w.value then (p, false) else writeMark c w n k p

/-- The change sequence; 0 without a register. -/
def Part.changes (p : Part) : Nat := (p.register?.map (·.changes)).getD 0

/-- MARK SET (R81). -/
def markSet (c : Clock) (r : PupilRef) (h : HostMark) (p : Part) : Part × Reply :=
  match readMark h (pupilInRange r) p with
  | .error e => refuse e p
  | .ok m =>
    match p.work.pupil r with
    | none => refuse .notFound p
    | some (n, _) =>
      match hostWrite c m.write n m.period p with
      | (q, true) => (q, ok [.word (valueWord m.write.value), nat q.changes])
      | (q, false) => (q, err .state)

/-- MARK_SET (R81, R82). -/
def execMarkSet (sfx : Bool) (pupil : PupilRef) (period : PeriodRef) (value : Option MarkValue) (minutes : Option Nat)
    (reason : Nat) (source : Option HostSource) (s : State) : Result :=
  request sfx [] (fun c p => markSet c pupil ⟨period, value, minutes, reason, source⟩ p) s

/-- One item of MARK BATCH: its status, and its write when it is taken (R83). -/
def batchItem (c : Clock) (m : ReadyMark) (p : Part) (r : PupilRef) : Part × List Field :=
  if !pupilInRange r then (p, [.word "RANGE"])
  else match p.work.pupil r with
    | none => (p, [.word "NOTFOUND"])
    | some (n, _) =>
      match hostWrite c m.write n m.period p with
      | (q, true) => (q, [.word "OK", .word (valueWord m.write.value)])
      | (q, false) => (q, [.word "STATE"])

/-- The items of a batch in list order, each line "the pupil as written and the item's status" (R83). -/
def batchItems (c : Clock) (m : ReadyMark) : List WrittenPupil → Part → Part × List (List Field)
  | [], p => (p, [])
  | r :: t, p =>
    let x := batchItem c m p r.ref
    let y := batchItems c m t x.1
    (y.1, (.plain r.written :: x.2) :: y.2)

/-- MARK BATCH (R83). -/
def markBatchRequest (c : Clock) (h : HostMark) (l : List WrittenPupil) (p : Part) : Part × Reply :=
  if l.isEmpty ∨ Config.batchMax < l.length then refuse .malformed p
  else match readMark h true p with
    | .error e => refuse e p
    | .ok m => ((batchItems c m l p).1, counted (batchItems c m l p).2)

/-- MARK_BATCH (R83). -/
def execMarkBatch (sfx : Bool) (period : PeriodRef) (value : Option MarkValue) (minutes : Option Nat) (reason : Nat)
    (source : Option HostSource) (pupils : List WrittenPupil) (s : State) : Result :=
  request sfx [] (fun c p => markBatchRequest c ⟨period, value, minutes, reason, source⟩ pupils p) s

/-! ## Reading the register -/

/-- The data line of a mark record, "with a dash for each absent item" (R84). -/
def markLine (m : Mark) : List Field :=
  [nat m.period.number, .word (markedWord m.period), .word (valueWord m.value), orDash (fun w => .word (writerWord w)) m.source,
   orDash nat m.minutes, orDash nat m.reason, orDash .hms m.timeSet, orDash (fun b => .word (bandWord b)) m.band,
   orDash (fun n => .word (noticeWord n)) m.notice]

/-- The reply of MARK GET; the range of the pupil comes before the register (R84, log 56). -/
def markReply (r : PupilRef) (p : Part) : Reply :=
  if !pupilInRange r then err .range
  else match p.register? with
    | none => err .state
    | some g =>
      match (p.work.pupil r).bind (fun x => (g.slot? x.1).map (fun d => (x.2, d))) with
      | none => err .notFound
      | some (x, d) =>
        listed (d.marks.map markLine ++ [[.word (slotWord x.state), .word (presenceWord d.presence), nat d.lastChange]])
          d.marks.length

/-- MARK_GET (R84). -/
def execMarkGet (sfx : Bool) (pupil : PupilRef) (s : State) : Result := query sfx (fun _ p => markReply pupil p) s

/-- The line of a tally: the eight counts in the order of R73 (R85). -/
def tallyLine (t : Tally) : List Field :=
  [nat t.period.number, .word (markedWord t.period), nat t.unset, nat t.present, nat t.late, nat t.lateExcused, nat t.absent,
   nat t.absentExcused, nat t.offsite, nat t.notRequired]

/-- The line of a registration period's band counts (R85). -/
def bandLine (t : Tally) : List Field := [nat t.minor, nat t.major, nat t.afterClose]

/-- The lines of the tallies, then the band lines (R85). -/
def tallyLines (l : List Tally) : List (List Field) :=
  l.map tallyLine ++ (l.filter (fun t => t.period.reg.isSome)).map bandLine

/-- The reply of TALLY (R85). -/
def tallyReply (p : Part) : Reply :=
  match p.register? with
  | none => err .state
  | some g => counted ([.word (registerWord g.state), nat g.changes, nat p.work.nonVacant, nat g.onSite] :: tallyLines g.tallies)

/-- TALLY (R85). -/
def execTally (sfx : Bool) (s : State) : Result := query sfx (fun _ p => tallyReply p) s

/-- The reply of TALLY YESTERDAY (R85). -/
def yesterdayReply (p : Part) : Reply :=
  match p.reg.yesterday with
  | none => ok [noneWord]
  | some y => counted ([.date y.date, nat y.plan, nat y.nonVacant, nat y.onSite] :: tallyLines y.tallies)

/-- TALLY_YESTERDAY (R85). -/
def execTallyYesterday (sfx : Bool) (s : State) : Result := query sfx (fun _ p => yesterdayReply p) s

/-! ## Export -/

/-- "UP from 3071 gives 0, and DOWN from 0 gives 3071" (R90). -/
def nextPosition (d : Direction) (n : Nat) : Nat :=
  match d with
  | .up => if n + 1 < Config.slotCount then n + 1 else 0
  | .down => if n = 0 then Config.slotCount - 1 else n - 1

/-- The CHANGED flag (R90). -/
def changedFlag (last epoch : Nat) : Field :=
  if epoch < last ∨ (last = Config.changeMax ∧ epoch = Config.changeMax) then .word "CHANGED" else dash

/-- The fields of a listed period (R90). -/
def exportMark (d : SlotDay) (k : Nat) : List Field :=
  match d.mark? k with
  | none => [dash, dash, dash]
  | some m => [.word (valueWord m.value), orDash (fun w => .word (writerWord w)) m.source, orDash nat m.minutes]

/-- The line of a slot; none when it is VACANT (R90), or has no records (log 66). -/
def exportLine (img : Image) (g : Register) (x : Export) (n : Nat) : Option (List Field) :=
  match Table.get? img.slots n, g.slot? n with
  | some y, some d =>
    some ([nat n, nat y.number, changedFlag d.lastChange x.epoch, .word (presenceWord d.presence)]
      ++ x.periods.flatMap (exportMark d))
  | _, _ => none

/-- Visits slots until the count or the block is done: the lines, the next position, and the visits still to come (R90). -/
def visit (line : Nat → Option (List Field)) (d : Direction) : Nat → Nat → Nat → List (List Field) × Nat × Nat
  | 0, n, _ => ([], n, 0)
  | r + 1, n, room =>
    match line n with
    | none => visit line d r (nextPosition d n) room
    | some l =>
      if room ≤ 1 then ([l], nextPosition d n, r)
      else
        let rest := visit line d r (nextPosition d n) (room - 1)
        (l :: rest.1, rest.2)

/-- The word of a block, and the export after it (R90). -/
def afterBlock (x : Export) (changes next left : Nat) : String × Option Export :=
  if left = 0 then
    match x.endMode with
    | .once => ("END", none)
    | .wrap => ("WRAP", some { x with position := x.first, visited := 0, epoch := changes })
  else ("MORE", some { x with position := next, visited := x.count - left })

/-- One block of an export (R90). -/
def exportBlock (x : Export) (p : Part) : Part × Reply :=
  match p.register? with
  | none => refuse .state p
  | some g =>
    let v := visit (exportLine p.work g x) x.dir (x.count - x.visited) x.position x.block
    let a := afterBlock x g.changes v.2.1 v.2.2
    (p.onRegister (fun g => { g with exporting := a.2 }),
      { data := v.1, closing := [.word "OK", nat v.1.length, .word a.1], sfx := false })

/-- A period list while there is no plan of today: numbers of 0..13, and no name twice (R89, log 40). -/
def bareListOk : PeriodsField → Bool
  | .all => true
  | .list l => noRepeat l && l.all (fun r => match r with
      | .number n => decide (n ≤ 13)
      | .reg _ => true)

/-- The period list of EXPORT: every one marked in today's plan, and none twice (R89, log 40). -/
def exportPeriods (t : Today) : PeriodsField → Option (List Nat)
  | .all => some (t.plan.marked.map (·.number))
  | .list l =>
    match allKnown (l.map t.markedPeriod) with
    | none => none
    | some ks => if noRepeat ks then some ks else none

/-- The plain fields of EXPORT are in range (R89). -/
def exportFieldsOk (first count block : Nat) : Bool :=
  decide (first < Config.slotCount) && decide (1 ≤ count) && decide (count ≤ Config.slotCount) && decide (1 ≤ block)
    && decide (block ≤ 64)

/-- EXPORT; a dir or end that is none of its words is "a field outside its range" (R89). -/
def exportRequest (first count : Nat) (d : Option Direction) (f : PeriodsField) (block : Nat) (e : Option EndMode)
    (p : Part) : Part × Reply :=
  match d, e with
  | some d, some e =>
    if !exportFieldsOk first count block then refuse .range p
    else match p.register?, p.bells.today with
      | some g, some t =>
        match exportPeriods t f with
        | none => refuse .range p
        | some l => exportBlock { first := first, count := count, dir := d, periods := l, block := block, endMode := e
                                  position := first, visited := 0, epoch := g.changes } p
      | _, _ => refuse (if bareListOk f then .state else .range) p
  | _, _ => refuse .range p

/-- EXPORT (R89, R90). -/
def execExportStart (sfx : Bool) (first count : Nat) (dir : Option Direction) (periods : PeriodsField)
    (block : Nat) (endMode : Option EndMode) (s : State) : Result :=
  request sfx [] (fun _ p => exportRequest first count dir periods block endMode p) s

/-- EXPORT NEXT (R90). -/
def exportNextRequest (p : Part) : Part × Reply :=
  match p.register?.bind (·.exporting) with
  | none => refuse .state p
  | some x => exportBlock x p

/-- EXPORT_NEXT (R90). -/
def execExportNext (sfx : Bool) (s : State) : Result := request sfx [] (fun _ p => exportNextRequest p) s

/-! ## REGISTER RESUME -/

/-- REGISTER RESUME (R93). -/
def registerResumeRequest (c : Clock) (p : Part) : Part × Reply :=
  match p.register? with
  | none => refuse .state p
  | some g =>
    match g.state with
    | .normal => refuse .state p
    | .recovery => (startDue c (releaseSweeps (p.onRegister (fun g => { g with state := .normal }))), ok [])

/-- REGISTER_RESUME (R93). -/
def execRegisterResume (sfx : Bool) (s : State) : Result := request sfx [] (fun c p => registerResumeRequest c p) s

end Sys2Proof.Machine
end

