-- ==== Sys2Proof/Machine/Desk.lean ====
section
/-!
DEFINITION. The Arrival Desk: STATION_SET, STATION_GET, POLL_CYCLE, STATION_POLL_MISS, STATION_IDLE, STATION_ENTRY,
STATION_CALL, STATION_FAULT_ANSWER, PROCESS_ENTRY (file 06).
-/

namespace Sys2Proof.Machine

/-! ## Station records -/

/-- The station addresses. -/
def stationNumbers : List Nat := [0, 1, 2, 3]

/-- Station n. -/
def Part.station (p : Part) (n : Nat) : Station := p.desk.stations.getD n Station.absent

/-- Changes station n. -/
def onStation (n : Nat) (f : Station → Station) (p : Part) : Part :=
  { p with desk.stations := p.desk.stations.setIfInBounds n (f (p.station n)) }

/-- A station under a new configuration (R99). -/
def Station.under (isPresent : Bool) (s : Station) : Station :=
  if isPresent then if s.state = .absent then Station.fresh else s else Station.absent

/-- A station that is not present. -/
def Station.isAbsent (s : Station) : Bool := s.state == .absent

/-- Station n becomes present under a new configuration. -/
def Part.joins (p : Part) (l : List Nat) (n : Nat) : Bool := (p.station n).isAbsent && l.contains n

/-- Station n becomes absent under a new configuration. -/
def Part.leaves (p : Part) (l : List Nat) (n : Nat) : Bool := !(p.station n).isAbsent && !l.contains n

/-- An open exchange under a new configuration: void once its station's record is made anew or dropped (R99, log 37). -/
def Exchange.under (p : Part) (l : List Nat) (x : Exchange) : Exchange :=
  { x with void := x.void || p.joins l x.station || p.leaves l x.station }

/-- The stations under a new configuration; one newly present is "polled from the next poll cycle" (R99). -/
def setStations (l : List Nat) (p : Part) : Part :=
  { p with desk.stations := Vector.ofFn (fun i => Station.under (l.contains i.val) (p.station i.val))
           desk.toPoll := p.desk.toPoll.filter (fun n => !p.joins l n)
           desk.asking := p.desk.asking.map (Exchange.under p l) }

/-- STATION SET (R99). -/
def stationSetRequest (l : List (Option Nat)) (p : Part) : Part × Reply :=
  match allKnown l with
  | none => refuse .range p
  | some l =>
    if l.all (fun n => decide (n ≤ 3)) && noRepeat l then
      let l := stationNumbers.filter (fun n => l.contains n)
      stored [.stations] (fun img => { img with stations := l }) p (fun q => (setStations l q, ok []))
    else refuse .range p

/-- STATION_SET (R99). -/
def execStationSet (sfx : Bool) (list : List (Option Nat)) (ws : List Bool) (s : State) : Result :=
  request sfx ws (fun _ p => stationSetRequest list p) s

/-- The words of the station states (R98). -/
def stationWord : StationState → String
  | .absent => "ABSENT" | .ready => "READY" | .faulted => "FAULTED"

/-- The words of the station fault codes. -/
def troubleWord : StationFault → String
  | .printer => "PRINTER"
  | .reader => "READER"

/-- The line of the queue (R99). -/
def queueLine (l : List QueueEntry) : List Field := [nat l.length, orNone (fun x : Stamp => .hms x.second) (l.head?.bind (·.taken))]

/-- The line of a station, its address first (log 65); an ABSENT one shows the items of a fresh record (R99, log 58). -/
def stationLine (p : Part) (n : Nat) : List Field :=
  let s := p.station n
  [nat n, yesNo (p.work.stations.contains n), .word (stationWord s.state),
   .word ((s.condition.map troubleWord).getD "OK"), nat s.misses, nat s.calls, orNone nat s.lastTag, orNone nat s.ack,
   nat s.slips.length]

/-- STATION_GET (R99). -/
def execStationGet (sfx : Bool) (s : State) : Result :=
  query sfx (fun _ p => listed (queueLine p.desk.queue :: stationNumbers.map (stationLine p)) 4) s

/-! ## Polling -/

/-- The mode that a poll carries (R102). -/
def Part.stationMode (p : Part) : StationMode :=
  match p.alertState with
  | some .lockdown => .lockdown
  | some .evacuate => .evacuation
  | none => if p.isOpen && p.hl.activity != .dormant then .opened else .closed

/-- Sends the poll to one station; "sending the poll clears the pending acknowledgement" (R102). -/
def sendPoll (n : Nat) (rest : List Nat) (p : Part) : Part :=
  let s := p.station n
  let q := emit (.stationPoll n p.stationMode s.ack s.slips.head?) p
  let q := onStation n (fun s => { s with ack := none }) q
  { q with desk.toPoll := rest, desk.asking := some ⟨n, !s.slips.isEmpty, s.isAbsent⟩ }

/-- "The next exchange of the cycle begins when the previous one ends" (R100). -/
def nextExchange (p : Part) : Part :=
  match p.desk.toPoll with
  | [] => { p with desk.asking := none }
  | n :: rest => sendPoll n rest p

/-- A poll cycle begins (R100). "A cycle always ends before the next one begins." -/
def cycleBegins (c : Clock) (p : Part) : Part :=
  if p.desk.cycleNext ≤ c.crystal ∧ p.desk.toPoll.isEmpty ∧ p.desk.asking.isNone then
    nextExchange { p with desk.cycleStart := c.crystal
                          desk.cycleNext := c.crystal + (if p.hl.activity = .dormant then Config.cycleDormant else Config.cycleAwake)
                          desk.toPoll := p.work.stations }
  else p

/-- POLL_CYCLE (R100). -/
def execPollCycle (s : State) : Result := event [] cycleBegins s

/-- An outcome of the open exchange with station n, and the next exchange. A void exchange has no effect of its own
(log 37), and an answer is known by its address alone (log 52). -/
def exchangeWith (n : Nat) (f : Exchange → Part → Part) (p : Part) : Part :=
  match p.desk.asking with
  | none => p
  | some x =>
    if x.station = n then nextExchange (if x.void then p else f x p) else p

/-- A miss; a FAULTED station keeps the miss count it has (R101, log 57). -/
def missOutcome (c : Clock) (n : Nat) (p : Part) : Part :=
  let s := p.station n
  let quiet := onStation n (fun s => { s with calls := 0, callRaised := false }) p
  match s.state with
  | .ready =>
    if s.misses + 1 < Config.missMax then onStation n (fun s => { s with misses := s.misses + 1 }) quiet
    else raise c (.stationFault n .noReply) (onStation n (fun s => { s with misses := Config.missMax, state := .faulted }) quiet)
  | .faulted => quiet
  | .absent => quiet

/-- STATION_POLL_MISS (R100, R101). -/
def execStationPollMiss (s : State) : Result :=
  event [] (fun c p => match p.desk.asking with
    | none => p
    | some x => exchangeWith x.station (fun _ q => missOutcome c x.station q) p) s

/-- Any answer: the miss count is 0, and a FAULTED station returns to READY with STATION_OK (R101). -/
def anyAnswer (c : Clock) (n : Nat) (p : Part) : Part :=
  let q := onStation n (fun s => { s with misses := 0, state := .ready }) p
  if (p.station n).state = .faulted then raise c (.stationOk n) q else q

/-- IDLE, ENTRY or CALL: the condition is OK, and the slip that the poll carried leaves the list (R101, R102). -/
def goodAnswer (c : Clock) (n : Nat) (x : Exchange) (p : Part) : Part :=
  let p := anyAnswer c n p
  let q := onStation n (fun s =>
    { s with condition := none, slips := if x.carriedSlip then s.slips.tail else s.slips }) p
  if (p.station n).condition.isSome then raise c (.stationOk n) q else q

/-- The call button is not held (R112). -/
def noCall (n : Nat) (p : Part) : Part := onStation n (fun s => { s with calls := 0, callRaised := false }) p

/-- STATION_IDLE (R101, R102). -/
def execStationIdle (n : Nat) (s : State) : Result :=
  event [] (fun c p => exchangeWith n (fun x q => noCall n (goodAnswer c n x q)) p) s

/-- FAULT with a code sets the condition (R101). -/
def faultAnswer (c : Clock) (n : Nat) (f : StationFault) (p : Part) : Part :=
  let p := noCall n (anyAnswer c n p)
  let q := onStation n (fun s => { s with condition := some f }) p
  if (p.station n).condition = some f then q else raise c (.stationFault n (.code f)) q

/-- STATION_FAULT_ANSWER (R101). -/
def execStationFaultAnswer (n : Nat) (code : StationFault) (s : State) : Result :=
  event [] (fun c p => exchangeWith n (fun _ q => faultAnswer c n code q) p) s

/-! ## Calls -/

/-- The call threshold of the activity state (R112). -/
def callThreshold (a : Activity) : Nat :=
  match a with
  | .active => Config.callAwake | .quiet => Config.callAwake | .dormant => Config.callDormant

/-- A CALL answer counts; at the threshold the call is counted (R112). -/
def callAnswer (c : Clock) (n : Nat) (p : Part) : Part :=
  let k := min ((p.station n).calls + 1) Config.callMax
  let q := onStation n (fun s => { s with calls := k }) p
  if callThreshold p.hl.activity ≤ k ∧ !(p.station n).callRaised then
    setFlag c .call (raise c (.doorCall n c.second?) (onStation n (fun s => { s with callRaised := true }) q))
  else q

/-- STATION_CALL (R101, R112). -/
def execStationCall (n : Nat) (s : State) : Result :=
  event [] (fun c p => exchangeWith n (fun x q => callAnswer c n (goodAnswer c n x q)) p) s

/-! ## Entries -/

/-- An ENTRY answer as R102 gives it. -/
def entryReadable (tag : Nat) (number : Text) (reason : Nat) : Bool :=
  decide (tag ≤ 255) && allDigits number && decide (number.length ≤ 9) && decide (reason ≤ 7)

/-- A station's entries in the queue and its waiting slips together (R103). -/
def Part.stationLoad (p : Part) (n : Nat) : Nat :=
  (p.desk.queue.filter (fun e => e.station == n)).length + (p.station n).slips.length

/-- The entry is taken (R103). -/
def takeEntry (n tag : Nat) (e : QueueEntry) (p : Part) : Part :=
  onStation n (fun s => { s with lastTag := some tag, ack := some tag }) { p with desk.queue := p.desk.queue ++ [e] }

/-- An ENTRY answer: re-offer, dormant, hold-back, take (R103). -/
def entryAnswer (n tag : Nat) (e : QueueEntry) (p : Part) : Part :=
  if (p.station n).lastTag = some tag then onStation n (fun s => { s with ack := some tag }) p
  else if p.hl.activity = .dormant then p
  else if Config.queueMax ≤ p.desk.queue.length ∨ Config.stationShare ≤ p.stationLoad n then p
  else takeEntry n tag e p

/-- STATION_ENTRY; an answer that "cannot be read" is discarded (R100, R103, log 42). -/
def execStationEntry (n tag : Nat) (kind : EntryKind) (number : Text) (reason : Nat) (s : State) : Result :=
  event [] (fun c p =>
    if entryReadable tag number reason then
      exchangeWith n (fun x q => entryAnswer n tag ⟨n, tag, kind, number, reason, c.stamp⟩ (noCall n (goodAnswer c n x q))) p
    else p) s

/-! ## Processing -/

/-- The ENROLLED slot of a number as offered (R58, R105). -/
def Image.pupilOffered (img : Image) (number : Text) : Option (Nat × Slot) :=
  let n := digitsValue number
  if 1 ≤ n ∧ n ≤ Config.pupilNumberMax then img.enrolledPupil (.number n) else none

/-- The slip of an entry (R111); with no take time and an UNSET clock it has no time (log 72). -/
def slipOf (c : Clock) (p : Part) (e : QueueEntry) (k : SlipKind) : Slip :=
  { kind := k, tag := e.tag, time := match e.taken with
                                     | some x => some x.second
                                     | none => c.second?
    name := (p.work.pupilOffered e.number).map (·.2.name)
    number := match k with
      | .unknown => some e.number | .closed => some e.number | .evacuation => some e.number
      | _ => none
    hold := p.alertState == some .lockdown }

/-- The slip is appended to the station's list, if the station is present when the processing ends (R104), be it set absent and
present again meanwhile (R99, log 80). -/
def giveSlip (n : Nat) (x : Slip) (p : Part) : Part :=
  if (p.station n).isAbsent then p else onStation n (fun s => { s with slips := s.slips ++ [x] }) p

/-- The slip of a first arrival, by its class (R106). -/
def arrivalSlip (r : Classified) : SlipKind :=
  match r.cls with
  | .onTime => .onTime
  | .late => .late (r.minutes.getD 0) r.band r.exceeded
  | .excused => .lateExcused (r.minutes.getD 0)

/-- A first arrival (R106). -/
def firstArrival (c : Clock) (a : Arrival) (d : Date) (p : Part) : Part × SlipKind :=
  let x := classify c a d p
  let q := if x.1.presence a.slot = .notArrived then movePresence a.slot .onSite x.1 else x.1
  ({ q with desk.firstArrivals := Table.put q.desk.firstArrivals a.slot a.time }, arrivalSlip x.2)

/-- The lesson in progress at a return that holds OFFSITE: LATE_EXCUSED in the first half, none after it (R108). -/
def returnLesson (s e t : Nat) : Option (MarkValue × Option Nat) :=
  if e - s < 2 * (t - s) then none
  else some (.lateExcused, some (max 1 (min ((t - s + 59) / 60) Config.minutesMax)))

/-- The write of a return to one period (R108, R143). -/
def returnValue (p : Part) (m : Mark) (s e t : Nat) : Option (MarkValue × Option Nat) :=
  if t < s then
    if m.value = .offsite ∧ m.source = some .station ∧ !((m.period.reg.map p.sweepBegun).getD false) then some (.unset, none)
    else none
  else if t < e ∧ m.period.reg.isNone then
    if m.value = .offsite ∧ m.source = some .station then returnLesson s e t
    else if m.value = .unset then some (halfPeriod s e t false)
    else none
  else none

/-- One period of a return; the write carries the entry's reason (R108, log 25). -/
def returnStage (c : Clock) (a : Arrival) (p : Part) (m : MarkedPeriod) : Part :=
  match p.mark? a.slot m.number, a.today.effective m.number a.record.zone with
  | some k, some (s, e) =>
    match returnValue p k s e a.time with
    | none => p
    | some v => (writeMark c (stationWrite a.reason v) a.slot m.number p).1
  | _, _ => p

/-- A return (R108). -/
def signReturn (c : Clock) (a : Arrival) (p : Part) : Part × SlipKind :=
  (a.today.plan.marked.foldl (returnStage c a) (movePresence a.slot .onSite p), .returned)

/-- One period of a sign-out with a reason: OFFSITE onto UNSET, for a period that starts after t (R109). -/
def offsiteStage (c : Clock) (a : Arrival) (p : Part) (m : MarkedPeriod) : Part :=
  match p.mark? a.slot m.number, a.today.effective m.number a.record.zone with
  | some k, some (s, _) =>
    if a.time < s ∧ k.value = .unset then (writeMark c (stationWrite a.reason (.offsite, none)) a.slot m.number p).1 else p
  | _, _ => p

/-- A sign-out of a pupil ON_SITE (R109). -/
def signOut (c : Clock) (a : Arrival) (station : Nat) (p : Part) : Part × SlipKind :=
  let q := movePresence a.slot .signedOut p
  (if a.reason = 0 then raise c (.unauthSignout a.slot a.record.number station a.time) q
   else a.today.plan.marked.foldl (offsiteStage c a) q, .signedOut a.reason)

/-- A sign-in or sign-out of an ENROLLED slot, by its presence (R106 to R109). -/
def processPupil (c : Clock) (e : QueueEntry) (a : Arrival) (d : Date) (p : Part) : Part × SlipKind :=
  match e.kind, p.presence a.slot with
  | .signIn, .notArrived => firstArrival c a d p
  | .signIn, .onSite => (p, .duplicate (Table.get? p.desk.firstArrivals a.slot))
  | .signIn, .signedOut => signReturn c a p
  | .signOut, .onSite => signOut c a e.station p
  | .signOut, .notArrived => (p, .notIn)
  | .signOut, .signedOut => (p, .notIn)

/-- An entry of the open day, outside an evacuation (R105). -/
def processKnown (c : Clock) (e : QueueEntry) (t : Today) (d : Date) (at' : Nat) (p : Part) : Part × SlipKind :=
  match p.work.pupilOffered e.number with
  | none => (raise c (.unknownPupil e.station e.number e.kind at') p, .unknown)
  | some (n, x) =>
    processPupil c e { time := at', slot := n, record := x, today := t, bandLimit := p.work.gateway.band, reason := e.reason } d p

/-- The processing of one entry: the first case of the table that applies, also past midnight while an alert defers the close
(R105, log 83). -/
def processEntry (c : Clock) (e : QueueEntry) (p : Part) : Part × SlipKind :=
  match p.openDay, p.bells.today, e.taken with
  | some r, some t, some x =>
    if x.date = r.date then
      if p.alertState = some .evacuate then (p, .evacuation) else processKnown c e t r.date x.second p
    else (p, .closed)
  | _, _, _ => (p, .closed)

/-- The head of the queue is removed and processed whole; its slip goes to its station (R104, R105). -/
def processHead (c : Clock) (p : Part) : Part :=
  match p.desk.queue with
  | [] => p
  | e :: rest =>
    let q := { p with desk.queue := rest }
    let x := processEntry c e q
    giveSlip e.station (slipOf c q e x.2) x.1

/-- PROCESS_ENTRY (R105). -/
def execProcessEntry (ws : List Bool) (s : State) : Result := event ws processHead s

end Sys2Proof.Machine
end

