-- ==== Sys2Proof/Machine/Parser.lean ====
section
/-!
DEFINITION. The parser of parent texts (R150 to R154).
-/

namespace Sys2Proof.Machine

/-! ## Tokens -/

/-- Characters kept by normalization: letters, digits, space and "/" (R150, log 27). -/
def keptChar (ch : Chr) : Bool := isUpper ch || isDigit ch || ch == space || ch == 47

/-- Upper case, and only the characters kept (R150). -/
def normalize (l : Text) : Text := (l.map toUpper).filter keptChar

/-- The tokens of a text: normalized, and cut at its runs of spaces (R150). -/
def tokens (l : Text) : List Text := (splitOn (· == space) (normalize l)).filter (fun w => !w.isEmpty)

/-- "TODAY or TOMORROW, or that holds a /" (R150). -/
def isDayToken (w : Text) : Bool := w == text "TODAY" || w == text "TOMORROW" || w.contains 47

/-! ## The sender -/

/-- The key of a number: its last 10 digits (R151). -/
def numberKey (l : Text) : Text :=
  let d := l.filter isDigit
  d.drop (d.length - 10)

/-- The contacts that a sender matches, lowest first (R151). -/
def matchedContacts (img : Image) (number : Text) : List Nat :=
  let k := numberKey number
  if k.isEmpty then []
  else (img.contacts.filter (fun e => (e.2.number.map (fun l => numberKey l == k)).getD false)).map (·.1)

/-- The ENROLLED slots that list one of some contacts, in slot order (R151). -/
def linkedSlots (img : Image) (contacts : List Nat) : List (Nat × Slot) :=
  img.slots.filter (fun e => e.2.state == .enrolled && e.2.contacts.any (fun i => contacts.contains i))

/-! ## Keyword, name and day -/

/-- The kind of a keyword (R152). -/
def keyword (w : Text) : Option ExcuseKind :=
  if w = text "ABSENT" ∨ w = text "ABS" ∨ w = text "ILL" ∨ w = text "SICK" then some .absenceDay
  else if w = text "LATE" then some .lateAllowance
  else none

/-- "The first numeric token after the keyword, clamped to 1..240. With no numeric token, A is 30" (R152). -/
def textAllowance (rest : List Text) : Nat :=
  match rest.find? allDigits with
  | none => 30
  | some w => max 1 (min (digitsValue w) 240)

/-- The name token: the second token when it is neither numeric nor a day token (R152). -/
def nameToken (rest : List Text) : Option Text := rest.head?.filter (fun w => !allDigits w && !isDayToken w)

/-- The slots that a text selects; none for a name that no linked slot has (R152). -/
def selectSlots (rest : List Text) (linked : List (Nat × Slot)) : Option (List Nat) :=
  match nameToken rest with
  | none => some (linked.map (·.1))
  | some w =>
    let l := linked.filter (fun e => normalize (beforeSpace e.2.name) == w)
    if l.isEmpty then none else some (l.map (·.1))

/-- The current school date (R153). -/
def Part.schoolDate (p : Part) : Option Date := (p.day.filter (fun r => r.kind == .school && !r.done)).map (·.date)

/-- One or two digits. -/
def shortNumber (w : Text) : Option Nat := if allDigits w ∧ w.length ≤ 2 then some (digitsValue w) else none

/-- Day and month of the form d/m (R153). -/
def dayMonth (w : Text) : Option (Nat × Nat) :=
  match splitOn (· == 47) w with
  | [a, b] => match shortNumber a, shortNumber b with
    | some d, some m => some (d, m)
    | _, _ => none
  | _ => none

/-- The date of TODAY (R153). -/
def Part.todayDate (p : Part) (now : Date) : Option Date :=
  match p.schoolDate with
  | some d => some d
  | none => p.work.nextSchool now 14

/-- The date of d/m: the first in the window, when it is the current school date or a later school day (R153). -/
def Part.dayMonthDate (p : Part) (now : Date) (x : Nat × Nat) : Option Date :=
  (findDayMonth now x.1 x.2 14).filter (fun d =>
    p.schoolDate == some d || (decide (now < d) && (p.work.dayKind d).1 == .school))

/-- The school date of a text; none is NO_DAY (R153). -/
def Part.textDate (p : Part) (now : Date) (rest : List Text) : Option Date :=
  match rest.find? isDayToken with
  | none => p.todayDate now
  | some w =>
    if w = text "TODAY" then p.todayDate now
    else if w = text "TOMORROW" then (p.todayDate now).bind (fun d => p.work.nextSchool d 14)
    else (dayMonth w).bind (p.dayMonthDate now)

/-! ## A text that passes -/

/-- What a text says (R150 to R153). -/
structure ParentText where
  kind : ExcuseKind
  allowance : Option Nat
  date : Date
  slots : List Nat
  contact : Nat
  deriving DecidableEq, Repr

/-- Reads a text, or gives the cause of its refusal, in the order of R150 to R153. -/
def readText (c : Clock) (p : Part) (number message : Text) : Except TextCause ParentText :=
  match c.stamp with
  | none => .error .noClock
  | some now =>
    let contacts := matchedContacts p.work number
    let linked := linkedSlots p.work contacts
    match contacts.head? with
    | none => .error .noContact
    | some sender =>
      if linked.isEmpty then .error .noPupil
      else match tokens message with
        | [] => .error .noKeyword
        | w :: rest =>
          match keyword w with
          | none => .error .noKeyword
          | some k =>
            match selectSlots rest linked with
            | none => .error .noName
            | some l =>
              match p.textDate now.date rest with
              | none => .error .noDay
              | some d =>
                .ok { kind := k, allowance := if k = .lateAllowance then some (textAllowance rest) else none, date := d
                      slots := l, contact := sender }

/-- The record of one selected slot (R154). -/
def ParentText.record (x : ParentText) (now : Stamp) (n : Nat) : Excuse :=
  { slot := n, kind := x.kind, allowance := x.allowance, date := x.date, source := .parent, received := now
    contact := some x.contact, used := false }

/-- The CONFIRM entry: the lowest selected slot, the sending contact alone (R154, R160). -/
def confirmRequest (p : Part) (x : ParentText) : EntryRequest :=
  { kind := .confirm, target := .slot (x.slots.head?.getD 0) (waitingPositions [x.contact]), reg := none
    source := .template (p.work.mapped .confirm), time := none, minutes := none, level := none, settle := 0 }

/-- The selected slots that add to the list (R154). -/
def addedRecords (p : Part) (x : ParentText) : Nat :=
  (x.slots.filter (fun n => !p.work.holdsExcuse n x.kind x.date)).length

/-- The records are written together, in the list in slot order (log 75), then the same-day effects in slot order, then the
confirmation (R154). -/
def applyText (c : Clock) (now : Stamp) (x : ParentText) (p : Part) : Part :=
  let records := x.slots.map (x.record now)
  let p := ownWrite [.excuses] { p with work.excuses := records.foldl (fun l e => putExcuse e l) p.work.excuses }
  let p := records.foldl (fun p e => sameDayEffect c .parent e p) p
  (createOrReport c (confirmRequest p x) p).1

/-- The parser takes one text whole (R150, R154). -/
def parseText (c : Clock) (number message : Text) (p : Part) : Part :=
  match readText c p number message, c.stamp with
  | .ok x, some now =>
    if Config.excuseMax - p.work.excuses.length < addedRecords p x then raise c (.excuseFull number message) p
    else applyText c now x p
  | .ok _, none => p
  | .error e, _ => raise c (.parentText number message e) p

end Sys2Proof.Machine
end

