-- ==== Sys2Proof/Machine/Gateway.lean ====
section
/-!
DEFINITION. The message gateway: RECV, HANDOVER, TAKEN, REJECT, DELIVERED, FAILED, GATEWAY_READY, GATEWAY_LINE_INVALID,
OFFER_WINDOW_END, SILENT_END, RESULT_TIMEOUT, SEND, WITHDRAW, OUTBOX_GET, GATEWAY_SET, GATEWAY_GET (files 09 and 10).
-/

namespace Sys2Proof.Machine

/-! ## Offers and lines -/

/-- "5 crystal seconds with none of these" have passed since the SEND (R169). -/
def Offer.overdue (c : Clock) (o : Offer) : Bool := decide (o.sentAt + Config.offerWindow ≤ c.crystal)

/-- The answer window of the open offer has ended: the contact stays WAITING and the gateway is SILENT (R169). -/
def offerExpires (c : Clock) (p : Part) : Part :=
  match p.pmu.offer with
  | none => p
  | some o =>
    if o.overdue c then { p with pmu.offer := none, pmu.gateway := .silent, pmu.silentAt := c.crystal } else p

/-- "Any line except REJECT: READY" (R166); an offer whose window has ended is closed first (log 39). -/
def lineArrives (c : Clock) (p : Part) : Part := { offerExpires c p with pmu.gateway := .ready }

/-- OFFER_WINDOW_END (R169). -/
def execOfferWindowEnd (s : State) : Result := event [] offerExpires s

/-- "30 crystal seconds after entering SILENT: READY" (R166). -/
def silenceEnds (c : Clock) (p : Part) : Part :=
  if p.pmu.gateway = .silent ∧ p.pmu.silentAt + Config.silentWait ≤ c.crystal then { p with pmu.gateway := .ready } else p

/-- SILENT_END (R166). -/
def execSilentEnd (s : State) : Result := event [] silenceEnds s

/-- GATEWAY_READY (R166). -/
def execGatewayReady (s : State) : Result := event [] lineArrives s

/-- GATEWAY_LINE_INVALID: "discarded and changes no state" (R165). -/
def execGatewayLineInvalid (_line : Text) (s : State) : Result := event [] (fun _ p => p) s

/-! ## The text of a SEND -/

/-- The number of an option in decimal, or the empty text. -/
def decimalOr : Option Nat → Text
  | none => []
  | some n => decimal n

/-- What a template field is replaced by (R171). -/
def fieldValue (img : Image) (e : OutEntry) : TemplateField → Text
  | .name => ((e.slot?.bind (fun n => Table.get? img.slots n)).map (·.name)).getD []
  | .time => (e.time.map hhmm).getD []
  | .min => decimalOr e.minutes
  | .period => (e.reg.map (fun x => text (regWord x))).getD []
  | .date => (e.created.map (fun x => twoDigits (civil x.date).day ++ [47] ++ twoDigits (civil x.date).month)).getD []
  | .level => decimalOr e.level
  | .school => img.school

/-- A template's text with its fields replaced (R171). -/
def expand (img : Image) (e : OutEntry) (l : Text) : Text :=
  ((pieces none l).getD (l.map Piece.chr)).flatMap (fun x => match x with
    | .chr ch => [ch]
    | .field f => fieldValue img e f)

/-- The text of an entry, cut to 160 characters; none when its template is EMPTY (R167, R171). -/
def messageOf (img : Image) (e : OutEntry) : Option Text :=
  (match e.source with
    | .host l => some l
    | .template t => (img.template t).map (expand img e)).map (fun l : Text => l.take Config.messageMax)

/-! ## The arbiter -/

/-- The clock is inside the send window (R167). -/
def insideWindow (c : Clock) (g : Settings) : Bool :=
  match c.second? with
  | none => false
  | some s => decide (g.winStart * 60 ≤ s) && decide (s < g.winEnd * 60)

/-- The ranks of the permitted classes, highest first (R167). -/
def permittedRanks (c : Clock) (p : Part) : List Nat :=
  if !p.noAlert then [0] else if insideWindow c p.work.gateway then [0, 1, 2, 3, 4] else [0]

/-- An entry in state READY or SENDING with a waiting contact (R167). -/
def Messages.sendable (m : Messages) (e : OutEntry) : Bool := e.hasWaiting && (e.ready || m.begun e)

/-- The entry that the arbiter picks: the highest class, then the oldest (R167). -/
def pickEntry (c : Clock) (p : Part) : Option OutEntry :=
  (permittedRanks c p).findSome? (fun r => p.pmu.outbox.find? (fun e => e.rank == r && p.pmu.sendable e))

/-- The first WAITING position of a list, numbered from 1. -/
def firstWaiting (ps : List Position) : Option (Position × Nat) := (ps.zipIdx 1).find? (fun x => x.1.state == .waiting)

/-- A contact passes a broadcast's filter, "as the roster stands at the scan" (R168). -/
def passesFilter (img : Image) (f : Filter) (n : Nat) : Bool :=
  match f with
  | .all => true
  | .years l => img.slots.any (fun e => e.2.state == .enrolled && l.contains e.2.year && e.2.contacts.contains n)

/-- The first contact from a cursor on that a broadcast reaches (R168). -/
def scanContacts (img : Image) (f : Filter) (cursor : Nat) : Option Nat :=
  (img.contacts.find? (fun e => decide (cursor ≤ e.1) && e.2.number.isSome && !e.2.barred && passesFilter img f e.1)).map (·.1)

/-- Every WAITING position FAILED(EMPTY), or the cursor at 4096: the entry's template is EMPTY (R167). -/
def OutEntry.failAll (e : OutEntry) : OutEntry :=
  match e.target with
  | .slot s ps =>
    { e with target := .slot s (ps.map (fun x => if x.state = .waiting then { x with state := .failed .empty } else x)) }
  | .broadcast _ f d g => { e with target := .broadcast Config.contactCount f d g }

/-- Moves a broadcast's cursor. -/
def OutEntry.setCursor (e : OutEntry) (n : Nat) : OutEntry :=
  match e.target with
  | .slot _ _ => e
  | .broadcast _ f d g => { e with target := .broadcast n f d g }

/-- SEND: the contact becomes the open offer, and the crystal count the last SEND (R167). -/
def sendTo (c : Clock) (e : OutEntry) (i n : Nat) (message : Text) (p : Part) : Part :=
  let k := p.work.contact n
  emit (.gatewaySend ⟨e.id, i⟩ k.channel (k.number.getD []) message)
    { p with pmu.offer := some ⟨⟨e.id, i⟩, c.crystal⟩, pmu.lastSend := some c.crystal }

/-- Why no SEND is made to a slot's contact: BARRED first, then EMPTY (R167). -/
def Contact.unusable (k : Contact) : Option FailReason :=
  if k.barred then some .barred else if k.number.isNone then some .empty else none

/-- One pick: the part after it, and whether the arbiter "picks again at once" (R167, R168). -/
def pickOnce (c : Clock) (e : OutEntry) (p : Part) : Part × Bool :=
  match messageOf p.work e, e.target with
  | none, _ => (follow c e.id (onEntry e.id OutEntry.failAll p), true)
  | some m, .slot _ ps =>
    match firstWaiting ps with
    | none => (p, false)
    | some (x, i) =>
      match (p.work.contact x.contact).unusable with
      | some r => (follow c e.id (onEntry e.id (fun e => e.setPosition i (.failed r)) p), true)
      | none => (sendTo c e i x.contact m p, false)
  | some m, .broadcast cursor f _ _ =>
    match scanContacts p.work f cursor with
    | none => (follow c e.id (onEntry e.id (fun e => e.setCursor Config.contactCount) p), true)
    | some n => (sendTo c e n n m (onEntry e.id (fun e => e.setCursor n) p), false)

/-- Picks until a SEND is made or no contact is found; every further pick has closed a waiting position or a broadcast. -/
def pickAll (c : Clock) : Nat → Part → Part
  | 0, p => p
  | k + 1, p =>
    match pickEntry c p with
    | none => p
    | some e =>
      let x := pickOnce c e p
      if x.2 then pickAll c k x.1 else x.1

/-- The number of picks that can be made: one for each waiting position or open broadcast, and one more. -/
def pickBound (l : List OutEntry) : Nat :=
  (l.map (fun e => match e.target with
    | .slot _ ps => ps.length
    | .broadcast _ _ _ _ => 1)).sum + 1

/-- The conditions of a handover but the last (R167). -/
def dispatchReady (c : Clock) (p : Part) : Bool :=
  p.pmu.offer.isNone && p.pmu.gateway == .ready && decide (p.pmu.inflight.length < Config.inflightMax)
    && (p.pmu.lastSend.map (fun t => decide (t + p.work.gateway.pace * Config.sixteenths ≤ c.crystal))).getD true
    && p.hl.activity != .dormant

/-- A handover (R167). -/
def handOver (c : Clock) (p : Part) : Part := if dispatchReady c p then pickAll c (pickBound p.pmu.outbox) p else p

/-- HANDOVER (R167, R168, R171). -/
def execHandover (s : State) : Result := event [] handOver s

/-! ## TAKEN and REJECT -/

/-- A contact taken by the gateway: IN_FLIGHT, or the cursor one past it (R168, R169), also where a late TAKEN has moved the
cursor further (log 81). -/
def OutEntry.takenAt (i : Nat) (e : OutEntry) : OutEntry :=
  match e.target with
  | .slot _ _ => e.setPosition i .inFlight
  | .broadcast _ _ _ _ => e.setCursor (i + 1)

/-- The contact of a handle becomes IN_FLIGHT, with a record of the current crystal count (R169). -/
def takeUp (c : Clock) (h : Handle) (p : Part) : Part :=
  let q := onEntry h.id (OutEntry.takenAt h.position) p
  { q with pmu.inflight := q.pmu.inflight ++ [⟨h, c.crystal⟩] }

/-- The open offer has this handle. -/
def Part.offers (p : Part) (h : Handle) : Bool := (p.pmu.offer.map (fun o => o.handle == h)).getD false

/-- The offer ends. -/
def closeOffer (p : Part) : Part := { p with pmu.offer := none }

/-- A contact of an entry that is still WAITING (R169, log 30). -/
def OutEntry.waitsAt (i : Nat) (e : OutEntry) : Bool :=
  match e.target with
  | .slot _ ps => (ps.zipIdx 1).any (fun x => x.2 == i && x.1.state == .waiting)
  | .broadcast cur _ _ _ => decide (cur ≤ i) && decide (i < Config.contactCount)

/-- There is room for a late TAKEN: "fewer than 8 records, or fewer than 7 while an offer is open" (R169). -/
def Messages.roomForLate (m : Messages) : Bool :=
  decide (m.inflight.length < if m.offer.isSome then Config.inflightMax - 1 else Config.inflightMax)

/-- A TAKEN line: of the open offer, late, or discarded (R169). -/
def takenLine (c : Clock) (h : Handle) (p : Part) : Part :=
  let p := lineArrives c p
  if p.offers h then takeUp c h (closeOffer p)
  else match p.entry? h.id with
    | none => p
    | some e => if e.waitsAt h.position && p.pmu.roomForLate then takeUp c h p else p

/-- TAKEN (R169). -/
def execTaken (handle : Handle) (s : State) : Result := event [] (fun c p => takenLine c handle p) s

/-- A REJECT line (R166, R169). -/
def rejectLine (c : Clock) (h : Handle) (p : Part) : Part :=
  let p := offerExpires c p
  if p.offers h then { closeOffer p with pmu.gateway := .notReady } else p

/-- REJECT (R169). -/
def execReject (handle : Handle) (s : State) : Result := event [] (fun c p => rejectLine c handle p) s

/-! ## Results -/

/-- The in-flight list holds a record of the handle. -/
def Part.inFlight (p : Part) (h : Handle) : Bool := p.pmu.inflight.any (fun f => f.handle == h)

/-- A result on an entry: the position's state, or the broadcast's count (R170). -/
def OutEntry.result (i : Nat) (d : Delivery) (e : OutEntry) : OutEntry :=
  match e.target with
  | .slot _ _ => e.setPosition i d
  | .broadcast cur f x y =>
    if d = .delivered then { e with target := .broadcast cur f (x + 1) y } else { e with target := .broadcast cur f x (y + 1) }

/-- The contact record of a handle. -/
def Part.contactOf (p : Part) (h : Handle) : Option Nat :=
  (p.entry? h.id).bind (fun e => match e.target with
    | .slot _ ps => ((ps.zipIdx 1).find? (fun x => x.2 == h.position)).map (·.1.contact)
    | .broadcast _ _ _ _ => some h.position)

/-- "FAILED INVALID also makes the contact record BARRED", the PMU's own write (R170, R63). -/
def barContact (n : Nat) (p : Part) : Part :=
  ownWrite [.contact n] { p with work.contacts := Table.put p.work.contacts n { p.work.contact n with barred := true } }

/-- A result ends a handover: record removed, contact settled, BARRED for INVALID, and the entry's state follows (R170). -/
def endHandover (c : Clock) (h : Handle) (d : Delivery) (p : Part) : Part :=
  let q := { p with pmu.inflight := p.pmu.inflight.filter (fun f => f.handle != h) }
  let q := onEntry h.id (OutEntry.result h.position d) q
  let q := match d, q.contactOf h with
    | .failed (.gateway .invalid), some n => barContact n q
    | _, _ => q
  follow c h.id q

/-- A result line: in flight, or of the open offer "as TAKEN, then the result", or discarded (R169, R170). -/
def resultLine (c : Clock) (h : Handle) (d : Delivery) (p : Part) : Part :=
  let p := lineArrives c p
  if p.inFlight h then endHandover c h d p
  else if p.offers h then endHandover c h d (takeUp c h (closeOffer p))
  else p

/-- DELIVERED (R170). -/
def execDelivered (handle : Handle) (s : State) : Result := event [] (fun c p => resultLine c handle .delivered p) s

/-- FAILED (R170). -/
def execFailed (handle : Handle) (reason : GatewayReason) (ws : List Bool) (s : State) : Result :=
  event ws (fun c p => resultLine c handle (.failed (.gateway reason)) p) s

/-- "When 600 crystal seconds pass after a record's TAKEN with no result" (R170). -/
def resultTimesOut (c : Clock) (h : Handle) (p : Part) : Part :=
  if p.pmu.inflight.any (fun f => f.handle == h && decide (f.takenAt + Config.resultWait ≤ c.crystal)) then
    endHandover c h (.failed .timeout) p
  else p

/-- RESULT_TIMEOUT (R170). -/
def execResultTimeout (handle : Handle) (s : State) : Result := event [] (fun c p => resultTimesOut c handle p) s

/-! ## RECV -/

/-- A RECV line: the GATEWAY flag while DORMANT, the parse, and the end of a GATEWAY service (R150, R197, R198). -/
def recvLine (c : Clock) (number message : Text) (p : Part) : Part :=
  let p := lineArrives c p
  let p := if p.hl.activity = .dormant then setFlag c .gateway p else p
  let p := parseText c number message p
  if p.hl.service = some .gateway then serviceEnds c p else p

/-- RECV (R150). -/
def execRecv (number message : Text) (ws : List Bool) (s : State) : Result :=
  event ws (fun c p => recvLine c number message p) s

/-! ## SEND and WITHDRAW -/

/-- The fields of SEND are in range (R174, step 2). -/
def sendInRange (t : SendTarget) (s : Source) : Bool :=
  (match t with
    | .pupil r => pupilInRange r
    | .all => true
    | .years l => l.all (fun y => decide (7 ≤ y) && decide (y ≤ 13)) && noRepeat l)
  && (match s with
    | .template n => decide (n ≤ 31)
    | .host _ => true)

/-- A source that is not malformed: a host text holds 1..140 characters (R174, step 1). -/
def sourceFormed : Source → Bool
  | .template _ => true
  | .host l => decide (1 ≤ l.length) && decide (l.length ≤ 140)

/-- The source is there to send: a template that is not EMPTY (R174, step 3). -/
def sourceFound (img : Image) : Source → Bool
  | .template t => (img.template t).isSome
  | .host _ => true

/-- The target of a GENERAL entry; none for a pupil that is not ENROLLED (R174). -/
def sendTarget (img : Image) : SendTarget → Option Target
  | .pupil r => (img.enrolledPupil r).map (fun x => .slot x.1 (waitingPositions x.2.contacts))
  | .all => some (.broadcast 0 .all 0 0)
  | .years l => some (.broadcast 0 (.years l) 0 0)

/-- The GENERAL entry of a SEND (R160, R174). -/
def generalRequest (c : Clock) (t : Target) (s : Source) : EntryRequest :=
  { kind := .general, target := t, reg := none, source := s, time := c.second?, minutes := none, level := none, settle := 0 }

/-- SEND (R174). -/
def sendRequest (c : Clock) (t : SendTarget) (s : Source) (p : Part) : Part × Reply :=
  if !sourceFormed s then refuse .malformed p
  else if !sendInRange t s then refuse .range p
  else match sendTarget p.work t with
    | none => refuse .notFound p
    | some x =>
      if !sourceFound p.work s then refuse .notFound p
      else match create c (generalRequest c x s) p with
        | (q, .taken id) => (q, ok [nat id])
        | (q, .held) => (q, err .full)
        | (q, .refused) => (q, err .full)

/-- SEND (R174). -/
def execSend (sfx : Bool) (target : SendTarget) (source : Source) (s : State) : Result :=
  request sfx [] (fun c p => sendRequest c target source p) s

/-- The words of the entry states (R161). -/
def outStateWord : OutState → String
  | .waiting => "WAITING" | .ready => "READY" | .sending => "SENDING" | .closing => "CLOSING"

/-- The state of an entry, or GONE when it has left (R175). -/
def stateOrGone (id : Nat) (p : Part) : String :=
  match p.entry? id with
  | none => "GONE"
  | some e => outStateWord (p.pmu.entryState e)

/-- WITHDRAW (R175). -/
def withdrawRequest (c : Clock) (id : Nat) (p : Part) : Part × Reply :=
  if id < 1 ∨ 65535 < id then refuse .range p
  else match p.entry? id with
    | none => refuse .notFound p
    | some e =>
      let q := (withdrawEntry c e p).1
      (q, ok [.word (stateOrGone id q), nat (p.pmu.handedCount e)])

/-- WITHDRAW (R175). -/
def execWithdraw (sfx : Bool) (id : Nat) (s : State) : Result := request sfx [] (fun c p => withdrawRequest c id p) s

/-! ## OUTBOX GET -/

/-- The words of the gateway states (R166). -/
def gatewayWord : GatewayState → String
  | .unknown => "UNKNOWN" | .ready => "READY" | .notReady => "NOT_READY" | .silent => "SILENT"

/-- The words of the classes (R160). -/
def classWord : OutClass → String
  | .alert => "ALERT" | .absence => "ABSENCE" | .late => "LATE" | .escalation => "ESCALATION" | .general => "GENERAL"

/-- The words of the kinds (R160). -/
def outWord : OutKind → String
  | .alert => "ALERT" | .absence => "ABSENCE" | .correction => "CORRECTION" | .late => "LATE" | .escalation => "ESCALATION"
  | .general => "GENERAL" | .confirm => "CONFIRM"

/-- The words of the gateway's reasons (R165). -/
def reasonWord : GatewayReason → String
  | .invalid => "INVALID" | .refused => "REFUSED" | .noAnswer => "NOANSWER" | .expired => "EXPIRED"

/-- A delivery state, with the reason of a FAILED one (R161, R175). -/
def deliveryFields : Delivery → List Field
  | .waiting => [.word "WAITING"]
  | .inFlight => [.word "IN_FLIGHT"]
  | .delivered => [.word "DELIVERED"]
  | .failed (.gateway r) => [.word "FAILED", .word (reasonWord r)]
  | .failed .barred => [.word "FAILED", .word "BARRED"]
  | .failed .empty => [.word "FAILED", .word "EMPTY"]
  | .failed .timeout => [.word "FAILED", .word "TIMEOUT"]
  | .cancelled => [.word "CANCELLED"]

/-- The number of positions that a test picks. -/
def countPositions (ps : List Position) (f : Delivery → Bool) : Field := nat (ps.filter (fun x => f x.state)).length

/-- The number of contacts in each delivery state, or a broadcast's cursor and counts (R175). -/
def targetCounts : Target → List Field
  | .slot _ ps => [countPositions ps (· == .waiting), countPositions ps (· == .inFlight), countPositions ps (· == .delivered),
      countPositions ps Delivery.isFailed, countPositions ps (· == .cancelled)]
  | .broadcast cur _ d f => [nat cur, nat d, nat f]

/-- A slot, or BROADCAST. -/
def slotOrBroadcast (e : OutEntry) : Field :=
  match e.slot? with
  | none => .word "BROADCAST"
  | some n => nat n

/-- The line of an entry (R175). -/
def outboxLine (m : Messages) (e : OutEntry) : List Field :=
  [nat e.id, .word (classWord e.kind.cls), .word (outWord e.kind), slotOrBroadcast e, orDash (fun x => .word (regWord x)) e.reg]
    ++ stampFields e.created ++ stampFields e.eligible ++ [.word (outStateWord (m.entryState e))] ++ targetCounts e.target

/-- The crystal seconds until the pace interval has passed (R175, log 26). -/
def untilPace (c : Clock) (p : Part) : Nat :=
  (p.pmu.lastSend.map (fun t => secondsUntil c (t + p.work.gateway.pace * Config.sixteenths))).getD 0

/-- The line of the gateway (R175). -/
def dispatchLine (c : Clock) (p : Part) : List Field :=
  [.word (gatewayWord p.pmu.gateway), nat p.pmu.inflight.length, orNone (fun o : Offer => .handle o.handle) p.pmu.offer,
   nat (untilPace c p)]

/-- The lines of one entry: its positions, or a broadcast's in-flight records, each by its handle (R175, log 76). -/
def entryLines (m : Messages) (e : OutEntry) : List (List Field) :=
  match e.target with
  | .slot _ ps => (ps.zipIdx 1).map (fun x => [nat x.2, nat x.1.contact] ++ deliveryFields x.1.state)
  | .broadcast _ _ _ _ => (m.flights e.id).map (fun f => [.handle f.handle])

/-- The reply of OUTBOX GET; with an id, n of OK n counts the lines given (R175, log 85). -/
def outboxReply (id : Option Nat) (c : Clock) (p : Part) : Reply :=
  match id with
  | none => listed (dispatchLine c p :: p.pmu.outbox.map (outboxLine p.pmu)) p.pmu.outbox.length
  | some k => match p.entry? k with
    | none => err .notFound
    | some e => counted (entryLines p.pmu e)

/-- OUTBOX_GET (R175). -/
def execOutboxGet (sfx : Bool) (id : Option Nat) (s : State) : Result := query sfx (outboxReply id) s

/-! ## Gateway settings -/

/-- The settings given, when they are in range (R176). -/
def readSettings (pace : Nat) (a b : MinuteField) (settle band : Nat) : Option Settings :=
  match minuteOf a, minuteOf b with
  | some x, some y =>
    if 1 ≤ pace ∧ pace ≤ 60 ∧ x < y ∧ settle ≤ 30 ∧ 1 ≤ band ∧ band ≤ 60 then some ⟨pace, x, y, settle, band⟩ else none
  | _, _ => none

/-- GATEWAY SET (R176). -/
def gatewaySetRequest (g : Option Settings) (p : Part) : Part × Reply :=
  match g with
  | none => refuse .range p
  | some g => storedOk [.gateway] (fun img => { img with gateway := g }) p

/-- GATEWAY_SET (R176). -/
def execGatewaySet (sfx : Bool) (pace : Nat) (winStart winEnd : MinuteField) (settle band : Nat) (ws : List Bool) (s : State) :
    Result :=
  request sfx ws (fun _ p => gatewaySetRequest (readSettings pace winStart winEnd settle band) p) s

/-- GATEWAY_GET (R176). -/
def execGatewayGet (sfx : Bool) (s : State) : Result :=
  query sfx (fun _ p =>
    let g := p.work.gateway
    ok [nat g.pace, .hm g.winStart, .hm g.winEnd, nat g.settle, nat g.band, .word (gatewayWord p.pmu.gateway)]) s

end Sys2Proof.Machine
end

