-- ==== Sys2Proof/Machine/HostText.lean ====
section
/-!
DEFINITION. The characters of host lines: the check suffix, the splitting of a line into fields, and the reading of
fields (R188, R189).
-/

namespace Sys2Proof.Machine

/-! ## CRC-16 -/

/-- One bit of the CRC: polynomial 1021H (R189). -/
def crcBit (c : Crc) : Crc := if c.getMsbD 0 then (c <<< 1) ^^^ 0x1021 else c <<< 1

/-- One character, most significant bit first (R189). -/
def crcChar (c : Crc) (ch : Chr) : Crc :=
  crcBit (crcBit (crcBit (crcBit (crcBit (crcBit (crcBit (crcBit (c ^^^ (ch.setWidth 16 <<< 8)))))))))

/-- The CRC-16 of a line: initial value FFFFH, no final inversion (R189). -/
def crc16 (l : Text) : Crc := l.foldl crcChar 0xFFFF

/-- The value of a hexadecimal digit, upper or lower case. -/
def hexValue (ch : Chr) : Option Nat :=
  if isDigit ch then some (ch.toNat - 48)
  else if 65 ≤ ch.toNat ∧ ch.toNat ≤ 70 then some (ch.toNat - 55)
  else if 97 ≤ ch.toNat ∧ ch.toNat ≤ 102 then some (ch.toNat - 87)
  else none

/-- A hexadecimal digit's character, upper case. -/
def hexChar (n : Nat) : Chr := BitVec.ofNat 8 (if n < 10 then 48 + n else 55 + n)

/-- A check suffix: a space, a tilde and four hexadecimal digits (R189), upper case (log 78). -/
def suffixOf (c : Crc) : Text :=
  let n := c.toNat
  [space, 126, hexChar (n / 4096 % 16), hexChar (n / 256 % 16), hexChar (n / 16 % 16), hexChar (n % 16)]

/-- The value that four hexadecimal digits spell. -/
def readHex4 : Text → Option Nat
  | [a, b, c, d] => match hexValue a, hexValue b, hexValue c, hexValue d with
    | some a, some b, some c, some d => some (a * 4096 + b * 256 + c * 16 + d)
    | _, _, _, _ => none
  | _ => none

/-- What the end of a line says of its check (R189). -/
inductive Checked where
  | bare (l : Text)
  | good (l : Text)
  | wrong
  | malformed
  deriving DecidableEq, Repr

/-- The line before a check suffix and the value of the suffix; none for a line that does not end in one (R189). -/
def cutSuffix (l : Text) : Option (Text × Nat) :=
  match l.reverse with
  | h :: g :: f :: e :: tilde :: gap :: front =>
    if tilde = 126 ∧ gap = space then (readHex4 [e, f, g, h]).map (fun v => (front.reverse, v)) else none
  | _ => none

/-- Some tilde stands outside quotes; one inside quotes is text (R188, log 44). -/
def strayTilde : Bool → Text → Bool
  | _, [] => false
  | quoted, ch :: t => (!quoted && ch == 126) || strayTilde (quoted != (ch == 34)) t

/-- The check rule: a suffix right or wrong, "a tilde not followed by exactly four hex digits at the end of the line", or no
suffix (R189). -/
def checkLine (l : Text) : Checked :=
  match cutSuffix l with
  | some (front, v) => if (crc16 front).toNat = v then .good front else .wrong
  | none => if strayTilde false l then .malformed else .bare l

/-! ## Fields -/

/-- A field of a line: bare, or in double quotes (R188). -/
inductive Token where
  | bare (w : Text)
  | quoted (l : Text)
  deriving DecidableEq, Repr

/-- How the cutting of a line stands: at the start of a field, inside a bare one, inside quotes, or just after them. The
characters of the field are held last first. -/
inductive CutState where
  | start
  | inBare (w : Text)
  | inQuotes (l : Text)
  | closed (l : Text)
  deriving DecidableEq, Repr

/-- Cuts a line into fields at single spaces; none for a space at either end, two together, or a quote out of place
(R188). -/
def cutFields : CutState → Text → Option (List Token)
  | .start, [] => none
  | .inBare w, [] => some [.bare w.reverse]
  | .inQuotes _, [] => none
  | .closed l, [] => some [.quoted l.reverse]
  | .start, ch :: t => if ch = space then none else if ch = 34 then cutFields (.inQuotes []) t else cutFields (.inBare [ch]) t
  | .inBare w, ch :: t =>
    if ch = space then (cutFields .start t).map (.bare w.reverse :: ·)
    else if ch = 34 then none
    else cutFields (.inBare (ch :: w)) t
  | .inQuotes l, ch :: t => if ch = 34 then cutFields (.closed l) t else cutFields (.inQuotes (ch :: l)) t
  | .closed l, ch :: t => if ch = space then (cutFields .start t).map (.quoted l.reverse :: ·) else none

/-- A bare field. -/
def Token.word : Token → Option Text
  | .bare w => some w
  | .quoted _ => none

/-- A quoted field. -/
def Token.quote : Token → Option Text
  | .bare _ => none
  | .quoted l => some l

/-- The field is a word of the vocabulary, written exactly (R188). -/
def Token.says (t : Token) (w : String) : Bool := t == .bare (text w)

/-! ## Reading fields -/

/-- A decimal number. -/
def readNat (w : Text) : Option Nat := if allDigits w then some (digitsValue w) else none

/-- A decimal number with a leading minus or plus, or with no sign (R188, log 86). -/
def readInt (w : Text) : Option Int :=
  match w with
  | 45 :: t => (readNat t).map (fun n => -(n : Int))
  | 43 :: t => (readNat t).map (fun n => (n : Int))
  | _ => (readNat w).map (fun n => (n : Int))

/-- A number of exactly k digits. -/
def readFixed (k : Nat) (w : Text) : Option Nat := if w.length = k then readNat w else none

/-- A date yyyy-mm-dd (R188). -/
def readDate (w : Text) : Option DateField :=
  match splitOn (· == 45) w with
  | [a, b, c] => do
    let y ← readFixed 4 a
    let m ← readFixed 2 b
    let d ← readFixed 2 c
    some ⟨y, m, d⟩
  | _ => none

/-- A time hh:mm (R188). -/
def readMinute (w : Text) : Option MinuteField :=
  match splitOn (· == 58) w with
  | [a, b] => do
    let h ← readFixed 2 a
    let m ← readFixed 2 b
    some ⟨h, m⟩
  | _ => none

/-- A time hh:mm or hh:mm:ss (R188). -/
def readTime (w : Text) : Option TimeField :=
  match splitOn (· == 58) w with
  | [a, b] => do
    let h ← readFixed 2 a
    let m ← readFixed 2 b
    some ⟨h, m, none⟩
  | [a, b, c] => do
    let h ← readFixed 2 a
    let m ← readFixed 2 b
    let s ← readFixed 2 c
    some ⟨h, m, some s⟩
  | _ => none

/-- The elements of a list, "comma-separated without spaces"; an empty element makes the list malformed (R188). -/
def readList (w : Text) : Option (List Text) :=
  let l := splitOn (· == 44) w
  if l.any List.isEmpty then none else some l

/-- Every element read by a reader. -/
def readAll {α : Type} (f : Text → Option α) (l : List Text) : Option (List α) :=
  match l with
  | [] => some []
  | w :: t => do
    let a ← f w
    let as ← readAll f t
    some (a :: as)

/-- A list of numbers. -/
def readNats (w : Text) : Option (List Nat) := (readList w).bind (readAll readNat)

/-- The element of a vocabulary that a word spells. -/
def lookup {α : Type} (l : List (String × α)) (w : Text) : Option α := (l.find? (fun e => text e.1 == w)).map (·.2)

/-- A list over a vocabulary: a word outside it reads as none; the single word NONE is the empty list. -/
def readWords {α : Type} (l : List (String × α)) (w : Text) : Option (List (Option α)) :=
  if w = text "NONE" then some [] else (readList w).map (fun ws => ws.map (lookup l))

/-- YES or NO; any other word is malformed (log 67). -/
def readFlag (w : Text) : Option Bool := lookup [("YES", true), ("NO", false)] w

/-- A pupil: a slot, or P and a pupil number (R58). -/
def readPupil (w : Text) : Option PupilRef :=
  match w with
  | 80 :: t => (readNat t).map .number
  | _ => (readNat w).map .slot

/-- A pupil of a list, kept as written (R83). -/
def readWritten (w : Text) : Option WrittenPupil := (readPupil w).map (fun r => ⟨r, w⟩)

/-- A period: a number, AM or PM (R81). -/
def readPeriodRef (w : Text) : Option PeriodRef :=
  match lookup [("AM", Reg.am), ("PM", Reg.pm)] w with
  | some r => some (.reg r)
  | none => (readNat w).map .number

end Sys2Proof.Machine
end

