-- ==== Sys2Proof/Machine/HostGrammar.lean ====
section
/-!
DEFINITION. The grammar of request lines: the request names of the manual, the fields of each, and what a line spells
(R188 to R190). A command read from a line carries no store answers; those are the store's, not the line's (log 9).
-/

namespace Sys2Proof.Machine

/-! ## Vocabularies -/

/-- The days of the week (R8). -/
def dayNames : List (String × Weekday) :=
  [("MON", .mon), ("TUE", .tue), ("WED", .wed), ("THU", .thu), ("FRI", .fri), ("SAT", .sat), ("SUN", .sun)]

/-- The period kinds (R20). -/
def periodNames : List (String × PeriodKind) :=
  [("REGISTRATION", .registration), ("LESSON", .lesson), ("BREAK", .recess), ("LUNCH", .lunch)]

/-- The bell tones (R39). -/
def bellNames : List (String × BellTone) := [("WARN", .warn), ("RING", .ring), ("END", .endBell), ("TEST", .test)]

/-- The map entries (R61). -/
def mapNames : List (String × MapEntry) :=
  [("ABSENCE", .absence), ("CORRECTION", .correction), ("LATE", .late), ("ESCALATION1", .escalation1),
   ("ESCALATION2", .escalation2), ("ESCALATION3", .escalation3), ("CONFIRM", .confirm), ("ALERT", .alert)]

/-- The channels (R69). -/
def channelNames : List (String × Channel) := [("TEXT", .sms), ("VOICE", .voice)]

/-- The mark values (R73). -/
def valueNames : List (String × MarkValue) :=
  [("UNSET", .unset), ("PRESENT", .present), ("LATE", .late), ("LATE_EXCUSED", .lateExcused), ("ABSENT", .absent),
   ("ABSENT_EXCUSED", .absentExcused), ("OFFSITE", .offsite), ("NOT_REQUIRED", .notRequired)]

/-- The sources of a host mark (R81). -/
def sourceNames : List (String × HostSource) := [("TEACHER", .teacher), ("OFFICE", .office)]

/-- The excuse kinds (R148). -/
def excuseNames : List (String × ExcuseKind) := [("ABSENCE_DAY", .absenceDay), ("LATE_ALLOWANCE", .lateAllowance)]

/-- The alert kinds (R181). -/
def alertNames : List (String × AlertKind) := [("LOCKDOWN", .lockdown), ("EVACUATE", .evacuate)]

/-- The wake enables (R197). -/
def enableNames : List (String × WakeEnable) := [("GATEWAY", .gateway), ("CALL", .call), ("TIME", .time)]

/-- The registration periods (R136). -/
def regNames : List (String × Reg) := [("AM", .am), ("PM", .pm)]

/-! ## Fields of one request -/

/-- A reader of the fields that follow a request's name. -/
abbrev FieldReader := List Token → Option Instr

/-- No fields. -/
def noFields (i : Instr) : FieldReader
  | [] => some i
  | _ => none

/-- One number. -/
def oneNat (f : Nat → Instr) : FieldReader
  | [.bare a] => (readNat a).map f
  | _ => none

/-- One pupil. -/
def onePupil (f : PupilRef → Instr) : FieldReader
  | [.bare a] => (readPupil a).map f
  | _ => none

/-- TIME SET date time [FORCE] (R3). -/
def readTimeSet (sfx : Bool) : FieldReader
  | [.bare d, .bare t] => do some (.timeSet sfx (← readDate d) (← readTime t) false [])
  | [.bare d, .bare t, .bare w] =>
    if w = text "FORCE" then do some (.timeSet sfx (← readDate d) (← readTime t) true []) else none
  | _ => none

/-- CAL SET days (R8). -/
def readCalSet (sfx : Bool) : FieldReader
  | [.bare w] => (readWords dayNames w).map (fun l => .calSet sfx l [])
  | _ => none

/-- EXCEPT PUT date NO_SCHOOL, or date SCHOOL plan (R9). -/
def readExceptPut (sfx : Bool) : FieldReader
  | [.bare d, .bare w] => if w = text "NO_SCHOOL" then (readDate d).map (fun x => .exceptPut sfx x .noSchool []) else none
  | [.bare d, .bare w, .bare n] =>
    if w = text "SCHOOL" then do some (.exceptPut sfx (← readDate d) (.school (← readNat n)) []) else none
  | _ => none

/-- ROTA SET length plans index (R10). -/
def readRotaSet (sfx : Bool) : FieldReader
  | [.bare a, .bare l, .bare i] => do some (.rotaSet sfx (← readNat a) (← readNats l) (← readNat i) [])
  | _ => none

/-- A period description kind/start/length/warn/ring (R21). -/
def readPeriodField (w : Text) : Option PeriodField :=
  match splitOn (· == 47) w with
  | [k, s, l, a, b] => do some ⟨lookup periodNames k, ← readMinute s, ← readNat l, ← readFlag a, ← readFlag b⟩
  | _ => none

/-- PLAN PUT p name lead lag grace close periods; no line spells an empty period list (R21, log 53). -/
def readPlanPut (sfx : Bool) : FieldReader
  | [.bare n, .quoted name, .bare a, .bare b, .bare g, .bare c, .bare l] => do
    some (.planPut sfx (← readNat n) name (← readNat a) (← readNat b) (← readNat g) (← readNat c)
      (← (readList l).bind (readAll readPeriodField)) [])
  | _ => none

/-- ZONE PUT z present offset lead address warn ring end (R23). -/
def readZonePut (sfx : Bool) : FieldReader
  | [.bare z, .bare p, .bare o, .bare l, .bare a, .bare w, .bare r, .bare e] => do
    some (.zonePut sfx (← readNat z) (← readFlag p) (← readInt o) (← readNat l) (← readNat a) (← readNat w) (← readNat r)
      (← readNat e) [])
  | _ => none

/-- RING zones tone duration (R39). -/
def readRing (sfx : Bool) : FieldReader
  | [.bare z, .bare t, .bare d] => do
    let zones ← if z = text "ALL" then some ZonesField.all else (readNats z).map .list
    some (.ring sfx zones (lookup bellNames t) (← readNat d))
  | _ => none

/-- TEMPLATE PUT t text (R60). -/
def readTemplatePut (sfx : Bool) : FieldReader
  | [.bare t, .quoted l] => (readNat t).map (fun n => .templatePut sfx n l [])
  | _ => none

/-- SCHOOL SET text (R60). -/
def readSchoolSet (sfx : Bool) : FieldReader
  | [.quoted l] => some (.schoolSet sfx l [])
  | _ => none

/-- TEMPLATE MAP entry t (R61). -/
def readTemplateMap (sfx : Bool) : FieldReader
  | [.bare e, .bare t] => (readNat t).map (fun n => .templateMap sfx (lookup mapNames e) n [])
  | _ => none

/-- PUPIL PUT slot number name year zone contacts late priority; no line spells an empty contact list, and late and
priority are YES or NO (R64, log 53, log 67). -/
def readPupilPut (sfx : Bool) : FieldReader
  | [.bare s, .bare n, .quoted name, .bare y, .bare z, .bare c, .bare l, .bare p] => do
    some (.pupilPut sfx (← readNat s) (← readNat n) name (← readNat y) (← readNat z) (← readNats c) (← readFlag l)
      (← readFlag p) [])
  | _ => none

/-- CONTACT PUT c number channel (R69). -/
def readContactPut (sfx : Bool) : FieldReader
  | [.bare c, .bare n, .bare ch] => (readNat c).map (fun i => .contactPut sfx i n (lookup channelNames ch) [])
  | _ => none

/-- SCORE SET t1 t2 t3 h d (R70). -/
def readScoreSet (sfx : Bool) : FieldReader
  | [.bare a, .bare b, .bare c, .bare h, .bare d] => do
    some (.scoreSet sfx (← readNat a) (← readNat b) (← readNat c) (← readNat h) (← readNat d) [])
  | _ => none

/-- MARK SET pupil period value [minutes] reason source (R81). -/
def readMarkSet (sfx : Bool) : FieldReader
  | [.bare p, .bare k, .bare v, .bare r, .bare s] => do
    some (.markSet sfx (← readPupil p) (← readPeriodRef k) (lookup valueNames v) none (← readNat r) (lookup sourceNames s))
  | [.bare p, .bare k, .bare v, .bare m, .bare r, .bare s] => do
    some (.markSet sfx (← readPupil p) (← readPeriodRef k) (lookup valueNames v) (some (← readNat m)) (← readNat r)
      (lookup sourceNames s))
  | _ => none

/-- MARK BATCH period value [minutes] reason source pupils (R83). -/
def readMarkBatch (sfx : Bool) : FieldReader
  | [.bare k, .bare v, .bare r, .bare s, .bare l] => do
    some (.markBatch sfx (← readPeriodRef k) (lookup valueNames v) none (← readNat r) (lookup sourceNames s)
      (← (readList l).bind (readAll readWritten)))
  | [.bare k, .bare v, .bare m, .bare r, .bare s, .bare l] => do
    some (.markBatch sfx (← readPeriodRef k) (lookup valueNames v) (some (← readNat m)) (← readNat r) (lookup sourceNames s)
      (← (readList l).bind (readAll readWritten)))
  | _ => none

/-- EXPORT first count dir periods block end; a dir or end outside its words reads as none (R89). -/
def readExport (sfx : Bool) : FieldReader
  | [.bare f, .bare c, .bare d, .bare l, .bare b, .bare e] => do
    let periods ← if l = text "ALL" then some PeriodsField.all else ((readList l).bind (readAll readPeriodRef)).map .list
    some (.exportStart sfx (← readNat f) (← readNat c) (lookup [("UP", Direction.up), ("DOWN", Direction.down)] d) periods
      (← readNat b) (lookup [("ONCE", EndMode.once), ("WRAP", EndMode.wrap)] e))
  | _ => none

/-- A station address; any other word reads as none (R99). -/
def readStations (w : Text) : Option (List (Option Nat)) :=
  if w = text "NONE" then some [] else (readList w).map (fun l => l.map readNat)

/-- STATION SET list (R99). -/
def readStationSet (sfx : Bool) : FieldReader
  | [.bare w] => (readStations w).map (fun l => .stationSet sfx l [])
  | _ => none

/-- SWEEP NOW r (R136). -/
def readSweepNow (sfx : Bool) : FieldReader
  | [.bare w] => some (.sweepNow sfx (lookup regNames w))
  | _ => none

/-- EXCUSE PUT pupil kind [allowance] date (R148). -/
def readExcusePut (sfx : Bool) : FieldReader
  | [.bare p, .bare k, .bare d] => do some (.excusePut sfx (← readPupil p) (lookup excuseNames k) none (← readDate d) [])
  | [.bare p, .bare k, .bare a, .bare d] => do
    some (.excusePut sfx (← readPupil p) (lookup excuseNames k) (some (← readNat a)) (← readDate d) [])
  | _ => none

/-- EXCUSE DEL pupil kind date (R149). -/
def readExcuseDel (sfx : Bool) : FieldReader
  | [.bare p, .bare k, .bare d] => do some (.excuseDel sfx (← readPupil p) (lookup excuseNames k) (← readDate d) [])
  | _ => none

/-- EXCUSE LIST [pupil] (R149). -/
def readExcuseList (sfx : Bool) : FieldReader
  | [] => some (.excuseList sfx none)
  | [.bare p] => (readPupil p).map (fun x => .excuseList sfx (some x))
  | _ => none

/-- The source of a SEND: TEMPLATE t, or a quoted text (R174). -/
def readSource : List Token → Option Source
  | [.quoted l] => some (.host l)
  | [.bare w, .bare t] => if w = text "TEMPLATE" then (readNat t).map .template else none
  | _ => none

/-- SEND target source (R174). -/
def readSend (sfx : Bool) : FieldReader
  | .bare w :: rest =>
    if w = text "ALL" then (readSource rest).map (fun s => .send sfx .all s)
    else if w = text "YEARS" then
      match rest with
      | .bare l :: rest => do some (.send sfx (.years (← readNats l)) (← readSource rest))
      | _ => none
    else do some (.send sfx (.pupil (← readPupil w)) (← readSource rest))
  | _ => none

/-- OUTBOX GET [id] (R175). -/
def readOutboxGet (sfx : Bool) : FieldReader
  | [] => some (.outboxGet sfx none)
  | [.bare n] => (readNat n).map (fun k => .outboxGet sfx (some k))
  | _ => none

/-- GATEWAY SET pace start end settle band (R176). -/
def readGatewaySet (sfx : Bool) : FieldReader
  | [.bare p, .bare a, .bare b, .bare s, .bare d] => do
    some (.gatewaySet sfx (← readNat p) (← readMinute a) (← readMinute b) (← readNat s) (← readNat d) [])
  | _ => none

/-- A message field: TEMPLATE t, or DEFAULT (R181). -/
def readMessage : List Token → Option AlertMessage
  | [.bare w] => if w = text "DEFAULT" then some .default else none
  | [.bare w, .bare t] => if w = text "TEMPLATE" then (readNat t).map .template else none
  | _ => none

/-- ALERT START kind [message] (R181). -/
def readAlertStart (sfx : Bool) : FieldReader
  | [.bare k] => some (.alertStart sfx (lookup alertNames k) none)
  | .bare k :: rest => (readMessage rest).map (fun m => .alertStart sfx (lookup alertNames k) (some m))
  | _ => none

/-- ROLL GET [zone] (R186). -/
def readRollGet (sfx : Bool) : FieldReader
  | [] => some (.rollGet sfx none)
  | [.bare z] => (readNat z).map (fun n => .rollGet sfx (some n))
  | _ => none

/-- WAKE SET enables time (R197). -/
def readWakeSet (sfx : Bool) : FieldReader
  | [.bare e, .bare t] => do
    let enables ← readWords enableNames e
    let time ← if t = text "NONE" then some none else (readMinute t).map some
    some (.wakeSet sfx enables time)
  | _ => none

/-! ## The request names -/

/-- A request: its leading words and the reader of its fields. -/
abbrev RequestForm := String × (Bool → FieldReader)

/-- The requests of files 01 to 04. -/
def formsA : List RequestForm :=
  [("TIME SET", readTimeSet), ("TIME GET", fun x => noFields (.timeGet x)), ("CAL SET", readCalSet),
   ("CAL GET", fun x => noFields (.calGet x)), ("EXCEPT PUT", readExceptPut),
   ("EXCEPT DEL", fun x t => match t with
      | [.bare d] => (readDate d).map (fun y => .exceptDel x y [])
      | _ => none),
   ("ROTA SET", readRotaSet), ("DAY GET", fun x => noFields (.dayGet x)), ("PLAN PUT", readPlanPut),
   ("PLAN GET", fun x => oneNat (.planGet x)), ("ZONE PUT", readZonePut), ("ZONE GET", fun x => oneNat (.zoneGet x)),
   ("ZONE ARM", fun x => oneNat (.zoneArm x)), ("TIMES GET", fun x => oneNat (.timesGet x)),
   ("DELAY", fun x => oneNat (fun d => .delay x d [])), ("EARLY CLOSE", fun x => oneNat (fun d => .earlyClose x d [])),
   ("PLAN TODAY", fun x => oneNat (fun d => .planToday x d [])), ("RINGS GET", fun x => noFields (.ringsGet x)),
   ("RING", readRing), ("ZBUS GET", fun x => noFields (.zbusGet x)), ("TEMPLATE PUT", readTemplatePut),
   ("TEMPLATE GET", fun x => oneNat (.templateGet x)), ("TEMPLATE MAP GET", fun x => noFields (.templateMapGet x)),
   ("TEMPLATE MAP", readTemplateMap), ("SCHOOL SET", readSchoolSet), ("SCHOOL GET", fun x => noFields (.schoolGet x)),
   ("STORE GET", fun x => noFields (.storeGet x)), ("PUPIL PUT", readPupilPut),
   ("PUPIL REMOVE", fun x => onePupil (fun r => .pupilRemove x r [])), ("PUPIL GET", fun x => onePupil (.pupilGet x)),
   ("ROSTER GET", fun x => noFields (.rosterGet x)), ("CONTACT PUT", readContactPut),
   ("CONTACT GET", fun x => oneNat (.contactGet x)), ("SCORE SET", readScoreSet), ("SCORE GET", fun x => noFields (.scoreGet x))]

/-- The requests of files 05 to 12. -/
def formsB : List RequestForm :=
  [("MARK SET", readMarkSet), ("MARK BATCH", readMarkBatch), ("MARK GET", fun x => onePupil (.markGet x)),
   ("TALLY YESTERDAY", fun x => noFields (.tallyYesterday x)), ("TALLY", fun x => noFields (.tally x)),
   ("EXPORT NEXT", fun x => noFields (.exportNext x)), ("EXPORT", readExport),
   ("REGISTER RESUME", fun x => noFields (.registerResume x)), ("STATION SET", readStationSet),
   ("STATION GET", fun x => noFields (.stationGet x)), ("SWEEP NOW", readSweepNow),
   ("SWEEP GET", fun x => noFields (.sweepGet x)), ("EXCUSE PUT", readExcusePut), ("EXCUSE DEL", readExcuseDel),
   ("EXCUSE LIST", readExcuseList), ("SEND", readSend), ("WITHDRAW", fun x => oneNat (.withdraw x)),
   ("OUTBOX GET", readOutboxGet), ("GATEWAY SET", readGatewaySet), ("GATEWAY GET", fun x => noFields (.gatewayGet x)),
   ("ALERT START", readAlertStart), ("ALERT NOTIFY", fun x t => (readMessage t).map (.alertNotify x)),
   ("ALERT GET", fun x => noFields (.alertGet x)), ("ALERT END", fun x => noFields (.alertEnd x [])),
   ("ROLL MARK", fun x => onePupil (.rollMark x)), ("ROLL GET", readRollGet), ("NOTICE", fun x => noFields (.notice x)),
   ("STATUS", fun x => noFields (.status x)), ("VERSION", fun x => noFields (.version x)),
   ("RESTART", fun x => noFields (.restart x)), ("DORMANT", fun x => noFields (.dormant x)), ("WAKE SET", readWakeSet),
   ("WAKE GET", fun x => noFields (.wakeGet x))]

/-- Every request of the manual, longer names before the names they begin with. -/
def requestForms : List RequestForm := formsA ++ formsB

/-- The fields of a line after some leading words; none when the line does not begin with them. -/
def afterWords : List Text → List Token → Option (List Token)
  | [], t => some t
  | _ :: _, [] => none
  | w :: ws, t :: ts => if t = .bare w then afterWords ws ts else none

/-- The request whose name a line begins with, and the line's fields after it (R190). -/
def findForm : List RequestForm → List Token → Option ((Bool → FieldReader) × List Token)
  | [], _ => none
  | f :: fs, t =>
    match afterWords (splitOn (· == space) (text f.1)) t with
    | some rest => some (f.2, rest)
    | none => findForm fs t

/-! ## What a line spells -/

/-- What a completed line is (R188 to R190). -/
inductive Line where
  | empty
  | rejected
  | syntaxError (sfx : Bool)
  | checkError
  | unknown (sfx : Bool)
  | request (i : Instr)
  deriving DecidableEq, Repr

/-- The fields of a line that passed the check rule (R188, R190). -/
def readFields (sfx : Bool) (l : Text) : Line :=
  match cutFields .start l with
  | none => .syntaxError sfx
  | some t =>
    match findForm requestForms t with
    | none => .unknown sfx
    | some (f, rest) =>
      match f sfx rest with
      | none => .syntaxError sfx
      | some i => .request i

/-- A CR immediately before the LF is dropped (R188). -/
def dropReturn (l : Text) : Text := if l.getLast? = some 13 then l.dropLast else l

/-- A character in 20H..7EH (R188). -/
def printable (ch : Chr) : Bool := decide (32 ≤ ch.toNat) && decide (ch.toNat ≤ 126)

/-- What a line is, from its characters before the LF (R188 to R190). -/
def readLine (l : Text) : Line :=
  let l := dropReturn l
  if l.isEmpty then .empty
  else if Config.lineMax < l.length ∨ !l.all printable then .rejected
  else match checkLine l with
    | .bare l => readFields false l
    | .good l => readFields true l
    | .wrong => .checkError
    | .malformed => .syntaxError false

end Sys2Proof.Machine
end

