-- ==== Sys2Proof/Machine/Restart.lean ====
section
/-!
DEFINITION. Loading the store, the cold start and the warm restart: COLD_START, WARM_RESTART (R41, R55, R72, R96, R98,
R114, R178, R194).
-/

namespace Sys2Proof.Machine

/-! ## Loading -/

/-- A record of the store (R62); the excuse list's records are its entries, while the exception list and the template map are
one record each (log 70). -/
def isRecord (img : Image) : StoreItem → Bool
  | .plan n => decide (n ≤ 7)
  | .zone n => decide (n ≤ 5)
  | .template n => decide (n ≤ 31)
  | .slot n => decide (n < Config.slotCount)
  | .contact n => decide (n < Config.contactCount)
  | .excuse i => decide (i < img.excuses.length)
  | .excuses => false
  | .weekdays => true | .exceptions => true | .rota => true | .stations => true | .templateMap => true | .school => true
  | .gateway => true | .policy => true

/-- The records whose check fails, each once (log 12). -/
def badRecords (img : Image) (bad : List StoreItem) : List StoreItem := (bad.filter (isRecord img)).eraseDups

/-- The excuse records whose check holds. -/
def goodExcuses (bad : List StoreItem) (l : List Excuse) : List Excuse :=
  (l.zipIdx.filter (fun x => !bad.contains (.excuse x.2))).map (·.1)

/-- A record whose check fails takes its store default, in the working copy and in the store (R72). -/
def defaulted (bad : List StoreItem) (img : Image) : Image :=
  let kept := goodExcuses bad img.excuses
  { (bad.filter (fun i => match i with
      | .excuse _ => false
      | _ => true)).foldl (copyItem Image.fresh) img with excuses := kept }

/-- "A loaded slot whose pupil number repeats that of a lower-numbered non-vacant slot is loaded VACANT" (R72). -/
def dropRepeated : List Nat → Table Slot → Table Slot
  | _, [] => []
  | seen, e :: t =>
    if seen.contains e.2.number then dropRepeated seen t else e :: dropRepeated (e.2.number :: seen) t

/-- Excuse records whose slot is ENROLLED (R158). -/
def enrolledExcuses (slots : Table Slot) (l : List Excuse) : List Excuse :=
  l.filter (fun e => ((Table.get? slots e.slot).map (fun x => x.state == .enrolled)).getD false)

/-- Of records that share a slot, kind and date, the later is kept (R158). -/
def lastOfEach : List Excuse → List Excuse
  | [] => []
  | e :: t => if t.any (Excuse.isFor e.slot e.kind e.date) then lastOfEach t else e :: lastOfEach t

/-- A map entry that names an EMPTY template takes its default template (R72). -/
def mendMap (img : Image) : Vector Nat 8 :=
  Vector.ofFn (fun i => if (img.template (img.templateMap.getD i.val i.val)).isNone then i.val else img.templateMap.getD i.val i.val)

/-- LEFT slots become VACANT, at a load with no OPEN day (R72). -/
def vacateLeft (keepLeft : Bool) (l : Table Slot) : Table Slot :=
  if keepLeft then l else l.filter (fun e => e.2.state != .left)

/-- What a load gives: the store, the working copy, and the count of records loaded as default (R72). -/
structure Loaded where
  store : Image
  work : Image
  defaulted : Nat
  deriving DecidableEq, Repr

/-- The working copy made of a store whose records hold their checks (R72, R158). -/
def workOf (keepLeft : Bool) (img : Image) : Image :=
  let slots := dropRepeated [] img.slots
  { img with templateMap := mendMap img, slots := vacateLeft keepLeft slots
             excuses := lastOfEach (enrolledExcuses slots img.excuses) }

/-- The load (R72, log 11): failed records and LEFT slots are written back to the store, which always takes them (log 54). -/
def load (bad : List StoreItem) (keepLeft : Bool) (store : Image) : Loaded :=
  let bad := badRecords store bad
  let img := defaulted bad store
  let work := workOf keepLeft img
  { store := { img with slots := vacateLeft keepLeft img.slots }, work := work
    defaulted := bad.length + (img.slots.length - (dropRepeated [] img.slots).length) + (img.excuses.length - work.excuses.length) }

/-! ## Cold start -/

/-- COLD_START (R194): "the part starts without clock, register, queues or outbox; configuration and stored lists are loaded
from the store". -/
def execColdStart (bad : List StoreItem) (s : State) : Result :=
  let l := load bad false s.part.store
  .next { s with clock := Clock.reset, part := Part.reset l.store l.work l.defaulted }

/-! ## Warm restart -/

/-- The loaded store in its place, with notice START (R63, R72, R194; log 31). -/
def reload (c : Clock) (bad : List StoreItem) (p : Part) : Part :=
  let l := load bad p.isOpen p.store
  raise c (.start true l.defaulted)
    { p with work := l.work, store := l.store, roster.unsaved := [], roster.defaulted := l.defaulted }

/-- The Host Link's items (R194). -/
def restartLink (c : Clock) (p : Part) : Part :=
  let q := setActivity c (if p.isOpen then .active else .quiet) p
  { q with hl.lineBuffer := [], hl.reply := none, hl.busy := none, hl.service := none, hl.restartAsked := false
           hl.dormantAsked := .none }

/-- A station after a warm restart (R98, R114). -/
def Station.restarted (isPresent : Bool) (s : Station) : Station :=
  if isPresent then
    if s.state = .absent then Station.fresh else { Station.fresh with state := s.state, condition := s.condition }
  else Station.absent

/-- The desk after a warm restart: queue, slips, tags and acknowledgements gone, first arrivals kept (R98, R110, R114); an open
exchange and the rest of its cycle end with no miss (log 73). -/
def restartDesk (p : Part) : Part :=
  { p with desk.stations := Vector.ofFn (fun i => Station.restarted (p.work.stations.contains i.val) (p.station i.val))
           desk.queue := [], desk.toPoll := [], desk.asking := none }

/-- A zone's state after a warm restart (R22). -/
def restartedZone (p : Part) (z : Nat) : Option ZoneState :=
  if (p.work.zone z).present then
    match p.zoneState z with
    | some s => some s
    | none => some p.newZoneState
  else none

/-- Zone states and fault memories after a warm restart (R22, R43). -/
def restartZones (p : Part) : Part :=
  { p with bells.zoneStates := Vector.ofFn (fun i => restartedZone p i.val)
           zbus.faults := Vector.ofFn (fun i =>
             if (p.work.zone i.val).present then p.zbus.faults.getD i.val FaultMemory.fresh else FaultMemory.fresh) }

/-- Today's copy taken afresh: delay total, early-close time and open reading kept (R41); its times cancel a period or bring it
back (R26, log 61). -/
def copyAfresh (img : Image) (r : DayRecord) (t : Today) : Today :=
  makeToday img (r.plan.getD 0) t.delayTotal t.early t.openReading

/-- The register without the slots that are VACANT now; its counts follow (R78, R79, log 29). No slot joins it (log 66). -/
def Register.keepSlots (l : Table Slot) (r : Register) : Register :=
  let kept := r.slots.filter (fun e => (Table.get? l e.1).isSome)
  { r with slots := kept, tallies := countTallies r.periods kept
           onSite := (kept.filter (fun e => e.2.presence == .onSite)).length }

/-- The register and the sweeps of an OPEN day: kept, or rebuilt when the marked periods differ (R96, R133). A kept register
makes no records for a loaded slot that it lacks (log 66). -/
def restartRegister (c : Clock) (before after : Today) (p : Part) : Part :=
  let p := p.onRegister (fun g => { g.keepSlots p.work.slots with exporting := none })
  if (p.register?.map (·.periods)) = some after.plan.marked then
    sweepsAfterTimes c after (cancellationWrites c before after p)
  else makeSweeps c after (registerAfterRestart c after p)

/-- The open day over a warm restart (R41, R96). -/
def restartDay (c : Clock) (p : Part) : Part :=
  match p.openDay, p.bells.today with
  | some r, some t =>
    let after := copyAfresh p.work r t
    restartRegister c t after (rebuildRing c after p)
  | _, _ => p

/-- The warm restart as one event (R194). -/
def restartPart (c : Clock) (bad : List StoreItem) (p : Part) : Part :=
  let p := restartZones (restartDesk (restartLink c (reload c bad p)))
  let p := restartDay c { p with ac.pinCount := 0, pmu.offer := none }
  dayTests c (busAtRestart c p)

/-- The warm restart may take place: asked for, and both replies sent (R194, log 32). -/
def Part.restartReady (p : Part) : Bool := p.hl.restartAsked && p.hl.reply.isNone && p.hl.busy.isNone

/-- WARM_RESTART (R194). -/
def execWarmRestart (bad : List StoreItem) (ws : List Bool) (s : State) : Result :=
  event ws (fun c p => if p.restartReady then restartPart c bad p else p) s

end Sys2Proof.Machine
end

