-- ==== Sys2Proof/Machine/HostRequests.lean ====
section
/-!
DEFINITION. Chapter 12: broken lines, the end of a reply, the notice list, the device requests, DORMANT and the wake flags
(R188 to R198).
-/

namespace Sys2Proof.Machine

/-! ## Broken lines -/

/-- The line passes the table of R188: not empty, not too long, no character outside 20H..7EH. -/
def passesLine (l : Text) : Bool := match readLine l with
  | .empty => false
  | .rejected => false
  | _ => true

/-- The line carried a check suffix, whatever its value (R189). -/
def carriesSuffix (l : Text) : Bool := passesLine l && match checkLine (dropReturn l) with
  | .good _ => true
  | .wrong => true
  | _ => false

/-- An answer to a line that is no request: BUSY while a reply is in progress (R191). -/
def answerOrBusy (e : ErrCode) (p : Part) : Part := if p.hl.reply.isSome then holdBusy false p else answer (err e) p

/-- A line that R188 or R189 rejects; every other line is no matter of this command (log 1). -/
def brokenLine (c : Clock) (l : Text) (p : Part) : Part :=
  match readLine l with
  | .rejected => answerOrBusy .malformed p
  | .syntaxError sfx => requestPart c sfx (fun _ q => refuse .malformed q) p
  | .checkError => requestPart c true (fun _ q => refuse .check q) p
  | _ => p

/-- HOST_LINE_INVALID (R188, R189). -/
def execHostLineInvalid (line : Text) (s : State) : Result := event [] (fun c p => brokenLine c line p) s

/-- A line whose leading words name no request (R190). -/
def unknownLine (c : Clock) (l : Text) (p : Part) : Part :=
  match readLine l with
  | .unknown sfx => requestPart c sfx (fun _ q => refuse .unknown q) p
  | _ => p

/-- UNKNOWN_REQUEST (R190). -/
def execUnknownRequest (line : Text) (s : State) : Result := event [] (fun c p => unknownLine c line p) s

/-- Any line completed while a reply is in progress; an empty one is ignored (R188, R191). -/
def busyLine (c : Clock) (l : Text) (p : Part) : Part :=
  if p.hl.reply.isNone ∨ (dropReturn l).isEmpty then p
  else holdBusy (carriesSuffix l) (if passesLine l then requestLine c p else p)

/-- BUSY_LINE (R191). -/
def execBusyLine (line : Text) (s : State) : Result := event [] (fun c p => busyLine c line p) s

/-! ## The end of a reply -/

/-- A DORMANT reply that has been sent (R196). -/
def DormantAsk.sent : DormantAsk → DormantAsk
  | .none => .none
  | .replying => .due
  | .due => .due

/-- The reply in progress has been sent; a held BUSY answer goes next (R191). -/
def replyEnds (p : Part) : Part :=
  let q := { p with hl.reply := none, hl.dormantAsked := p.hl.dormantAsked.sent }
  match q.hl.busy with
  | none => q
  | some sfx => answer { err .busy with sfx := sfx } { q with hl.busy := none }

/-- REPLY_END (R190, R191). -/
def execReplyEnd (s : State) : Result := event [] (fun _ p => if p.hl.reply.isSome then replyEnds p else p) s

/-! ## NOTICE -/

/-- The words of the wake flags (R197). -/
def flagWord : WakeFlag → String
  | .host => "HOST" | .gateway => "GATEWAY" | .call => "CALL" | .time => "TIME" | .alert => "ALERT"

/-- The slot, or BROADCAST (R161, R163, R164). -/
def slotOrAll : Option Nat → Field
  | none => .word "BROADCAST"
  | some n => nat n

/-- The words of the entry kinds (R102). -/
def entryWord : EntryKind → String
  | .signIn => "SIGN_IN"
  | .signOut => "SIGN_OUT"

/-- The words of the refusal causes (R150). -/
def causeWord : TextCause → String
  | .noClock => "NO_CLOCK" | .noContact => "NO_CONTACT" | .noPupil => "NO_PUPIL" | .noKeyword => "NO_KEYWORD"
  | .noName => "NO_NAME" | .noDay => "NO_DAY"

/-- The words of the codes of STATION_FAULT (R101). -/
def stationTroubleWord : StationTrouble → String
  | .noReply => "NO_REPLY"
  | .code f => troubleWord f

/-- Kind of a notice (R192). -/
def noticeKind : NoticeBody → String
  | .start _ _ => "START" | .clockStep _ _ => "CLOCK_STEP" | .dayOpen _ _ => "DAY_OPEN" | .dayClose _ => "DAY_CLOSE"
  | .bellMissedBuild _ => "BELL_MISSED" | .bellMissedStep _ _ _ => "BELL_MISSED" | .bellMissedStale _ _ _ _ => "BELL_MISSED"
  | .zoneFault _ _ _ => "ZONE_FAULT" | .zoneOk _ _ => "ZONE_OK" | .stationFault _ _ => "STATION_FAULT"
  | .stationOk _ => "STATION_OK" | .unknownPupil _ _ _ _ => "UNKNOWN_PUPIL" | .unauthSignout _ _ _ _ => "UNAUTH_SIGNOUT"
  | .sweepDone _ _ _ _ _ _ => "SWEEP_DONE" | .unregisteredOnsite _ _ _ _ => "UNREGISTERED_ONSITE"
  | .undelivered _ _ _ _ => "UNDELIVERED" | .displaced _ _ _ _ => "DISPLACED" | .outboxFull _ _ _ => "OUTBOX_FULL"
  | .staleWithdrawn _ => "STALE_WITHDRAWN" | .parentText _ _ _ => "PARENT_TEXT" | .excuseFull _ _ => "EXCUSE_FULL"
  | .excuseOnsite _ _ _ => "EXCUSE_ONSITE" | .levelDown _ _ _ _ _ => "LEVEL_DOWN" | .doorCall _ _ => "DOOR_CALL"
  | .alertPin _ => "ALERT_PIN" | .wake _ => "WAKE"

/-- Fields of a notice, in the order its raising rule names them (R192, log 14). -/
def noticeFields : NoticeBody → List Field
  | .start warm n => [.word (if warm then "WARM" else "COLD"), nat n]
  | .clockStep a b => stampFields (some a) ++ stampFields (some b)
  | .dayOpen d n => [.date d, nat n]
  | .dayClose d => [.date d]
  | .bellMissedBuild n => [nat n]
  | .bellMissedStep n a b => [nat n, .hms a, .hms b]
  | .bellMissedStale z n tone t => [nat z, periodOrManual n, .word (bellWord tone), .hms t]
  | .zoneFault z a k => [nat z, nat a, .word (codeWord k)]
  | .zoneOk z a => [nat z, nat a]
  | .stationFault n k => [nat n, .word (stationTroubleWord k)]
  | .stationOk n => [nat n]
  | .unknownPupil n number kind t => [nat n, .plain number, .word (entryWord kind), .hms t]
  | .unauthSignout slot number n t => [nat slot, nat number, nat n, .hms t]
  | .sweepDone r a b e t u => [.word (regWord r), nat a, nat b, nat e, orNone .hms t, orNone .hms u]
  | .unregisteredOnsite slot number r x => [nat slot, nat number, .word (regWord r), .word (presenceWord x)]
  | .undelivered id k slot n => [nat id, .word (outWord k), slotOrAll slot, nat n]
  | .displaced id k slot new => [nat id, .word (outWord k), slotOrAll slot, .word (outWord new)]
  | .outboxFull k slot r => [.word (outWord k), slotOrAll slot] ++ r.toList.map (fun x => .word (regWord x))
  | .staleWithdrawn n => [nat n]
  | .parentText number l cause => [.plain number, .quoted l, .word (causeWord cause)]
  | .excuseFull number l => [.plain number, .quoted l]
  | .excuseOnsite slot number t => [nat slot, nat number, .hms t]
  | .levelDown slot number a b q => [nat slot, nat number, nat a, nat b, nat q]
  | .doorCall n t => [nat n, orNone .hms t]
  | .alertPin a => [.word (alertWord a)]
  | .wake f => [.word (flagWord f)]

/-- The word OVERFLOW when the flag is YES (R192). -/
def overflowFields (set : Bool) : List Field := if set then [.word "OVERFLOW"] else []

/-- NOTICE: the oldest notice leaves the list, and the overflow flag becomes NO (R192). -/
def noticeRequest (p : Part) : Part × Reply :=
  match p.hl.notices with
  | [] => ({ p with hl.overflow := false }, ok (overflowFields p.hl.overflow ++ [noneWord]))
  | n :: rest =>
    ({ p with hl.notices := rest, hl.overflow := false },
     ok (overflowFields p.hl.overflow ++ .word (noticeKind n.body) :: (stampFields n.raised ++ noticeFields n.body)))

/-- NOTICE (R192). -/
def execNotice (sfx : Bool) (s : State) : Result := request sfx [] (fun _ p => noticeRequest p) s

/-! ## STATUS and VERSION -/

/-- The words of the activity states (R195). -/
def activityWord : Activity → String
  | .active => "ACTIVE" | .quiet => "QUIET" | .dormant => "DORMANT"

/-- SERVICE GATEWAY or SERVICE CALL when a service wake stands (R193). -/
def serviceFields : Option Service → List Field
  | none => []
  | some .gateway => [.word "SERVICE", .word "GATEWAY"]
  | some (.call _) => [.word "SERVICE", .word "CALL"]

/-- The five wake flags in the order of R197. -/
def flagOrder : List WakeFlag := [.host, .gateway, .call, .time, .alert]

/-- The wake flags that are set, or NONE (R193, R197). -/
def flagsField (f : Flags) : Field := wordsOrNone ((flagOrder.filter f.get).map flagWord)

/-- The reply of STATUS, its items in the order of R193. -/
def statusReply (c : Clock) (p : Part) : Reply :=
  ok (.word (activityWord p.hl.activity) :: (serviceFields p.hl.service ++
    [.word (clockWord c.state), orNone (fun r => .word (phaseWord r.phase)) p.day, .word (alertWord p.alertState),
     orNone (fun g => .word (registerWord g.state)) p.reg.register, nat p.hl.notices.length, yesNo p.hl.overflow,
     flagsField p.hl.flags, nat p.desk.queue.length, nat p.pmu.outbox.length, nat p.pmu.inflight.length,
     .word (gatewayWord p.pmu.gateway), .word (busWord p.zbus.bus), nat p.roster.unsaved.length]))

/-- STATUS (R193). -/
def execStatus (sfx : Bool) (s : State) : Result := query sfx statusReply s

/-- The reply of VERSION: "Parts described by this manual answer B1" (R193). -/
def versionReply : Reply := ok [.word "CODARA", .word "FOC-24", .word "B1"]

/-- VERSION (R193). -/
def execVersion (sfx : Bool) (s : State) : Result := query sfx (fun _ _ => versionReply) s

/-! ## RESTART and DORMANT -/

/-- RESTART (R194). -/
def execRestart (sfx : Bool) (s : State) : Result :=
  request sfx [] (fun _ p => ({ p with hl.restartAsked := true }, ok [.word "RESTART"])) s

/-- ERR STATE with its qualifier (R196). -/
def wakePending : Reply := { err .state with closing := [.word "ERR", .word "STATE", .word "WAKEPENDING"] }

/-- DORMANT, decided in the order of R196. -/
def dormantRequest (p : Part) : Part × Reply :=
  if !p.noAlert then refuse .state p
  else if p.isOpen then refuse .state p
  else match wakingFlag p with
    | some _ => (p, wakePending)
    | none => ({ p with hl.dormantAsked := .replying }, ok [.word "DORMANT"])

/-- DORMANT (R196). -/
def execDormant (sfx : Bool) (s : State) : Result := request sfx [] (fun _ p => dormantRequest p) s

/-- DORMANT is entered from QUIET; a flag that was set meanwhile "wakes the part at once when the flag is one that wakes"
(R195, R196). -/
def enterDormant (c : Clock) (p : Part) : Part :=
  let q := { p with hl.dormantAsked := .none }
  if q.hl.activity = .quiet then
    match wakingFlag q with
    | none => setActivity c .dormant q
    | some f => wakeBy c f (setActivity c .dormant q)
  else q

/-- DORMANT_ENTERED (R196). -/
def execDormantEntered (s : State) : Result :=
  event [] (fun c p => if p.hl.dormantAsked = .due then enterDormant c p else p) s

/-! ## The service wait -/

/-- The service wait of a CALL service has ended (R198). -/
def serviceWaitOver (c : Clock) (p : Part) : Bool :=
  match p.hl.service with
  | some (.call since) => decide (since + Config.serviceWait ≤ c.crystal)
  | _ => false

/-- SERVICE_WAIT_END (R198). -/
def execServiceWaitEnd (s : State) : Result := event [] (fun c p => if serviceWaitOver c p then serviceEnds c p else p) s

/-! ## WAKE -/

/-- Every word of a list known and named once; none for "a word not in that list, or a word named twice" (R197). -/
def namedOnce : List (Option WakeEnable) → Option (List WakeEnable)
  | [] => some []
  | none :: _ => none
  | some e :: rest => match namedOnce rest with
    | none => none
    | some l => if e ∈ l then none else some (e :: l)

/-- The enables that a list names (R197). -/
def enablesOf (l : List WakeEnable) : Enables := { gateway := .gateway ∈ l, call := .call ∈ l, time := .time ∈ l }

/-- A wake time as written: none when it is outside 00:00..23:59, some none for NONE (R197). -/
def wakeTimeOf : Option MinuteField → Option (Option Nat)
  | none => some none
  | some m => (minuteOf m).map some

/-- WAKE SET (R197). -/
def wakeSetRequest (enables : List (Option WakeEnable)) (time : Option MinuteField) (p : Part) : Part × Reply :=
  match namedOnce enables with
  | none => refuse .malformed p
  | some l => match wakeTimeOf time with
    | none => refuse .range p
    | some t => ({ p with hl.enables := enablesOf l, hl.wakeTime := t }, ok [])

/-- WAKE_SET (R197). -/
def execWakeSet (sfx : Bool) (enables : List (Option WakeEnable)) (time : Option MinuteField) (s : State) : Result :=
  request sfx [] (fun _ p => wakeSetRequest enables time p) s

/-- The enables that are on, or NONE (R197). -/
def enablesField (e : Enables) : Field :=
  wordsOrNone ((if e.gateway then ["GATEWAY"] else []) ++ (if e.call then ["CALL"] else []) ++ (if e.time then ["TIME"] else []))

/-- WAKE GET: the flags set, the enables and the wake time; every flag is cleared (R197). -/
def wakeGetRequest (p : Part) : Part × Reply :=
  ({ p with hl.flags := Flags.clear }, ok [flagsField p.hl.flags, enablesField p.hl.enables, orNone .hm p.hl.wakeTime])

/-- WAKE_GET (R197). -/
def execWakeGet (sfx : Bool) (s : State) : Result := request sfx [] (fun _ p => wakeGetRequest p) s

end Sys2Proof.Machine
end

