-- ==== Sys2Proof/Machine/Dispatch.lean ====
section
/-!
DEFINITION. The effect of a command on everything but the queue: one arm per row of the table.
-/

namespace Sys2Proof.Machine

/-- The effect of a command. -/
def exec (i : Instr) (s : State) : Host.Outcome State Fault Refusal :=
  match i with
  | .coldStart bad => Sys2Proof.Machine.execColdStart bad s
  | .clockTick ws => Sys2Proof.Machine.execClockTick ws s
  | .timeSet sfx date time force ws => Sys2Proof.Machine.execTimeSet sfx date time force ws s
  | .timeGet sfx => Sys2Proof.Machine.execTimeGet sfx s
  | .calSet sfx days ws => Sys2Proof.Machine.execCalSet sfx days ws s
  | .calGet sfx => Sys2Proof.Machine.execCalGet sfx s
  | .exceptPut sfx date kind ws => Sys2Proof.Machine.execExceptPut sfx date kind ws s
  | .exceptDel sfx date ws => Sys2Proof.Machine.execExceptDel sfx date ws s
  | .rotaSet sfx length plans index ws => Sys2Proof.Machine.execRotaSet sfx length plans index ws s
  | .dayGet sfx => Sys2Proof.Machine.execDayGet sfx s
  | .planPut sfx p name lead lag grace close periods ws => Sys2Proof.Machine.execPlanPut sfx p name lead lag grace close periods ws s
  | .planGet sfx p => Sys2Proof.Machine.execPlanGet sfx p s
  | .zonePut sfx z present offset lead address warnDur ringDur endDur ws => Sys2Proof.Machine.execZonePut sfx z present offset lead address warnDur ringDur endDur ws s
  | .zoneGet sfx z => Sys2Proof.Machine.execZoneGet sfx z s
  | .zoneArm sfx z => Sys2Proof.Machine.execZoneArm sfx z s
  | .timesGet sfx z => Sys2Proof.Machine.execTimesGet sfx z s
  | .delay sfx d ws => Sys2Proof.Machine.execDelay sfx d ws s
  | .earlyClose sfx x ws => Sys2Proof.Machine.execEarlyClose sfx x ws s
  | .planToday sfx p ws => Sys2Proof.Machine.execPlanToday sfx p ws s
  | .ring sfx zones tone duration => Sys2Proof.Machine.execRing sfx zones tone duration s
  | .ringsGet sfx => Sys2Proof.Machine.execRingsGet sfx s
  | .broadcast => Sys2Proof.Machine.execBroadcast s
  | .soundingEnd => Sys2Proof.Machine.execSoundingEnd s
  | .statusPoll => Sys2Proof.Machine.execStatusPoll s
  | .statusAnswer address answer => Sys2Proof.Machine.execStatusAnswer address answer s
  | .statusWindowEnd => Sys2Proof.Machine.execStatusWindowEnd s
  | .staleWaitEnd entry => Sys2Proof.Machine.execStaleWaitEnd entry s
  | .zbusGet sfx => Sys2Proof.Machine.execZbusGet sfx s
  | .templatePut sfx t message ws => Sys2Proof.Machine.execTemplatePut sfx t message ws s
  | .templateGet sfx t => Sys2Proof.Machine.execTemplateGet sfx t s
  | .schoolSet sfx name ws => Sys2Proof.Machine.execSchoolSet sfx name ws s
  | .schoolGet sfx => Sys2Proof.Machine.execSchoolGet sfx s
  | .templateMap sfx entry t ws => Sys2Proof.Machine.execTemplateMap sfx entry t ws s
  | .templateMapGet sfx => Sys2Proof.Machine.execTemplateMapGet sfx s
  | .storeGet sfx => Sys2Proof.Machine.execStoreGet sfx s
  | .pupilPut sfx slot number name year zone contacts late priority ws => Sys2Proof.Machine.execPupilPut sfx slot number name year zone contacts late priority ws s
  | .pupilRemove sfx pupil ws => Sys2Proof.Machine.execPupilRemove sfx pupil ws s
  | .pupilGet sfx pupil => Sys2Proof.Machine.execPupilGet sfx pupil s
  | .rosterGet sfx => Sys2Proof.Machine.execRosterGet sfx s
  | .contactPut sfx n number channel ws => Sys2Proof.Machine.execContactPut sfx n number channel ws s
  | .contactGet sfx n => Sys2Proof.Machine.execContactGet sfx n s
  | .scoreSet sfx t1 t2 t3 h d ws => Sys2Proof.Machine.execScoreSet sfx t1 t2 t3 h d ws s
  | .scoreGet sfx => Sys2Proof.Machine.execScoreGet sfx s
  | .markSet sfx pupil period value minutes reason source => Sys2Proof.Machine.execMarkSet sfx pupil period value minutes reason source s
  | .markBatch sfx period value minutes reason source pupils => Sys2Proof.Machine.execMarkBatch sfx period value minutes reason source pupils s
  | .markGet sfx pupil => Sys2Proof.Machine.execMarkGet sfx pupil s
  | .tally sfx => Sys2Proof.Machine.execTally sfx s
  | .tallyYesterday sfx => Sys2Proof.Machine.execTallyYesterday sfx s
  | .exportStart sfx first count dir periods block endMode => Sys2Proof.Machine.execExportStart sfx first count dir periods block endMode s
  | .exportNext sfx => Sys2Proof.Machine.execExportNext sfx s
  | .registerResume sfx => Sys2Proof.Machine.execRegisterResume sfx s
  | .stationSet sfx list ws => Sys2Proof.Machine.execStationSet sfx list ws s
  | .stationGet sfx => Sys2Proof.Machine.execStationGet sfx s
  | .pollCycle => Sys2Proof.Machine.execPollCycle s
  | .stationPollMiss => Sys2Proof.Machine.execStationPollMiss s
  | .stationIdle station => Sys2Proof.Machine.execStationIdle station s
  | .stationEntry station tag kind number reason => Sys2Proof.Machine.execStationEntry station tag kind number reason s
  | .stationCall station => Sys2Proof.Machine.execStationCall station s
  | .stationFaultAnswer station code => Sys2Proof.Machine.execStationFaultAnswer station code s
  | .processEntry ws => Sys2Proof.Machine.execProcessEntry ws s
  | .sweepStep r ws => Sys2Proof.Machine.execSweepStep r ws s
  | .sweepNow sfx r => Sys2Proof.Machine.execSweepNow sfx r s
  | .sweepGet sfx => Sys2Proof.Machine.execSweepGet sfx s
  | .excusePut sfx pupil kind allowance date ws => Sys2Proof.Machine.execExcusePut sfx pupil kind allowance date ws s
  | .excuseDel sfx pupil kind date ws => Sys2Proof.Machine.execExcuseDel sfx pupil kind date ws s
  | .excuseList sfx pupil => Sys2Proof.Machine.execExcuseList sfx pupil s
  | .recv number message ws => Sys2Proof.Machine.execRecv number message ws s
  | .handover => Sys2Proof.Machine.execHandover s
  | .taken handle => Sys2Proof.Machine.execTaken handle s
  | .reject handle => Sys2Proof.Machine.execReject handle s
  | .delivered handle => Sys2Proof.Machine.execDelivered handle s
  | .failed handle reason ws => Sys2Proof.Machine.execFailed handle reason ws s
  | .gatewayReady => Sys2Proof.Machine.execGatewayReady s
  | .gatewayLineInvalid line => Sys2Proof.Machine.execGatewayLineInvalid line s
  | .offerWindowEnd => Sys2Proof.Machine.execOfferWindowEnd s
  | .silentEnd => Sys2Proof.Machine.execSilentEnd s
  | .resultTimeout handle => Sys2Proof.Machine.execResultTimeout handle s
  | .send sfx target source => Sys2Proof.Machine.execSend sfx target source s
  | .withdraw sfx id => Sys2Proof.Machine.execWithdraw sfx id s
  | .outboxGet sfx id => Sys2Proof.Machine.execOutboxGet sfx id s
  | .gatewaySet sfx pace winStart winEnd settle band ws => Sys2Proof.Machine.execGatewaySet sfx pace winStart winEnd settle band ws s
  | .gatewayGet sfx => Sys2Proof.Machine.execGatewayGet sfx s
  | .alertPinSample low => Sys2Proof.Machine.execAlertPinSample low s
  | .alertStart sfx kind message => Sys2Proof.Machine.execAlertStart sfx kind message s
  | .alertNotify sfx message => Sys2Proof.Machine.execAlertNotify sfx message s
  | .alertGet sfx => Sys2Proof.Machine.execAlertGet sfx s
  | .rollMark sfx pupil => Sys2Proof.Machine.execRollMark sfx pupil s
  | .rollGet sfx zone => Sys2Proof.Machine.execRollGet sfx zone s
  | .alertEnd sfx ws => Sys2Proof.Machine.execAlertEnd sfx ws s
  | .hostLineInvalid line => Sys2Proof.Machine.execHostLineInvalid line s
  | .unknownRequest line => Sys2Proof.Machine.execUnknownRequest line s
  | .busyLine line => Sys2Proof.Machine.execBusyLine line s
  | .replyEnd => Sys2Proof.Machine.execReplyEnd s
  | .notice sfx => Sys2Proof.Machine.execNotice sfx s
  | .status sfx => Sys2Proof.Machine.execStatus sfx s
  | .version sfx => Sys2Proof.Machine.execVersion sfx s
  | .restart sfx => Sys2Proof.Machine.execRestart sfx s
  | .warmRestart bad ws => Sys2Proof.Machine.execWarmRestart bad ws s
  | .dormant sfx => Sys2Proof.Machine.execDormant sfx s
  | .dormantEntered => Sys2Proof.Machine.execDormantEntered s
  | .serviceWaitEnd => Sys2Proof.Machine.execServiceWaitEnd s
  | .wakeSet sfx enables time => Sys2Proof.Machine.execWakeSet sfx enables time s
  | .wakeGet sfx => Sys2Proof.Machine.execWakeGet sfx s

end Sys2Proof.Machine
end

