-- ==== Sys2Proof/Machine/Step.lean ====
section
/-!
DEFINITION. One step: the command at the front of the queue (log 3).
-/

namespace Sys2Proof.Machine

/-- Takes the command at the front of the queue; with an empty queue the part idles (log 3). -/
def step (s : State) : Host.Outcome State Fault Refusal :=
  match s.pending with
  | [] => .next s
  | i :: rest => exec i { s with pending := rest }

/-- The state with the command that a word spells at the front of its queue. -/
def State.withFetchWord (s : State) (nbits w : Nat) : State :=
  match decodeTableWord nbits w with
  | none => s
  | some i => { s with pending := i :: s.pending }

end Sys2Proof.Machine
end

