-- ==== Sys2Proof/Machine/Replies.lean ====
section
/-!
DEFINITION. Replies as characters: fields, data lines, the closing line, and the check suffix of each line
(R188 to R190, log 14).
-/

namespace Sys2Proof.Machine

/-- Words with a separator between them. -/
def joinWith (sep : Text) : List Text → Text
  | [] => []
  | [w] => w
  | w :: ws => w ++ sep ++ joinWith sep ws

/-- A second of day as hh:mm:ss (R188). -/
def hhmmss (s : Nat) : Text := hhmm s ++ [58] ++ twoDigits (s % 60)

/-- A date as yyyy-mm-dd (R188). -/
def dateText (d : Date) : Text :=
  let x := civil d
  twoDigits (x.year / 100) ++ twoDigits x.year ++ [45] ++ twoDigits x.month ++ [45] ++ twoDigits x.day

/-- A number with its sign. -/
def integerText (n : Int) : Text := if n < 0 then 45 :: decimal n.natAbs else decimal n.natAbs

/-- A list, comma-separated without spaces; NONE when it is empty (R188). -/
def listText (l : List Text) : Text := if l.isEmpty then text "NONE" else joinWith [44] l

/-- The characters of a field. -/
def fieldChars : Field → Text
  | .word w => text w
  | .num n => integerText n
  | .date d => dateText d
  | .hms s => hhmmss s
  | .hm m => hhmm (m * 60)
  | .quoted l => [34] ++ l ++ [34]
  | .plain l => l
  | .nums l => listText (l.map decimal)
  | .words l => listText (l.map text)
  | .handle h => decimal h.id ++ [46] ++ decimal h.position

/-- Fields separated by single spaces. -/
def fieldsChars (l : List Field) : Text := joinWith [space] (l.map fieldChars)

/-- A reply line with its suffix, computed "over the characters of the reply line before the space" (R189). -/
def withSuffix (sfx : Bool) (l : Text) : Text := if sfx then l ++ suffixOf (crc16 l) else l

/-- The lines of a reply: data lines begin with an equals sign and a space, the closing line is last (R190). -/
def Reply.lines (r : Reply) : List Text :=
  (r.data.map (fun l => text "= " ++ fieldsChars l) ++ [fieldsChars r.closing]).map (withSuffix r.sfx)

end Sys2Proof.Machine
end

