-- ==== Sys2Proof/Safety.lean ====
section
/-!
DEFINITION. What a claim calls a safe step, a sound clock and a bounded part, and the states that a request and an event
leave: the words in which statements about commands are made.
-/

namespace Sys2Proof.Machine

/-! ## Outcomes -/

/-- The outcome is a next state. -/
def Result.isNext : Result → Bool
  | .next _ => true
  | .fault _ => false
  | .refused _ => false

/-- The next step neither faults nor is refused. -/
def SafeStep (s : State) : Prop := Result.isNext (step s) = true

/-! ## Sound states -/

/-- The ranges of R1: DATE, SECOND, FRACTION and REMAINING SLEW, with no slew while UNSET. -/
structure Clock.Sound (c : Clock) : Prop where
  date : ∀ r, c.reading = some r → r.date < Config.dateCount
  second : ∀ r, c.reading = some r → r.second < Config.daySeconds
  fraction : ∀ r, c.reading = some r → r.fraction < Config.sixteenths
  slew : c.slew.natAbs ≤ Config.slewMax
  unset : c.reading = none → c.slew = 0

/-- The notice list is within its 32 places (R192). -/
def NoticesBounded (p : Part) : Prop := p.hl.notices.length ≤ Config.noticeMax

/-- The open offer as a place taken in flight. -/
def Messages.offerCount (m : Messages) : Nat := if m.offer.isSome then 1 else 0

/-- At most 8 contacts are in flight, and the open offer has a place among them (R165, R167, R169). -/
def InflightBounded (p : Part) : Prop := p.pmu.inflight.length + p.pmu.offerCount ≤ Config.inflightMax

/-- The outbox is within its 512 entries (R159). -/
def OutboxBounded (p : Part) : Prop := p.pmu.outbox.length ≤ Config.outboxMax

/-- Every plan of an image has at most 14 periods (R21). -/
def Image.PlansBounded (img : Image) : Prop := ∀ n, (img.plan n).periods.length ≤ 14

/-- The ring table is within its 192 entries, and what it is built from is within its own places: six zones, and plans of at most
14 periods (R21, R25, R29). -/
structure RingBounded (p : Part) : Prop where
  ring : p.bells.ring.length ≤ Config.ringMax
  zones : ∀ t, p.bells.today = some t → t.zones.length ≤ 6
  plan : ∀ t, p.bells.today = some t → t.plan.periods.length ≤ 14
  work : p.work.PlansBounded
  store : p.store.PlansBounded

/-- The arrival queue is within its 32 entries, and a station has at most 8 entries and slips together (R98, R103). -/
def QueueBounded (p : Part) : Prop := p.desk.queue.length ≤ Config.queueMax ∧ ∀ n, p.stationLoad n ≤ Config.stationShare

/-- The excuse list is within its 256 records, in the working copy and in the store (R146). -/
def ExcusesBounded (p : Part) : Prop :=
  p.work.excuses.length ≤ Config.excuseMax ∧ p.store.excuses.length ≤ Config.excuseMax

/-- The exception list is within its 64 entries, in the working copy and in the store (R7). -/
def ExceptionsBounded (p : Part) : Prop :=
  p.work.exceptions.length ≤ Config.exceptionMax ∧ p.store.exceptions.length ≤ Config.exceptionMax

/-- A zone that neither is ARMED nor remembers ARMED. -/
def Quiet (z : Option ZoneState) : Prop := z ≠ some (.up .armed) ∧ z ≠ some (.faulted .armed)

/-- While an alert stands no zone is ARMED, nor would it return to ARMED (R182). -/
def AlertSilences (p : Part) : Prop := p.ac.alert.isSome → ∀ z, z < 6 → Quiet (p.zoneState z)

/-- Every table by key is in its canonical form. -/
structure TablesCanonical (p : Part) : Prop where
  slots : Table.wf p.work.slots = true
  contacts : Table.wf p.work.contacts = true
  storedSlots : Table.wf p.store.slots = true
  storedContacts : Table.wf p.store.contacts = true
  register : ∀ g, p.reg.register = some g → Table.wf g.slots = true
  arrivals : Table.wf p.desk.firstArrivals = true

/-! ## How a command reaches the part -/

/-- The part is awake and no reply is in progress: a request is acted on as it comes (R190, R191, R198). -/
abbrev Listening (s : State) : Prop := s.part.hl.reply = none ∧ s.part.hl.activity ≠ .dormant

/-- The part as a request finds it: any service wake has ended (R198), nothing is on the lines yet, and the store will answer
the writes with `ws`. -/
def heard (s : State) (ws : List Bool) : Part := { s.part with hl.service := none, out := [], roster.answers := ws }

/-- The state after a request that left the part at `q` and is answered `r`, with a suffix when `sfx`. -/
def replied (s : State) (q : Part) (sfx : Bool) (r : Reply) : State :=
  { s with part := { q with hl.reply := some { r with sfx := sfx }, out := q.out ++ [.hostReply { r with sfx := sfx }]
                            roster.answers := [] } }

/-- The state after a request refused with a code: nothing changes. -/
def refusedWith (s : State) (sfx : Bool) (e : ErrCode) : State := replied s (heard s []) sfx (err e)

/-- The part as an event finds it. -/
def met (s : State) (ws : List Bool) : Part := { s.part with out := [], roster.answers := ws }

/-- The state after an event that left the part at `q`. -/
def left (s : State) (q : Part) : State := { s with part := { q with roster.answers := [] } }

/-- The store reads the command's first write back right. -/
abbrev Kept (ws : List Bool) : Prop := ws.headD true = true

/-- The part after a request's write that the store kept: the working copy changed by `f`, and the items with every unsaved
one written (R62, R63). -/
def written (s : State) (ws : List Bool) (items : List StoreItem) (f : Image → Image) : Part :=
  saved items { heard s ws.tail with work := f s.part.work }

/-- A part woken from DORMANT by a request line: flag HOST, QUIET, notice WAKE, the status poll due and the next poll cycle
250 ms after the current one began (R49, R113, R197, R198; log 18). -/
def wokenByHost (s : State) : State :=
  let q : Part :=
    { s.part with hl.flags.host := true, hl.activity := .quiet, hl.service := none, zbus.pollDue := s.clock.crystal
                  desk.cycleNext := s.part.desk.cycleStart + Config.cycleAwake }
  { s with part := raise s.clock (.wake .host) q }

/-- Whether a command is a request, and whether its line carried a check suffix (R189). -/
def requestSuffix : Instr → Option Bool
  | .timeSet x _ _ _ _ => some x | .timeGet x => some x | .calSet x _ _ => some x | .calGet x => some x
  | .exceptPut x _ _ _ => some x | .exceptDel x _ _ => some x | .rotaSet x _ _ _ _ => some x | .dayGet x => some x
  | .planPut x _ _ _ _ _ _ _ _ => some x | .planGet x _ => some x | .zonePut x _ _ _ _ _ _ _ _ _ => some x
  | .zoneGet x _ => some x | .zoneArm x _ => some x | .timesGet x _ => some x | .delay x _ _ => some x
  | .earlyClose x _ _ => some x | .planToday x _ _ => some x | .ring x _ _ _ => some x | .ringsGet x => some x
  | .zbusGet x => some x | .templatePut x _ _ _ => some x | .templateGet x _ => some x | .schoolSet x _ _ => some x
  | .schoolGet x => some x | .templateMap x _ _ _ => some x | .templateMapGet x => some x | .storeGet x => some x
  | .pupilPut x _ _ _ _ _ _ _ _ _ => some x | .pupilRemove x _ _ => some x | .pupilGet x _ => some x
  | .rosterGet x => some x | .contactPut x _ _ _ _ => some x | .contactGet x _ => some x
  | .scoreSet x _ _ _ _ _ _ => some x | .scoreGet x => some x | .markSet x _ _ _ _ _ _ => some x
  | .markBatch x _ _ _ _ _ _ => some x | .markGet x _ => some x | .tally x => some x | .tallyYesterday x => some x
  | .exportStart x _ _ _ _ _ _ => some x | .exportNext x => some x | .registerResume x => some x
  | .stationSet x _ _ => some x | .stationGet x => some x | .sweepNow x _ => some x | .sweepGet x => some x
  | .excusePut x _ _ _ _ _ => some x | .excuseDel x _ _ _ _ => some x | .excuseList x _ => some x
  | .send x _ _ => some x | .withdraw x _ => some x | .outboxGet x _ => some x | .gatewaySet x _ _ _ _ _ _ => some x
  | .gatewayGet x => some x | .alertStart x _ _ => some x | .alertNotify x _ => some x | .alertGet x => some x
  | .rollMark x _ => some x | .rollGet x _ => some x | .alertEnd x _ => some x | .notice x => some x
  | .status x => some x | .version x => some x | .restart x => some x | .dormant x => some x
  | .wakeSet x _ _ => some x | .wakeGet x => some x
  | _ => none

/-- The request that only reads, and how its reply is made. -/
def queryReply : Instr → Option (Bool × (Clock → Part → Reply))
  | .timeGet x => some (x, fun c _ => timeReply c)
  | .calGet x => some (x, fun _ p => calendarReply p.work)
  | .dayGet x => some (x, dayReply)
  | .planGet x n => some (x, fun _ p => if n ≤ 7 then planReply (p.work.plan n) else err .range)
  | .zoneGet x z => some (x, fun _ p => if z ≤ 5 then zoneReply z p else err .range)
  | .timesGet x z => some (x, fun _ p => timesReply z p)
  | .ringsGet x => some (x, fun _ p => counted (p.bells.ring.map ringLine))
  | .zbusGet x => some (x, zbusReply)
  | .templateGet x t => some (x, fun _ p => templateReply t p)
  | .schoolGet x => some (x, fun _ p => ok [.quoted p.work.school])
  | .templateMapGet x => some (x, fun _ p => counted (mapEntries.map (fun e => [.word (mapWord e), nat (p.work.mapped e)])))
  | .storeGet x => some (x, fun _ p => ok [nat p.roster.unsaved.length, nat p.roster.defaulted])
  | .pupilGet x r => some (x, fun _ p => pupilReply r p)
  | .rosterGet x => some (x, fun _ p => ok [nat (Config.slotCount - p.work.slots.length), nat (p.work.countIn .enrolled),
      nat (p.work.countIn .left), nat (p.work.contacts.filter (fun e => e.2.number.isSome)).length])
  | .contactGet x n => some (x, fun _ p => contactReply n p)
  | .scoreGet x => some (x, fun _ p => let y := p.work.policy; ok [nat y.t1, nat y.t2, nat y.t3, nat y.h, nat y.d])
  | .markGet x r => some (x, fun _ p => markReply r p)
  | .tally x => some (x, fun _ p => tallyReply p)
  | .tallyYesterday x => some (x, fun _ p => yesterdayReply p)
  | .stationGet x => some (x, fun _ p => listed (queueLine p.desk.queue :: stationNumbers.map (stationLine p)) 4)
  | .sweepGet x => some (x, fun _ p => listed (sweepLines p ++ [[orNone .hms p.sweeps.resume]]) (sweepLines p).length)
  | .excuseList x r => some (x, fun _ p => excuseListReply r p)
  | .outboxGet x id => some (x, outboxReply id)
  | .gatewayGet x => some (x, fun _ p => let g := p.work.gateway
      ok [nat g.pace, .hm g.winStart, .hm g.winEnd, nat g.settle, nat g.band, .word (gatewayWord p.pmu.gateway)])
  | .alertGet x => some (x, fun _ p => alertReply p)
  | .rollGet x z => some (x, fun _ p => rollReply z p)
  | .status x => some (x, statusReply)
  | .version x => some (x, fun _ _ => versionReply)
  | _ => none

/-- The commands that move the school clock. -/
def movesClock : Instr → Bool
  | .clockTick _ => true
  | .timeSet _ _ _ _ _ => true
  | .coldStart _ => true
  | _ => false

end Sys2Proof.Machine
end

