-- ==== Sys2Proof/Certificates/Slice0/Obligations.lean ====
section
/-!
DEFINITION. The statements for the provers, `Obligations.<Name>`. The words they share stand in Safety.lean.
-/

open Sys2Proof Sys2Proof.Machine

/-! ## Every command -/

/-- One step takes the command at the front of the queue and runs it on the rest (log 3: an empty queue idles). -/
def Obligations.StepRunsTheFrontCommand : Prop :=
  (∀ i rest s, s.pending = i :: rest → step s = exec i { s with pending := rest }) ∧
  (∀ s : State, s.pending = [] → step s = .next s)

/-- The machine after reset, item by item: the reset columns of every chapter and the store defaults (log 13: the store is
one that has never been written; log 4 and 19: the crystal counts are 0). -/
def Obligations.ResetStandsAsTheTablesSay : Prop :=
  let s := State.reset
  let p := s.part
  s.pending = [] ∧ s.clock = { crystal := 0, reading := none, slew := 0 } ∧ p.day = none ∧
  p.bells.today = none ∧ p.bells.ring = [] ∧ p.bells.pendingDelay = 0 ∧
  p.zoneState 0 = some (.up .armed) ∧ (∀ z, 1 ≤ z → z ≤ 5 → p.zoneState z = none) ∧
  p.zbus.bus = .idle ∧ p.zbus.broadcast = none ∧ p.zbus.poll = none ∧ p.zbus.pollDue = 0 ∧
  (∀ z, z < 6 → p.zbus.faults.getD z ⟨some .noReply, none⟩ = ⟨none, none⟩) ∧
  p.roster.unsaved = [] ∧ p.roster.defaulted = 0 ∧ p.reg.register = none ∧ p.reg.yesterday = none ∧
  p.desk.queue = [] ∧ p.desk.firstArrivals = [] ∧ p.desk.cycleStart = 0 ∧ p.desk.cycleNext = 0 ∧ p.desk.toPoll = [] ∧
  p.desk.asking = none ∧ (p.station 0).state = .ready ∧
  (∀ n, 1 ≤ n → n ≤ 3 → (p.station n).state = .absent) ∧
  (∀ n, n ≤ 3 → (p.station n).misses = 0 ∧ (p.station n).calls = 0 ∧ (p.station n).lastTag = none
    ∧ (p.station n).ack = none ∧ (p.station n).slips = [] ∧ (p.station n).condition = none ∧ (p.station n).callRaised = false) ∧
  p.sweeps = { am := none, pm := none, resume := none } ∧
  p.pmu.outbox = [] ∧ p.pmu.nextId = 1 ∧ p.pmu.inflight = [] ∧ p.pmu.gateway = .unknown ∧ p.pmu.offer = none ∧
  p.pmu.lastSend = none ∧ p.ac = { alert := none, pinCount := 0 } ∧
  p.hl.lineBuffer = [] ∧ p.hl.reply = none ∧ p.hl.busy = none ∧ p.hl.notices = [⟨.start false 0, none⟩] ∧
  p.hl.overflow = false ∧ p.hl.activity = .quiet ∧ p.hl.service = none ∧
  p.hl.flags = ⟨false, false, false, false, false⟩ ∧ p.hl.enables = ⟨true, true, true⟩ ∧ p.hl.wakeTime = none ∧
  p.hl.restartAsked = false ∧ p.hl.dormantAsked = .none ∧ p.work = p.store ∧ p.work.weekdays = [.mon, .tue, .wed, .thu, .fri] ∧ p.work.exceptions = [] ∧
  p.work.rota = ⟨[0], 0⟩ ∧ p.work.policy = ⟨960, 1920, 3840, 320, 24⟩ ∧ p.work.gateway = ⟨2, 420, 1200, 10, 10⟩ ∧
  p.work.slots = [] ∧ p.work.contacts = [] ∧ p.work.excuses = [] ∧ p.work.school = [] ∧ p.work.stations = [0] ∧
  (∀ n, n ≤ 7 → p.work.plan n = ⟨text "PLAN" ++ decimal n,
    [⟨.registration, 525, 15, false, true⟩, ⟨.lesson, 540, 60, true, true⟩], 60, 60, 120, 20⟩) ∧
  (∀ z, z ≤ 5 → p.work.zone z = ⟨z == 0, 0, 120, z + 1, 4, 6, 8⟩) ∧
  (let school := fieldText "school" ++ text ": "
   let name := fieldText "name"
   p.work.template 0 = some (school ++ name ++ text " was not registered " ++ fieldText "period" ++ text " on "
     ++ fieldText "date" ++ text ". Reply ABSENT if this is expected.") ∧
   p.work.template 1 = some (school ++ name ++ text " arrived at " ++ fieldText "time" ++ text " on " ++ fieldText "date"
     ++ text ". Please disregard our earlier absence message.") ∧
   p.work.template 2 = some (school ++ name ++ text " arrived " ++ fieldText "min" ++ text " min late at "
     ++ fieldText "time" ++ text " on " ++ fieldText "date" ++ text ".") ∧
   p.work.template 3 = some (school ++ name ++ text " has reached lateness level " ++ fieldText "level"
     ++ text ". Please help with punctual arrival.") ∧
   p.work.template 4 = some (school ++ name ++ text " has reached lateness level " ++ fieldText "level"
     ++ text ". The school will contact you.") ∧
   p.work.template 5 = some (school ++ name ++ text " has reached lateness level " ++ fieldText "level"
     ++ text ". Please contact the school office.") ∧
   p.work.template 6 = some (school ++ text "your message about " ++ name ++ text " for " ++ fieldText "date"
     ++ text " has been recorded.") ∧
   p.work.template 7 = some (school ++ text "the school is following an emergency procedure. Do not come to the school. "
     ++ text "Further news will follow.")) ∧
  (∀ t, 8 ≤ t → t ≤ 31 → p.work.template t = none) ∧ (∀ e, p.work.mapped e = mapIndex e)

/-- Every command ends in a next state: the manual names no machine stop. No command but CLOCK_TICK, TIME_SET and COLD_START
moves the clock, and none touches the queue. -/
def Obligations.EveryCommandAnswersNextAndThreeMoveTheClock : Prop :=
  ∀ i s, ∃ t, exec i s = .next t ∧ t.pending = s.pending ∧ (movesClock i = false → t.clock = s.clock)

/-- A request completed while a reply is in progress: one BUSY answer is held, nothing else changes but the end of a service
wake (R191, R198). A request line wakes a DORMANT part through HOST and is then treated in QUIET (R197, R198; log 18 for the
next poll cycle). -/
def Obligations.RequestMeetsReplyOrSleep : Prop :=
  ∀ i sfx s, requestSuffix i = some sfx →
    (s.part.hl.reply ≠ none → s.part.hl.activity ≠ .dormant →
      exec i s = .next (left s { heard s [] with hl.busy := some (s.part.hl.busy.getD sfx) })) ∧
    (s.part.hl.activity = .dormant → exec i s = exec i (wokenByHost s))

/-- The requests that only read answer with their reply and change nothing else (R6, R8, R19, R21, R23, R28, R40, R56, R60,
R61, R63, R68 to R70, R84, R85, R99, R145, R149, R175, R176, R179, R186, R193). -/
def Obligations.QueriesAnswerAndChangeNothing : Prop :=
  ∀ i sfx f s, queryReply i = some (sfx, f) → Listening s →
    exec i s = .next (replied s (heard s []) sfx (f s.clock (heard s [])))

/-- Every request that writes the store: where its other checks pass and the write fails, it answers ERR STORE and changes
nothing, in the store or in the working copy (R62). -/
def Obligations.FailedStoreWriteChangesNothing : Prop :=
  ∀ s sfx ws, Listening s → ws.headD true = false →
    (∀ days l, allKnown days = some l → noRepeat l = true →
      exec (.calSet sfx days ws) s = .next (refusedWith s sfx .store)) ∧
    (∀ n plans i, rotaOk n plans i = true → exec (.rotaSet sfx n plans i ws) s = .next (refusedWith s sfx .store)) ∧
    (∀ name, name.length ≤ 40 → exec (.schoolSet sfx name ws) s = .next (refusedWith s sfx .store)) ∧
    (∀ t l, t ≤ 31 → templateOk l = true → exec (.templatePut sfx t l ws) s = .next (refusedWith s sfx .store)) ∧
    (∀ n number ch, n < 4096 → allDigits number = true → number.length ≤ 15 →
      exec (.contactPut sfx n number (some ch) ws) s = .next (refusedWith s sfx .store)) ∧
    (∀ t1 t2 t3 h d, policyOk ⟨t1, t2, t3, h, d⟩ = true →
      exec (.scoreSet sfx t1 t2 t3 h d ws) s = .next (refusedWith s sfx .store)) ∧
    (∀ z r, zoneOk z r = true → (r.present = true → s.part.work.addressTaken z r.address = false) →
      exec (.zonePut sfx z r.present r.offset r.lead r.address r.warnDur r.ringDur r.endDur ws) s
        = .next (refusedWith s sfx .store)) ∧
    (∀ r n x, pupilInRange r = true → s.part.work.pupil r = some (n, x) → x.state = .enrolled →
      exec (.pupilRemove sfx r ws) s = .next (refusedWith s sfx .store)) ∧
    (∀ d date kind, dateOf d = some date → (∀ n, kind = .school n → n ≤ 7) →
      s.part.work.exceptions.any (fun e => e.date == date) = true ∨ s.part.work.exceptions.length < 64 →
      exec (.exceptPut sfx d kind ws) s = .next (refusedWith s sfx .store)) ∧
    (∀ d date, dateOf d = some date → s.part.work.exceptions.any (fun e => e.date == date) = true →
      exec (.exceptDel sfx d ws) s = .next (refusedWith s sfx .store)) ∧
    (∀ n name lead lag grace close fields l, readPeriods fields = some l → planItemsOk n name lead lag grace close = true →
      periodsOk l = true →
      exec (.planPut sfx n name lead lag grace close fields ws) s = .next (refusedWith s sfx .store)) ∧
    (∀ e t, t ≤ 31 → s.part.work.template t ≠ none →
      exec (.templateMap sfx (some e) t ws) s = .next (refusedWith s sfx .store)) ∧
    (∀ n number name year zone contacts late priority, pupilFieldsOk n number name year zone contacts = true →
      (∀ i ∈ contacts, (s.part.work.contact i).number ≠ none) →
      (∀ e ∈ s.part.work.slots, e.1 ≠ n → e.2.number ≠ number) →
      (∀ o, s.part.slot? n = some o → o.state = .left → o.number = number) →
      exec (.pupilPut sfx n number name year zone contacts late priority ws) s = .next (refusedWith s sfx .store)) ∧
    (∀ given l, allKnown given = some l → (∀ n ∈ l, n ≤ 3) → noRepeat l = true →
      exec (.stationSet sfx given ws) s = .next (refusedWith s sfx .store)) ∧
    (∀ pace a b x y settle band, minuteOf a = some x → minuteOf b = some y → x < y → 1 ≤ pace → pace ≤ 60 → settle ≤ 30 →
      1 ≤ band → band ≤ 60 → exec (.gatewaySet sfx pace a b settle band ws) s = .next (refusedWith s sfx .store)) ∧
    (∀ r k a d date x n y, dateOf date = some d → pupilInRange r = true → (a ≠ none ↔ k = .lateAllowance) →
      (∀ m, a = some m → 1 ≤ m ∧ m ≤ 240) → s.clock.reading = some x → s.part.work.enrolledPupil r = some (n, y) →
      (∀ g, s.part.day = some g → g.date = d → g.done = false ∧ g.kind = .school) →
      (s.part.day.filter (fun g => g.date == d) = none → x.date ≤ d ∧ (s.part.work.dayKind d).1 = .school) →
      s.part.work.holdsExcuse n k d = true ∨ s.part.work.excuses.length < 256 →
      exec (.excusePut sfx r (some k) a date ws) s = .next (refusedWith s sfx .store)) ∧
    (∀ r k d date n, dateOf date = some d → pupilInRange r = true → s.part.work.slotNamed r = some n →
      s.part.work.holdsExcuse n k d = true →
      exec (.excuseDel sfx r (some k) date ws) s = .next (refusedWith s sfx .store))

/-- After a write that the store kept, every item written and every unsaved item stands in the store as in the working copy,
and no item is unsaved (R62, R63).
An own write that fails marks its items unsaved beside those unsaved already (R63). -/
def Obligations.SavedWriteCarriesUnsavedItems : Prop :=
  (∀ items p, (saved items p).roster.unsaved = [] ∧ (saved items p).work = p.work ∧
    (.school ∈ items ++ p.roster.unsaved → (saved items p).store.school = p.work.school) ∧
    (.rota ∈ items ++ p.roster.unsaved → (saved items p).store.rota = p.work.rota) ∧
    (.excuses ∈ items ++ p.roster.unsaved → (saved items p).store.excuses = p.work.excuses) ∧
    (.weekdays ∈ items ++ p.roster.unsaved → (saved items p).store.weekdays = p.work.weekdays) ∧
    (.exceptions ∈ items ++ p.roster.unsaved → (saved items p).store.exceptions = p.work.exceptions) ∧
    (.stations ∈ items ++ p.roster.unsaved → (saved items p).store.stations = p.work.stations) ∧
    (.templateMap ∈ items ++ p.roster.unsaved → (saved items p).store.templateMap = p.work.templateMap) ∧
    (.gateway ∈ items ++ p.roster.unsaved → (saved items p).store.gateway = p.work.gateway) ∧
    (.policy ∈ items ++ p.roster.unsaved → (saved items p).store.policy = p.work.policy) ∧
    (∀ n, .plan n ∈ items ++ p.roster.unsaved → (saved items p).store.plan n = p.work.plan n) ∧
    (∀ n, .zone n ∈ items ++ p.roster.unsaved → (saved items p).store.zone n = p.work.zone n) ∧
    (∀ n, .template n ∈ items ++ p.roster.unsaved → (saved items p).store.template n = p.work.template n) ∧
    (∀ n, .plan n ∉ items ++ p.roster.unsaved → (saved items p).store.plan n = p.store.plan n) ∧
    (∀ n, .zone n ∉ items ++ p.roster.unsaved → (saved items p).store.zone n = p.store.zone n) ∧
    (∀ n, .template n ∉ items ++ p.roster.unsaved → (saved items p).store.template n = p.store.template n) ∧
    (∀ n, .contact n ∉ items ++ p.roster.unsaved →
      Table.get? (saved items p).store.contacts n = Table.get? p.store.contacts n) ∧
    (∀ n, .slot n ∈ items ++ p.roster.unsaved →
      Table.get? (saved items p).store.slots n = Table.get? p.work.slots n) ∧
    (∀ n, .contact n ∈ items ++ p.roster.unsaved →
      Table.get? (saved items p).store.contacts n = Table.get? p.work.contacts n) ∧
    (∀ n, .slot n ∉ items ++ p.roster.unsaved →
      Table.get? (saved items p).store.slots n = Table.get? p.store.slots n)) ∧
  (∀ items (p : Part), let q : Part := { p with roster.answers := p.roster.answers.tail }
    (p.roster.answers.headD true = true → ownWrite items p = saved items q) ∧
    (p.roster.answers.headD true = false → ∃ l, ownWrite items p = { q with roster.unsaved := l } ∧
      ∀ i, i ∈ l ↔ i ∈ items ∨ i ∈ p.roster.unsaved))

/-! ## Clock and calendar -/

/-- A sixteenth of a crystal second (R2): nothing moves while UNSET; otherwise the clock gains one sixteenth, two or none at
the end of a crystal second while a slew runs (log 4); 15 wraps into SECOND and 86,399 into DATE. Where no second is passed
the part stands; a new second and a midnight act as below. A midnight reaches no second of day, since DATE changes there; an
eligible time that it comes to is a time of a date, and makes its entry READY (log 6).

A second reaches, in the order of log 5: day open, when O is at or before SECOND (R13, R14); ring entries (R32); sweep cutoffs
on the record's date (R135); eligible times (R162); the resume time (R138); the wake time (R197); and day close, when no
alert stands and SECOND is at or past C, or DATE beyond the record (R15, R16, R18; log 45 for an empty zone set). Midnight
closes an OPEN record and evaluates the new date, unless an alert stands, and ends a resume time (R18, R138). -/
def Obligations.TickAdvancesTheClock : Prop :=
  (∀ s ws, ∃ t, exec (.clockTick ws) s = .next t ∧ t.pending = s.pending ∧ t.clock.crystal = s.clock.crystal + 1 ∧
    (s.clock.reading = none →
      t.clock.reading = none ∧ t.clock.slew = s.clock.slew ∧ t.part = { s.part with out := [], roster.answers := [] }) ∧
    (∀ x, s.clock.reading = some x →
      let last : Bool := (s.clock.crystal + 1) % 16 == 0
      let n := if last && decide (0 < s.clock.slew) then 2 else if last && decide (s.clock.slew < 0) then 0 else 1
      t.clock.slew = (if last then s.clock.slew - s.clock.slew.sign else s.clock.slew) ∧
      t.clock.reading = some (
        if x.fraction + n < 16 then { x with fraction := x.fraction + n }
        else if x.second + 1 < 86400 then { x with second := x.second + 1, fraction := x.fraction + n - 16 }
        else { date := nextDate x.date, second := 0, fraction := x.fraction + n - 16 }) ∧
      (x.fraction + n < 16 → t.part = { s.part with out := [], roster.answers := [] }) ∧
      (16 ≤ x.fraction + n → x.second + 1 < 86400 →
        t.part = { newSecond t.clock (met s ws) with roster.answers := [] }) ∧
      (16 ≤ x.fraction + n → 86400 ≤ x.second + 1 →
        t.part = { eligibleReached t.clock (midnight t.clock (met s ws)) with roster.answers := [] }))) ∧
  (∀ c p,
    let reached := eligibleReached c (startDue c (reachAt c c.second (tryOpen c p)))
    let resumed := if reached.sweeps.resume = some c.second then resumeReached reached else reached
    let woken := if resumed.hl.wakeTime.map (fun m => m * 60) = some c.second then setFlag c .time resumed else resumed
    newSecond c p = tryClose c woken) ∧
  (∀ c p, (p.openDay = none ∨ ∃ r, p.openDay = some r ∧ p.ac.alert = none) →
    let q := match p.openDay with
      | none => evaluateAndTest c p
      | some r => evaluateAndTest c (dayClose c r p)
    midnight c p = if q.sweeps.resume = none then q else resumeReached q) ∧
  (∀ c p, p.openDay ≠ none → p.ac.alert ≠ none →
    midnight c p = if p.sweeps.resume = none then p else resumeReached p) ∧
  (∀ c p x, c.reading = some x →
    evaluateAndTest c p = closeNow c (tryOpen c { p with day := some (p.work.evaluate x.date) })) ∧
  (∀ c p r n x, p.day = some r → r.kind = .school → r.phase = .closed → r.done = false → r.plan = some n →
    c.reading = some x →
    let o := openTime p.work p.bells.pendingDelay (p.work.plan n)
    (o ≤ x.second → tryOpen c p = dayOpen c r n p) ∧ (x.second < o → tryOpen c p = p)) ∧
  (∀ c p, p.day = none ∨ c.reading = none
      ∨ (∃ r, p.day = some r ∧ (r.kind = .noSchool ∨ r.phase = .opened ∨ r.done = true ∨ r.plan = none)) →
    tryOpen c p = p) ∧
  (∀ (img : Image) (d : Nat) (pl : Plan) q rest, pl.periods = q :: rest →
    let offsets := if img.presentZones = [] then [0] else img.presentZones.map (fun z => (img.zone z).offset)
    let starts := offsets.map (fun o => ((q.start : Int) * 60 + o + (d : Int) * 60).toNat)
    ∃ m ∈ starts, (∀ k ∈ starts, m ≤ k) ∧ openTime img d pl = m - pl.lead * 60) ∧
  (∀ c p r t x, p.openDay = some r → p.bells.today = some t → c.reading = some x →
    (p.ac.alert ≠ none → tryClose c p = p) ∧
    (p.ac.alert = none → x.date = r.date → t.closeTime ≤ x.second → tryClose c p = dayClose c r p) ∧
    (p.ac.alert = none → x.date = r.date → x.second < t.closeTime → tryClose c p = p) ∧
    (p.ac.alert = none → x.date ≠ r.date → tryClose c p = evaluateAndTest c (dayClose c r p))) ∧
  (∀ c p, p.openDay = none → tryClose c p = p) ∧
  (∀ (t : Today),
    let zones := if t.zones = [] then [6] else t.zones.map (·.zone)
    (∃ z ∈ zones, (∀ y ∈ zones, t.closeTerm y ≤ t.closeTerm z) ∧ t.closeTime = t.closeTerm z + t.plan.lag * 60) ∧
    (∀ z k a e, t.lastPeriod z = some k → t.effective k z = some (a, e) → t.closeTerm z = e) ∧
    (∀ z, t.lastPeriod z = none → t.closeTerm z = (t.early.map (fun x => x * 60)).getD 86400)) ∧
  (∀ c p, (p.openDay = none → startDue c p = p) ∧
    (∀ r, p.openDay = some r → ∃ w, startDue c p = { p with sweeps := w } ∧ w.resume = p.sweeps.resume ∧
      ∀ x y, p.sweeps.get? x = some y →
        (∀ k now, y.state = .waiting → y.cutoff = some k → c.reading = some now → now.date = r.date → k ≤ now.second →
          w.get? x = some { y with state := if p.held then .suspended else .running, cursor := 0, startedAt := some now.second }) ∧
        (y.state ≠ .waiting ∨ y.cutoff = none ∨ (∀ k now, y.cutoff = some k → c.reading = some now →
            now.date ≠ r.date ∨ now.second < k) →
          w.get? x = some y))) ∧
  (∀ c p, eligibleReached c p = { p with pmu.outbox := p.pmu.outbox.map (fun e =>
    { e with ready := e.ready || (match e.eligible, c.stamp with
        | none, _ => true
        | some _, none => false
        | some x, some now => decide (x.date < now.date ∨ (x.date = now.date ∧ x.second ≤ now.second))) }) })

/-- TIME SET refuses a date or time out of range and leaves every clock item; while UNSET it takes the reading, RUNNING, and
the new date is evaluated and may open at once (R3). -/
def Obligations.TimeSetByRangeAndFromUnset : Prop :=
  ∀ s sfx d t force ws, Listening s →
    ((d.year < 2000 ∨ 2099 < d.year ∨ d.month < 1 ∨ 12 < d.month ∨ d.day < 1
        ∨ (monthLengths d.year).getD (d.month - 1) 0 < d.day ∨ 23 < t.hour ∨ 59 < t.minute ∨ 59 < t.second.getD 0) →
      exec (.timeSet sfx d t force ws) s = .next (refusedWith s sfx .range)) ∧
    (∀ date sec, dateOf d = some date → secondOf t = some sec → s.clock.reading = none →
      let c : Clock := { crystal := s.clock.crystal, reading := some ⟨date, sec, 0⟩, slew := 0 }
      exec (.timeSet sfx d t force ws) s = .next
        { replied s (evaluateAndTest c (heard s ws)) sfx (ok [.word "SET"]) with clock := c } ∧ c.state = .running)

/-- A same-date setting by the error in sixteenths: within 1,920 it is slewed and only REMAINING SLEW moves, replacing any
slew; above it the clock steps, CLOCK_STEP is raised with both readings, and every block hears of the step (R4).

A step forward opens a day that is due, passes the PENDING entries it skips with one BELL_MISSED of their number, reaches those
at the new reading (R33), and then what a second reaches, among all the seconds passed over, in the order of log 5. A step back
leaves the ring table, and O and C are tested. -/
def Obligations.SameDateSettingSlewsOrSteps : Prop :=
  (∀ s sfx d t force ws date sec x, Listening s → dateOf d = some date → secondOf t = some sec →
    s.clock.reading = some x → x.date = date →
    let e : Int := (sec : Int) * 16 - (x.second : Int) * 16 - (x.fraction : Int)
    let c : Clock := { crystal := s.clock.crystal, reading := some ⟨date, sec, 0⟩, slew := 0 }
    (-1920 ≤ e ∧ e ≤ 1920 → exec (.timeSet sfx d t force ws) s = .next
      { replied s (heard s ws) sfx (ok [.word "SLEW", .num e]) with clock := { s.clock with slew := e } }) ∧
    (e < -1920 ∨ 1920 < e → exec (.timeSet sfx d t force ws) s = .next
      { replied s (stepped c x.second sec (raise c (.clockStep ⟨date, x.second⟩ ⟨date, sec⟩) (heard s ws))) sfx
          (ok [.word "STEP"]) with clock := c })) ∧
  (∀ c old new p,
    (new ≤ old → stepped c old new p = tryClose c (tryOpen c p)) ∧
    (old < new →
      let reached := eligibleReached c (startDue c (stepRing c old new (tryOpen c p)))
      let resumed := if reached.sweeps.resume.any (fun k => old < k ∧ k ≤ new) then resumeReached reached else reached
      let woken := if resumed.hl.wakeTime.any (fun m => old < m * 60 ∧ m * 60 ≤ new) then setFlag c .time resumed else resumed
      stepped c old new p = tryClose c woken)) ∧
  (∀ c old new (p : Part),
    let skips := fun (e : RingEntry) => e.state = .pending ∧ old < e.time ∧ e.time < new
    let n := (p.bells.ring.filter (fun e => decide (skips e))).length
    let q := { p with bells.ring := p.bells.ring.map (fun e =>
      if skips e then { e with state := .passed, dueSince := none } else e) }
    stepRing c old new p = reachAt c new (if n = 0 then q else raise c (.bellMissedStep n old new) q))

/-- A date change: refused while OPEN without FORCE or during an alert; with FORCE day close comes first; otherwise taken,
with CLOCK_STEP and an evaluation of the new date (R5). -/
def Obligations.DateChangeFollowsPhaseAndAlert : Prop :=
  ∀ s sfx d t force ws date sec x, Listening s → dateOf d = some date → secondOf t = some sec →
    s.clock.reading = some x → x.date ≠ date →
    let c : Clock := { crystal := s.clock.crystal, reading := some ⟨date, sec, 0⟩, slew := 0 }
    let change : Part → Part := fun p =>
      evaluateAndTest c (dateChanged c (decide (x.date < date)) (raise c (.clockStep ⟨x.date, x.second⟩ ⟨date, sec⟩) p))
    (s.part.openDay = none → exec (.timeSet sfx d t force ws) s = .next
      { replied s (change (heard s ws)) sfx (ok [.word "DATE"]) with clock := c }) ∧
    (∀ r, s.part.openDay = some r → s.part.ac.alert = none → force = true → exec (.timeSet sfx d t force ws) s = .next
      { replied s (change (dayClose s.clock r (heard s ws))) sfx (ok [.word "DATE"]) with clock := c }) ∧
    (∀ r, s.part.openDay = some r → s.part.ac.alert ≠ none ∨ force = false →
      exec (.timeSet sfx d t force ws) s = .next (refusedWith s sfx .state))

/-- TIME GET (R6): OK UNSET, or the clock state, date, time, FRACTION and REMAINING SLEW; it changes no state. -/
def Obligations.TimeGetShowsTheClock : Prop :=
  ∀ s sfx, Listening s →
    (s.clock.reading = none → exec (.timeGet sfx) s = .next (replied s (heard s []) sfx (ok [.word "UNSET"]))) ∧
    (∀ x, s.clock.reading = some x → exec (.timeGet sfx) s = .next (replied s (heard s []) sfx
      (ok [.word (if s.clock.slew = 0 then "RUNNING" else "SLEWING"), .date x.date, .hms x.second, .num x.fraction,
           .num s.clock.slew])))

/-- CAL SET, EXCEPT PUT, EXCEPT DEL and ROTA SET (R8 to R10): where they are taken the store and the working copy change and the
day record does not; an unknown or repeated day, a date or plan out of range, a full list, a date without an entry and a
rota out of range are refused. That EXCEPT DEL of a date that does not exist answers ERR RANGE is log 45. -/
def Obligations.CalendarRequestsAreTakenOrRefused : Prop :=
  ∀ s sfx ws, Listening s →
    (Kept ws →
      (∀ days l, allKnown days = some l → noRepeat l = true → exec (.calSet sfx days ws) s = .next (replied s
        (written s ws [.weekdays] (fun img => { img with weekdays := weekdays.filter (fun d => l.contains d) })) sfx (ok []))) ∧
      (∀ d date kind, dateOf d = some date → (∀ n, kind = .school n → n ≤ 7) →
        s.part.work.exceptions.any (fun e => e.date == date) = true ∨ s.part.work.exceptions.length < 64 →
        exec (.exceptPut sfx d kind ws) s = .next (replied s
          (written s ws [.exceptions] (fun img => { img with exceptions := putException ⟨date, kind⟩ img.exceptions })) sfx
          (ok []))) ∧
      (∀ d date, dateOf d = some date → s.part.work.exceptions.any (fun e => e.date == date) = true →
        exec (.exceptDel sfx d ws) s = .next (replied s
          (written s ws [.exceptions]
            (fun img => { img with exceptions := img.exceptions.filter (fun e => e.date != date) })) sfx (ok []))) ∧
      (∀ n plans i, 1 ≤ n → n ≤ 20 → plans.length = n → (∀ q ∈ plans, q ≤ 7) → i < n →
        exec (.rotaSet sfx n plans i ws) s = .next (replied s
          (written s ws [.rota] (fun img => { img with rota := ⟨plans, i⟩ })) sfx (ok [])))) ∧
    (∀ days, none ∈ days ∨ ¬ days.Nodup → exec (.calSet sfx days ws) s = .next (refusedWith s sfx .malformed)) ∧
    (∀ d kind, dateOf d = none ∨ (∃ n, kind = .school n ∧ 7 < n) →
      exec (.exceptPut sfx d kind ws) s = .next (refusedWith s sfx .range)) ∧
    (∀ d, dateOf d = none → exec (.exceptDel sfx d ws) s = .next (refusedWith s sfx .range)) ∧
    (∀ d date kind, dateOf d = some date → (∀ n, kind = .school n → n ≤ 7) →
      (∀ e ∈ s.part.work.exceptions, e.date ≠ date) → 64 ≤ s.part.work.exceptions.length →
      exec (.exceptPut sfx d kind ws) s = .next (refusedWith s sfx .full)) ∧
    (∀ d date, dateOf d = some date → (∀ e ∈ s.part.work.exceptions, e.date ≠ date) →
      exec (.exceptDel sfx d ws) s = .next (refusedWith s sfx .notFound)) ∧
    (∀ n plans i, n < 1 ∨ 20 < n ∨ plans.length ≠ n ∨ (∃ q ∈ plans, 7 < q) ∨ n ≤ i →
      exec (.rotaSet sfx n plans i ws) s = .next (refusedWith s sfx .range))

/-- The day kind of a date (R11): the exception entry decides, then the weekday with the rota's plan, otherwise NO_SCHOOL; and
an evaluation makes a CLOSED record that is not done (R12). -/
def Obligations.DayKindIsDecidedInOrder : Prop :=
  ∀ (img : Image) (d : Date),
    (∀ e, img.exceptions.find? (fun e => e.date == d) = some e →
      img.dayKind d = match e.kind with
        | .noSchool => (.noSchool, none)
        | .school n => (.school, some n)) ∧
    (img.exceptions.find? (fun e => e.date == d) = none → weekdayOf d ∈ img.weekdays →
      img.dayKind d = (.school, some img.rota.plan)) ∧
    (img.exceptions.find? (fun e => e.date == d) = none → weekdayOf d ∉ img.weekdays → img.dayKind d = (.noSchool, none)) ∧
    img.evaluate d = { date := d, kind := (img.dayKind d).1, plan := (img.dayKind d).2, phase := .closed, done := false }

/-- Day open (R14, R25, R30, R31, R74, R95, R110, R133, R195): the phase is OPEN, DAY_OPEN is raised first, the pending delay is
applied and becomes 0, today's copy, the ring table, a register and the sweep records are made, first arrivals are cleared, and
the part is ACTIVE.

A sweep record is WAITING with its cutoff, SUSPENDED when the register is in RECOVERY and the cutoff is past, SKIPPED when the
period is cancelled everywhere (log 45 for an empty zone set). The table holds, for each zone and period not cancelled, a RING
and, where R30 allows it, a WARN, and one END for each zone, all with issue 1, ordered by time, zone and creation (log 36);
those before the clock are PASSED and those at the clock reached.

The register made (R73 to R75): its periods are the REGISTRATION and LESSON periods of the plan, the first two REGISTRATION ones
being AM and PM; every non-vacant slot has a record for each, NOT_REQUIRED from SYSTEM where the period is cancelled in its home
zone and UNSET otherwise; nobody is on site and nothing has changed; the tallies count the records; and it is in RECOVERY exactly
when the clock is past the least start of AM, taken before any cancellation (log 71; for an empty zone set
R75 itself gives the term of offset 0). -/
def Obligations.DayOpenSetsTheDay : Prop :=
  (∀ c r n p, let t := dayOpen c r n p
    let today := makeToday p.work n p.bells.pendingDelay none c.second
    let register := makeRegister c p.work today
    t.day = some { r with phase := .opened } ∧ t.bells.pendingDelay = 0 ∧ t.bells.today = some today ∧
    t.reg.register = some register ∧
    t.desk.firstArrivals = [] ∧ t.hl.activity = .active ∧ t.hl.service = none ∧ t.work = p.work ∧
    (p.hl.notices.length < 32 → ∃ more, t.hl.notices = p.hl.notices ++ ⟨.dayOpen r.date n, c.stamp⟩ :: more) ∧
    t.sweeps.resume = p.sweeps.resume ∧
    (∀ x, today.reg? x = none → t.sweeps.get? x = none) ∧
    (∀ x k, today.reg? x = some k →
      let w : Sweep := ⟨.waiting, today.cutoff k, 0, 0, 0, 0, none, none⟩
      (today.cutoff k = none → t.sweeps.get? x = some { w with state := .skipped }) ∧
      (∀ q, today.cutoff k = some q → register.state = .recovery → q ≤ c.dayNow r →
        t.sweeps.get? x = some { w with state := .suspended, startedAt := c.second? }) ∧
      (∀ q, today.cutoff k = some q → register.state = .normal ∨ c.dayNow r < q → t.sweeps.get? x = some w)) ∧
    t.bells.ring = (p.bells.built today c.second).ring.map (fun e =>
      if e.time < c.dayNow r then { e with state := .passed }
      else if e.time = c.second then
        (if p.zoneState e.zone = some (.up .armed) then { e with state := .due, dueSince := some c.crystal }
         else { e with state := .passed })
      else e)) ∧
  (∀ (t : Today) k,
    let zones := if t.zones = [] then [6] else t.zones.map (·.zone)
    (t.cutoff k = none ↔ ∀ z ∈ zones, t.effective k z = none) ∧
    (∀ q, t.cutoff k = some q →
      (∃ z ∈ zones, ∃ e, t.effective k z = some (q - t.plan.close * 60, e) ∧ t.plan.close * 60 ≤ q) ∧
      (∀ z ∈ zones, ∀ a e, t.effective k z = some (a, e) → a + t.plan.close * 60 ≤ q))) ∧
  (∀ (b : Bells) (t : Today) limit,
    let rings : Nat → Nat → Option Nat := fun z k => match t.plan.periods[k]?, t.effective k z with
      | some q, some (a, _) => if q.ring then some a else none
      | _, _ => none
    let warns : TodayZone → Nat → Nat → Bool := fun x k a =>
      ((t.plan.periods[k]?).map (·.warn)).getD false && decide (x.lead ≤ a) && decide (limit ≤ a - x.lead)
        && (((List.range k).filterMap (rings x.zone)).getLast?.map (fun l => decide (l < a - x.lead))).getD true
    let requests : List RingRequest := t.zones.flatMap (fun x =>
      (List.range t.plan.periods.length).flatMap (fun k => match rings x.zone k with
        | none => []
        | some a => ⟨x.zone, some k, .ring, a, none, false⟩ ::
            (if warns x k a then [⟨x.zone, some k, .warn, a - x.lead, none, false⟩] else []))
      ++ (match ((List.range t.plan.periods.length).filter (fun k => !t.cancelled k x.zone)).getLast? with
        | none => []
        | some k => ((t.effective k x.zone).map (fun se => (⟨x.zone, some k, .endBell, se.2, none, false⟩ : RingRequest))).toList))
    let made := b.built t limit
    made.ring.Perm ((requests.zipIdx b.nextStamp).map (fun q =>
      (⟨q.1.zone, q.1.period, q.1.tone, 1, q.1.time, q.1.duration, .pending, none, none, q.1.byEarlyClose, q.2⟩ : RingEntry))) ∧
    made.ring.Pairwise (fun e f => e.time < f.time ∨ (e.time = f.time ∧ (e.zone < f.zone ∨ (e.zone = f.zone ∧ e.stamp ≤ f.stamp))))) ∧
  (∀ c (img : Image) (t : Today), let g := makeRegister c img t
    g.periods = t.plan.marked ∧ g.onSite = 0 ∧ g.changes = 0 ∧ g.exporting = none ∧
    g.tallies = countTallies g.periods g.slots ∧
    g.slots = img.slots.map (fun e => (e.1, ⟨t.plan.marked.map (fun m =>
      let fresh := m.reg.map (fun _ => NoticeStatus.none)
      if t.effective m.number e.2.zone = none then ⟨m, .notRequired, some .system, none, some 0, c.second?, none, fresh⟩
      else ⟨m, .unset, none, none, none, none, none, fresh⟩), .notArrived, 0⟩)) ∧
    (t.reg? .am = none → g.state = .normal) ∧
    (∀ k q, t.reg? .am = some k → t.plan.periods[k]? = some q →
      (g.state = .recovery ↔ ∃ z ∈ (if t.zones = [] then [6] else t.zones.map (·.zone)),
        ((q.start : Int) * 60 + ((t.zone? z).map (·.offset)).getD 0 + (t.delayTotal : Int) * 60).toNat < c.second))) ∧
  (∀ pl : Plan, pl.marked = (List.range pl.periods.length).filterMap (fun k =>
    let earlier := ((pl.periods.take k).filter (fun q => q.kind == .registration)).length
    (pl.periods[k]?).bind (fun q =>
      if q.kind = .registration then
        some (⟨k, if earlier = 0 then some .am else if earlier = 1 then some .pm else none⟩ : MarkedPeriod)
      else if q.kind = .lesson then some ⟨k, none⟩ else none))) ∧
  (∀ periods (slots : Table SlotDay),
    (countTallies periods slots).map (·.period) = periods ∧
    ∀ y ∈ countTallies periods slots,
      let number : (Mark → Bool) → Nat := fun f => (slots.filter (fun e => ((e.2.mark? y.period.number).map f).getD false)).length
      (∀ v, y.count v = number (fun m => m.value == v)) ∧
      y.minor = number (fun m => m.band == some .minor) ∧ y.major = number (fun m => m.band == some .major) ∧
      y.afterClose = number (fun m => m.band == some .afterClose)) ∧
  (∀ (img : Image) n d e o, makeToday img n d e o = ⟨img.plan n,
    ([0, 1, 2, 3, 4, 5].filter (fun z => (img.zone z).present)).map (fun z =>
      ⟨z, (img.zone z).offset, (img.zone z).lead, (img.zone z).warnDur, (img.zone z).ringDur, (img.zone z).endDur⟩), d, e, o⟩)

/-- Day close (R16, R17, R71, R95, R110, R144, R158, R177, R195): the record is CLOSED and done, DAY_CLOSE is raised first, the
register, the ring table, today's copy and first arrivals are gone, yesterday's set is kept, no slot is LEFT and the scored
slots stay, excuses up to the day are purged, every sweep is DONE or SKIPPED, stale entries of the outbox are withdrawn, and
ACTIVE becomes QUIET. That the scores come first, then the roster, the outbox, the excuses and the rest is log 60.

The PMU's part (R177, R172): each ABSENCE, LATE or CORRECTION entry with a WAITING contact has those contacts CANCELLED, and
leaves unless a contact is IN_FLIGHT; every other entry stands; an open offer of such an entry ends; one STALE_WITHDRAWN carries
their number when it is not 0. -/
def Obligations.DayCloseEndsTheDay : Prop :=
  (∀ c r p, let t := dayClose c r p
    let closing := raise c (.dayClose r.date) (advanceRota { p with day := some { r with phase := .closed, done := true } })
    let scored := scoreAll c closing
    t.day = some { r with phase := .closed, done := true } ∧ t.reg.register = none ∧ t.bells.ring = [] ∧
    t.bells.today = none ∧ t.desk.firstArrivals = [] ∧ t.sweeps.resume = none ∧
    (p.hl.notices.length < 32 → ∃ more, t.hl.notices = p.hl.notices ++ ⟨.dayClose r.date, c.stamp⟩ :: more) ∧
    (∀ e ∈ t.work.slots, e.2.state = .enrolled) ∧
    t.work.slots = scored.work.slots.filter (fun e => e.2.state == .enrolled) ∧
    (∃ q : Part, q.pmu = scored.pmu ∧ t.pmu = (outboxAtClose c q).pmu) ∧
    t.work.excuses = p.work.excuses.filter (fun e => decide (r.date < e.date)) ∧
    (∀ x w, t.sweeps.get? x = some w → w.state = .done ∨ w.state = .skipped) ∧
    t.work.rota = { p.work.rota with
      index := if p.work.rota.index + 1 < p.work.rota.plans.length then p.work.rota.index + 1 else 0 } ∧
    (p.hl.activity = .active → t.hl.activity = .quiet) ∧
    (∀ g, p.reg.register = some g → ∃ y, t.reg.yesterday = some y ∧ y.date = r.date ∧ y.onSite = g.onSite
      ∧ y.tallies = g.tallies ∧ (Table.wf p.work.slots = true → y.nonVacant = p.work.slots.length))) ∧
  (∀ c (p : Part), (p.pmu.outbox.map (·.id)).Nodup →
    let stale := fun (e : OutEntry) => (e.kind == .absence || e.kind == .late || e.kind == .correction) && e.hasWaiting
    let n := (p.pmu.outbox.filter stale).length
    let q := withdrawAll c OutEntry.isStale p
    outboxAtClose c p = (if n = 0 then q else raise c (.staleWithdrawn n) q) ∧
    q.pmu.outbox = p.pmu.outbox.filterMap (fun e =>
      if stale e then (if p.pmu.hasFlight e then some e.cancelled else none) else some e) ∧
    q.pmu.offer = p.pmu.offer.filter (fun o => !(p.pmu.outbox.any (fun e => stale e && e.id == o.handle.id))) ∧
    q.pmu.inflight = p.pmu.inflight ∧ q.pmu.gateway = p.pmu.gateway)

/-! ## Plans, zones and the ring table -/

/-- PLAN PUT in range is written to plan p alone, and O and C are tested again; out of range it is refused (R21). -/
def Obligations.PlanPutReplacesOnePlan : Prop :=
  ∀ s sfx n name lead lag grace close fields ws, Listening s →
    (∀ l, readPeriods fields = some l → planItemsOk n name lead lag grace close = true → periodsOk l = true → Kept ws →
      exec (.planPut sfx n name lead lag grace close fields ws) s = .next (replied s
        (dayTests s.clock (written s ws [.plan n]
          (fun img => { img with plans := img.plans.setIfInBounds n ⟨name, l, lead, lag, grace, close⟩ }))) sfx (ok []))) ∧
    (readPeriods fields = none ∨ planItemsOk n name lead lag grace close = false
        ∨ (∃ l, readPeriods fields = some l ∧ periodsOk l = false) →
      exec (.planPut sfx n name lead lag grace close fields ws) s = .next (refusedWith s sfx .range))

/-- ZONE PUT in range and with a free address is written to zone z alone; a change of the present flag gives or takes the
zone state and clears the fault memory; O and C are tested again. A taken address is refused (R22, R23, R43). -/
def Obligations.ZonePutReplacesOneZone : Prop :=
  ∀ s sfx z (r : Zone) ws, Listening s →
    let put := Instr.zonePut sfx z r.present r.offset r.lead r.address r.warnDur r.ringDur r.endDur ws
    (zoneOk z r = false → exec put s = .next (refusedWith s sfx .range)) ∧
    (zoneOk z r = true → r.present = true → s.part.work.addressTaken z r.address = true →
      exec put s = .next (refusedWith s sfx .state)) ∧
    (zoneOk z r = true → (r.present = true → s.part.work.addressTaken z r.address = false) → Kept ws →
      let was := (s.part.work.zone z).present
      let q := written s ws [.zone z] (fun img => { img with zones := img.zones.setIfInBounds z r })
      (was = r.present → exec put s = .next (replied s (dayTests s.clock q) sfx (ok []))) ∧
      (was = false → r.present = true → exec put s = .next (replied s (dayTests s.clock
        (setFaultMemory z ⟨none, none⟩
          (q.setZoneState z (some (.up (if s.part.ac.alert = none then .armed else .silenced)))))) sfx (ok []))) ∧
      (was = true → r.present = false → exec put s = .next (replied s (dayTests s.clock
        (passDueOf z (setFaultMemory z ⟨none, none⟩ (q.setZoneState z none)))) sfx (ok []))))

/-- ZONE ARM by the zone and the alert state (R24). It moves the zone's state alone: entries that have left PENDING stand; and
a FAULTED zone that remembers SILENCED returns to SILENCED when its driver recovers. A z outside 0..5 is ERR RANGE during an
alert too (log 59). -/
def Obligations.ZoneArmByZoneAndAlert : Prop :=
  ∀ s sfx z, Listening s →
    (5 < z → exec (.zoneArm sfx z) s = .next (refusedWith s sfx .range)) ∧
    (z ≤ 5 → s.part.ac.alert ≠ none → exec (.zoneArm sfx z) s = .next (refusedWith s sfx .state)) ∧
    (z ≤ 5 → s.part.ac.alert = none →
      (s.part.zoneState z = none → exec (.zoneArm sfx z) s = .next (refusedWith s sfx .notFound)) ∧
      (s.part.zoneState z = some (.up .silenced) →
        exec (.zoneArm sfx z) s = .next (replied s ((heard s []).setZoneState z (some (.up .armed))) sfx (ok []))) ∧
      (s.part.zoneState z = some (.up .armed) → exec (.zoneArm sfx z) s = .next (replied s (heard s []) sfx (ok []))) ∧
      (∀ a, s.part.zoneState z = some (.faulted a) → exec (.zoneArm sfx z) s = .next (refusedWith s sfx .state))) ∧
    (∀ m c p, m.zone < 6 → p.zoneState m.zone = some (.faulted .silenced) →
      (recoverZone c m p).zoneState m.zone = some (.up .silenced))

/-- DELAY: out of range, UNSET, pending, or of the open day; the total is clamped to 120. It is too late once a REGISTRATION RING
entry has left PENDING, or, where no registration rings, once the clock is at the least start of AM (log 38; log 8 for a
record past midnight). The table of the open day: PENDING entries move, those of periods newly cancelled are CANCELLED, an END
is made anew for a zone that lost its END, and a warning already given is given again, in rising order of zones and in the order
of the RING entries (logs 64, 79); what finds no place is counted (R34 to R36).

Where the plan has no ringing REGISTRATION period and today's zone set is empty, the single term of offset 0 stands for it
(log 45). What a change of the effective times does (R92, R134, R135, R144), here and at an early close: NOT_REQUIRED from SYSTEM
to the periods newly cancelled in each slot's home zone, save over OFFICE (slots in slot order, log 23); each sweep record of a
period cancelled in every zone, not DONE, SKIPPED (log 84 where a PLAN TODAY had left it so); a WAITING record's new cutoff, at
which it starts at once when the clock has reached it; then the day close test. -/
def Obligations.DelayActsOnPendingOrToday : Prop :=
  (∀ s sfx d ws, Listening s →
    (d < 5 ∨ 120 < d → exec (.delay sfx d ws) s = .next (refusedWith s sfx .range)) ∧
    (5 ≤ d → d ≤ 120 → s.clock.reading = none → exec (.delay sfx d ws) s = .next (refusedWith s sfx .state)) ∧
    (5 ≤ d → d ≤ 120 → s.clock.reading ≠ none → s.part.openDay = none →
      let total := min (s.part.bells.pendingDelay + d) 120
      exec (.delay sfx d ws) s = .next (replied s
        (dayTests s.clock { heard s ws with bells.pendingDelay := total }) sfx (ok [nat total, nat 0]))) ∧
    (∀ r t, 5 ≤ d → d ≤ 120 → s.clock.reading ≠ none → s.part.openDay = some r → s.part.bells.today = some t →
      (delayInTime (s.clock.dayNow r) t s.part.bells = false →
        exec (.delay sfx d ws) s = .next (refusedWith s sfx .tooLate)) ∧
      (delayInTime (s.clock.dayNow r) t s.part.bells = true → t.delayTotal = 120 →
        exec (.delay sfx d ws) s = .next (replied s (heard s ws) sfx (ok [nat 120, nat 0]))) ∧
      (delayInTime (s.clock.dayNow r) t s.part.bells = true → t.delayTotal < 120 →
        let total := min (t.delayTotal + d) 120
        let after := { t with delayTotal := total }
        let b := s.part.bells.delay (s.part.now s.clock) t after ((total - t.delayTotal) * 60)
        exec (.delay sfx d ws) s = .next (replied s
          (timesChanged s.clock t after { heard s ws with bells := b.1 }) sfx (ok [nat total, nat b.2]))))) ∧
  (∀ now (t : Today) (b : Bells), (∃ q ∈ t.plan.periods, q.kind = .registration ∧ q.ring = true) →
    (delayInTime now t b = true ↔ ∀ e ∈ b.ring, ∀ k q, e.tone = .ring → e.period = some k → t.plan.periods[k]? = some q →
      q.kind = .registration → e.state = .pending)) ∧
  (∀ now (t : Today) (b : Bells) k q, (∀ q ∈ t.plan.periods, q.kind = .registration → q.ring = false) →
    t.reg? .am = some k → t.plan.periods[k]? = some q →
    (delayInTime now t b = true ↔ ∀ z ∈ (if t.zones = [] then [6] else t.zones.map (·.zone)),
      now < ((q.start : Int) * 60 + ((t.zone? z).map (·.offset)).getD 0 + (t.delayTotal : Int) * 60).toNat)) ∧
  (∀ now before after a (b : Bells),
    let lost : RingEntry → Bool := fun e => e.state == .pending && !e.byEarlyClose &&
      (e.period.map (fun k => (before.effective k e.zone).isSome && (after.effective k e.zone).isNone)).getD false
    let moved := b.ring.map (fun e =>
      if lost e then { e with time := e.time + a, state := .cancelled }
      else if e.state = .pending ∧ e.byEarlyClose = false then { e with time := e.time + a } else e)
    let ends := ([0, 1, 2, 3, 4, 5].filter (fun z => b.ring.any (fun e => lost e && e.tone == .endBell && e.zone == z))).flatMap
      (newEnd now after)
    let warns := (sortBy RingEntry.le moved).flatMap (freshWarn now after b.ring)
    let r := b.delay now before after a
    ∃ made : List RingEntry, r.1.ring.Perm (moved ++ made) ∧ made.length + r.2 = ends.length + warns.length ∧
      (∀ e ∈ made, ∃ q ∈ ends ++ warns, 1 ≤ e.issue ∧ e = q.entry e.issue e.stamp) ∧
      (b.ring.length + ends.length + warns.length ≤ 192 →
        (∀ q ∈ ends ++ warns, nextIssue b.ring q.zone q.period q.tone + ends.length + warns.length ≤ 256) → r.2 = 0) ∧
      r.1.today = some after ∧ r.1.pendingDelay = b.pendingDelay ∧ r.1.zoneStates = b.zoneStates) ∧
  (∀ now (t : Today) z,
    (∀ k se, t.lastPeriod z = some k → t.effective k z = some se →
      newEnd now t z = if now < se.2 then [⟨z, some k, .endBell, se.2, none, false⟩] else []) ∧
    (t.lastPeriod z = none → newEnd now t z = [])) ∧
  (∀ now (t : Today) l (e : RingEntry),
    (∀ q ∈ freshWarn now t l e, ∃ k w, e.period = some k ∧ e.tone = .ring ∧ e.state = .pending ∧
      w ∈ l ∧ w.zone = e.zone ∧ w.period = some k ∧ w.tone = .warn ∧
      (∀ v ∈ l, v.zone = e.zone → v.period = some k → v.tone = .warn → v.issue ≤ w.issue) ∧
      (w.state = .due ∨ w.state = .sounding ∨ w.state = .rung) ∧
      (let at' := e.time - ((t.zone? e.zone).map (·.lead)).getD 0
       now < at' ∧ q = ⟨e.zone, some k, .warn, at', none, false⟩)) ∧
    (∀ k w, e.period = some k → e.tone = .ring → e.state = .pending →
      w ∈ l → w.zone = e.zone → w.period = some k → w.tone = .warn →
      (∀ v ∈ l, v.zone = e.zone → v.period = some k → v.tone = .warn → v.issue ≤ w.issue ∧ (v.issue = w.issue → v = w)) →
      w.state = .due ∨ w.state = .sounding ∨ w.state = .rung →
      now < e.time - ((t.zone? e.zone).map (·.lead)).getD 0 → (freshWarn now t l e).length = 1)) ∧
  (∀ c (before after : Today) (p : Part),
    timesChanged c before after p = tryClose c (sweepsAfterTimes c after (cancellationWrites c before after p))) ∧
  (∀ c (before after : Today) (p : Part) g, p.reg.register = some g →
    cancellationWrites c before after p = p.work.slots.foldl (fun q e =>
      ((g.periods.map (·.number)).filter (fun k =>
        (before.effective k e.2.zone).isSome && (after.effective k e.2.zone).isNone)).foldl
        (fun q k => (writeMark c ⟨.system, .notRequired, none, 0, none⟩ e.1 k q).1) q) p) ∧
  (∀ c (before after : Today) (p : Part) g n (x : Slot) k m, p.reg.register = some g →
    Table.wf p.work.slots = true → p.slot? n = some x → p.mark? n k = some m →
    let off := k ∈ g.periods.map (·.number) ∧ before.effective k x.zone ≠ none ∧ after.effective k x.zone = none
    ∃ st, (cancellationWrites c before after p).mark? n k = some { (if off ∧ m.source ≠ some .office then
      ⟨m.period, .notRequired, some .system, none, some 0, c.second?, none, none⟩ else m) with notice := st }) ∧
  (∀ c (after : Today) (p : Part) x w, p.sweeps.get? x = some w →
    let q := sweepsAfterTimes c after p
    (∃ l, q = { p with sweeps := l }) ∧ q.sweeps.resume = p.sweeps.resume ∧
    (after.cutoffOf x = none → w.state = .done → q.sweeps.get? x = some w) ∧
    (after.cutoffOf x = none → w.state ≠ .done → q.sweeps.get? x = some { w with state := .skipped, cutoff := none }) ∧
    (∀ k, after.cutoffOf x = some k →
      let due := ∃ r now, p.openDay = some r ∧ c.reading = some now ∧ now.date = r.date ∧ k ≤ now.second
      (w.state ≠ .waiting → q.sweeps.get? x = some w) ∧
      (w.state = .waiting → ¬ due → q.sweeps.get? x = some { w with cutoff := some k }) ∧
      (w.state = .waiting → due → q.sweeps.get? x = some { w with
        cutoff := some k, state := if p.held then .suspended else .running, cursor := 0, startedAt := c.second? })))

/-- EARLY CLOSE in its order of decision: range, phase, the clock (log 8 for a record past midnight), an earlier X already set,
room (log 45 for issues past 255), and otherwise taken. The table of one taken: PENDING entries at or after X, and those of periods now cancelled, are CANCELLED,
and every zone gets an END at X for the period in progress (log 63 where two are), else its last period, else MANUAL (R37).
What a change of the effective times does to the register and the sweeps stands in `DelayActsOnPendingOrToday`. -/
def Obligations.EarlyCloseInOrder : Prop :=
  (∀ s sfx x ws, Listening s →
    (1439 < x → exec (.earlyClose sfx x ws) s = .next (refusedWith s sfx .range)) ∧
    (x ≤ 1439 → s.part.openDay = none → exec (.earlyClose sfx x ws) s = .next (refusedWith s sfx .state)) ∧
    (∀ r t, x ≤ 1439 → s.part.openDay = some r → s.part.bells.today = some t →
      (x * 60 ≤ s.clock.dayNow r → exec (.earlyClose sfx x ws) s = .next (refusedWith s sfx .range)) ∧
      (s.clock.dayNow r < x * 60 → (∃ y, t.early = some y ∧ y ≤ x) →
        exec (.earlyClose sfx x ws) s = .next (refusedWith s sfx .state)) ∧
      (s.clock.dayNow r < x * 60 → (∀ y, t.early = some y → x < y) → s.part.bells.free < t.zones.length →
        exec (.earlyClose sfx x ws) s = .next (refusedWith s sfx .full)) ∧
      (s.clock.dayNow r < x * 60 → (∀ y, t.early = some y → x < y) → t.zones.length ≤ s.part.bells.free →
        let after := { t with early := some x }
        s.part.bells.issuesFree after x = true →
        exec (.earlyClose sfx x ws) s = .next (replied s
          (timesChanged s.clock t after { heard s ws with bells := s.part.bells.closeEarly after x }) sfx (ok [.hm x]))) ∧
      (s.clock.dayNow r < x * 60 → (∀ y, t.early = some y → x < y) → t.zones.length ≤ s.part.bells.free →
        s.part.bells.issuesFree { t with early := some x } x = false →
        exec (.earlyClose sfx x ws) s = .next (refusedWith s sfx .full)))) ∧
  (∀ (b : Bells) (after : Today) x, (after.zones.map (·.zone)).Nodup → b.ring.length + after.zones.length ≤ 192 →
    b.issuesFree after x = true →
    let cut := b.ring.map (fun e => if e.state = .pending ∧ (x * 60 ≤ e.time ∨ ∃ k, e.period = some k ∧ after.effective k e.zone = none)
      then { e with state := .cancelled } else e)
    let ends : List RingEntry := (after.zones.zipIdx b.nextStamp).map (fun y =>
      let q := closeEnd after x y.1.zone
      ⟨y.1.zone, q.period, .endBell, nextIssue b.ring y.1.zone q.period .endBell, x * 60, none, .pending, none, none, true, y.2⟩)
    let r := b.closeEarly after x
    r.ring.Perm (cut ++ ends) ∧ r.today = some after ∧ r.zoneStates = b.zoneStates ∧
    (b.ring.Pairwise (fun e f => e.le f = true) → r.ring.Pairwise (fun e f => e.le f = true))) ∧
  (∀ (after : Today) x z,
    (∀ k, after.inProgress x z = some k → (closeEnd after x z).period = some k ∧
      ∃ q se, after.plan.periods[k]? = some q ∧ after.baseTimes q z = some se ∧ se.1 < x * 60 ∧ x * 60 < se.2) ∧
    (after.inProgress x z = none → (closeEnd after x z).period = after.lastPeriod z ∧
      ∀ (k : Nat) q se, after.plan.periods[k]? = some q → after.baseTimes q z = some se → ¬ (se.1 < x * 60 ∧ x * 60 < se.2))) ∧
  (∀ (b : Bells) (after : Today) x, b.issuesFree after x = true ↔
    ∀ z ∈ after.zones.map (·.zone), nextIssue b.ring z (closeEnd after x z).period .endBell ≤ 255)

/-- PLAN TODAY: on a CLOSED SCHOOL record not done it replaces the plan and answers plain OK (log 14); on an OPEN one with every
entry PENDING it rebuilds the day, a sweep record that it adds starting at once where its cutoff has come (log 74); otherwise
it is refused (R38). The rebuilt register keeps its state and every presence; a record of a cancelled period is made as at day open (log 43), a
registration record is carried whole, and any other is UNSET (R94). -/
def Obligations.PlanTodayByTheDayRecord : Prop :=
  (∀ s sfx n ws, Listening s →
    (7 < n → exec (.planToday sfx n ws) s = .next (refusedWith s sfx .range)) ∧
    (n ≤ 7 → s.part.day = none → exec (.planToday sfx n ws) s = .next (refusedWith s sfx .state)) ∧
    (∀ r, n ≤ 7 → s.part.day = some r → r.phase = .closed →
      (r.kind = .school → r.done = false → exec (.planToday sfx n ws) s = .next (replied s
        (dayTests s.clock { heard s ws with day := some { r with plan := some n } }) sfx (ok []))) ∧
      (r.kind = .noSchool ∨ r.done = true → exec (.planToday sfx n ws) s = .next (refusedWith s sfx .state))) ∧
    (∀ r t, n ≤ 7 → s.part.day = some r → r.phase = .opened → s.part.bells.today = some t →
      ((∃ e ∈ s.part.bells.ring, e.state ≠ .pending) → exec (.planToday sfx n ws) s = .next (refusedWith s sfx .state)) ∧
      ((∀ e ∈ s.part.bells.ring, e.state = .pending) →
        let t' := { t with plan := s.part.work.plan n, early := none }
        let q := buildRing s.clock t' t.openReading
          { heard s ws with day := some { r with plan := some n }, bells.today := some t' }
        exec (.planToday sfx n ws) s = .next (replied s
          (tryClose s.clock (sweepsAfterPlan s.clock t' (registerAfterPlan s.clock t' q))) sfx (ok [nat q.bells.ring.length]))))) ∧
  (∀ (t : Today) z old m,
    let made := carriedMark t z old m
    let fresh := m.reg.map (fun _ => NoticeStatus.none)
    (t.cancelled m.number z = true → made = ⟨m, .notRequired, some .system, none, some 0, some t.openReading, none, fresh⟩) ∧
    (∀ a x, t.cancelled m.number z = false → m.reg = some x → old.find? (fun o => o.period.reg == some x) = some a →
      made = { a with period := m }) ∧
    (t.cancelled m.number z = false → (∀ x, m.reg = some x → ∀ o ∈ old, o.period.reg ≠ some x) →
      made = ⟨m, .unset, none, none, none, none, none, fresh⟩)) ∧
  (∀ c (t : Today) (p : Part) g, p.reg.register = some g → (p.pmu.outbox.map (·.id)).Nodup →
    ∃ h, (registerAfterPlan c t p).reg.register = some h ∧ h.periods = t.plan.marked ∧ h.state = g.state ∧
      h.onSite = g.onSite ∧ h.exporting = none ∧ h.tallies = countTallies h.periods h.slots ∧
      ∀ n x, p.slot? n = some x →
        let d := (Table.get? g.slots n).getD ⟨[], .notArrived, 0⟩
        (Table.get? h.slots n).map (fun e => (e.marks, e.presence))
          = some (t.plan.marked.map (carriedMark t x.zone d.marks), d.presence))

/-- RING: one entry for each named zone at the clock, reached at once, DUE in an ARMED zone and PASSED in another; and its
refusals in order (R39). -/
def Obligations.RingMakesManualEntries : Prop :=
  ∀ s sfx zones tone d, Listening s →
    let l := ringZones s.part zones
    (tone = none ∨ (∃ z ∈ l, 5 < z) ∨ noRepeat l = false ∨ d < 1 ∨ 30 < d →
      exec (.ring sfx zones tone d) s = .next (refusedWith s sfx .range)) ∧
    (∀ t, tone = some t → (∀ z ∈ l, z ≤ 5) → noRepeat l = true → 1 ≤ d → d ≤ 30 →
      ((∃ z ∈ l, s.part.zoneState z = none) → exec (.ring sfx zones tone d) s = .next (refusedWith s sfx .notFound)) ∧
      ((∀ z ∈ l, s.part.zoneState z ≠ none) → s.part.openDay = none ∨ s.part.ac.alert ≠ none →
        exec (.ring sfx zones tone d) s = .next (refusedWith s sfx .state)) ∧
      ((∀ z ∈ l, s.part.zoneState z ≠ none) → s.part.openDay ≠ none → s.part.ac.alert = none →
        s.part.bells.free < l.length → exec (.ring sfx zones tone d) s = .next (refusedWith s sfx .full)) ∧
      ((∀ z ∈ l, s.part.zoneState z ≠ none) → s.part.openDay ≠ none → s.part.ac.alert = none →
        l.length ≤ s.part.bells.free → (∀ z ∈ l, nextIssue s.part.bells.ring z none t ≤ 255) →
        exec (.ring sfx zones tone d) s = .next (replied s
          { heard s [] with bells := l.foldl (Bells.addManual s.clock t d s.part.armed) s.part.bells } sfx
          (ok [nat (l.filter s.part.armed).length]))))

/-- A PENDING entry whose time the clock reaches becomes DUE in an ARMED zone, with its stale wait begun, and PASSED in a
SILENCED, FAULTED or absent one; every other entry stands, and nothing else moves (R32). -/
def Obligations.ReachedEntryFollowsItsZone : Prop :=
  ∀ c t p, reachAt c t p = { p with bells.ring := p.bells.ring.map (fun e =>
    if e.state = .pending ∧ e.time = t then
      (match p.zoneState e.zone with
        | some (.up .armed) => { e with state := .due, dueSince := some c.crystal }
        | _ => { e with state := .passed })
    else e) }

/-- The effective times (R26, R27): start times 60 plus offset plus shift, not below 0; cancelled when the end lies beyond
86,399; and cut or cancelled by an early close. -/
def Obligations.EffectiveTimesOfAPeriod : Prop :=
  ∀ (t : Today) q z,
    let s := ((q.start : Int) * 60 + ((t.zone? z).map (·.offset)).getD 0 + (t.delayTotal : Int) * 60).toNat
    let e := s + q.length * 60
    (86399 < e → t.periodTimes q z = none) ∧
    (e ≤ 86399 → t.early = none → t.periodTimes q z = some (s, e)) ∧
    (∀ x, e ≤ 86399 → t.early = some x →
      (e ≤ x * 60 → t.periodTimes q z = some (s, e)) ∧
      (s < x * 60 → x * 60 < e → t.periodTimes q z = some (s, x * 60)) ∧
      (x * 60 ≤ s → x * 60 < e → t.periodTimes q z = none))

/-! ## The zone bus -/

/-- BROADCAST on an IDLE bus: the DUE entries of the highest tone, whatever their zone, become SOUNDING; their zones are the
members in address order; SOUND goes out with the longest contribution (log 21 for a zone outside today's copy); the issue is
recorded. Without a DUE entry, or on a busy bus, nothing happens (log 1). SOUNDING_END: once the duration plus 1 s has passed
on the crystal since the issue, the fetch begins at the first member; before that nothing happens (log 1). A broadcast with no
members sends no SOUND and ends with its wait (log 45) (R44 to R46). -/
def Obligations.BroadcastSoundsTheHighestToneThenFetches : Prop :=
  ∀ s : State,
    (∀ tone, s.part.zbus.bus = .idle → dueTone s.part.bells.ring = some tone →
      let mine := s.part.bells.ring.filter (fun e => e.state == .due && e.tone == tone)
      let members := membersOf s.part.work (zoneNumbers.filter (fun z => mine.any (fun e => e.zone == z)))
      let d := (greatest (mine.map (contribution s.part.bells.today))).getD 0
      exec .broadcast s = .next (left s { met s [] with
        bells.ring := s.part.bells.ring.map (fun e =>
          if e.state == .due && e.tone == tone then { e with state := .sounding, dueSince := none } else e)
        zbus.bus := .sounding
        zbus.broadcast := some { tone := .bell tone, members := members, duration := d, issueTime := s.clock.second?
                                 issuedAt := s.clock.crystal, position := 0 }
        out := if members.isEmpty then [] else [.sound (addresses members) (.bell tone) (some d)] })) ∧
    (s.part.zbus.bus ≠ .idle ∨ (∀ e ∈ s.part.bells.ring, e.state ≠ .due) →
      exec .broadcast s = .next (left s (met s []))) ∧
    (∀ tone, dueTone s.part.bells.ring = some tone →
      (∃ e ∈ s.part.bells.ring, e.state = .due ∧ e.tone = tone) ∧
      (∀ e ∈ s.part.bells.ring, e.state = .due →
        [BellTone.endBell, .ring, .warn, .test].idxOf tone ≤ [BellTone.endBell, .ring, .warn, .test].idxOf e.tone)) ∧
    (∀ b, s.part.zbus.broadcast = some b →
      (s.part.zbus.bus = .sounding → b.issuedAt + (b.duration + 1) * 16 ≤ s.clock.crystal →
        (∀ m rest, b.members = m :: rest → exec .soundingEnd s = .next (left s { met s [] with
          zbus.bus := .fetching, zbus.broadcast := some { b with position := 0 }, out := [.statusTo m.address] })) ∧
        (b.members = [] → exec .soundingEnd s = .next (left s { met s [] with
          zbus.bus := .idle, zbus.broadcast := none }))) ∧
      (s.part.zbus.bus ≠ .sounding ∨ s.clock.crystal < b.issuedAt + (b.duration + 1) * 16 →
        exec .soundingEnd s = .next (left s (met s []))))

/-- The exchanges of a fetch (R42, R46; log 22 and log 50 for the zone and address of a member): READY and SOUNDING settle the
member's SOUNDING entries as RUNG and may bring its zone back, SOUNDING is sent STOP, a fault code or the end of the window
settles them as FAILED and faults the zone; then comes the next member. An answer from another address is discarded. -/
def Obligations.FetchOutcomeSettlesTheMember : Prop :=
  ∀ (s : State) b m, s.part.zbus.bus = .fetching → s.part.zbus.broadcast = some b → b.members[b.position]? = some m →
    let c := s.clock
    let settled : Bool → Part := fun ok => { met s [] with bells.ring := s.part.bells.ring.map (fun e =>
      if e.state = .sounding ∧ e.zone = m.zone then
        (if ok then { e with state := .rung, lateBy := some (b.issueTime.getD 0 - e.time) } else { e with state := .failed })
      else e) }
    let next : Part → State := fun p => left s (fetchAt b (b.position + 1) p)
    exec (.statusAnswer m.address .ready) s = .next (next (recoverZone c m (settled true))) ∧
    exec (.statusAnswer m.address .sounding) s = .next (next (emit (.stop [m.address]) (recoverZone c m (settled true)))) ∧
    (∀ f, exec (.statusAnswer m.address (.fault f)) s = .next (next (faultZone c m (.driver f) (settled false)))) ∧
    exec .statusWindowEnd s = .next (next (faultZone c m .noReply (settled false))) ∧
    (∀ a o, a ≠ m.address → exec (.statusAnswer a o) s = .next (left s (met s [])))

/-- What a fault and a recovery do to a zone (R47, R50): FAULTED with the state it left remembered, fault memory, ZONE_FAULT, and
its DUE entries PASSED; a zone already FAULTED takes the new memory alone; a recovery takes the remembered state with
ZONE_OK and keeps the memory; an absent zone is left alone. The notices carry the
address asked (log 50). -/
def Obligations.ZoneFaultAndRecovery : Prop :=
  ∀ c m code p,
    (p.zoneState m.zone = none → faultZone c m code p = p ∧ recoverZone c m p = p) ∧
    (∀ a, p.zoneState m.zone = some (.up a) → recoverZone c m p = p ∧
      (let q : Part := { p with bells.zoneStates := p.bells.zoneStates.setIfInBounds m.zone (some (.faulted a))
                                zbus.faults := p.zbus.faults.setIfInBounds m.zone ⟨some code, c.stamp⟩ }
       let r := raise c (.zoneFault m.zone m.address code) q
       faultZone c m code p = { r with bells.ring := r.bells.ring.map (fun e =>
         if e.state = .due ∧ e.zone = m.zone then { e with state := .passed, dueSince := none } else e) })) ∧
    (∀ a, p.zoneState m.zone = some (.faulted a) →
      faultZone c m code p = { p with zbus.faults := p.zbus.faults.setIfInBounds m.zone ⟨some code, c.stamp⟩ } ∧
      recoverZone c m p = raise c (.zoneOk m.zone m.address)
        { p with bells.zoneStates := p.bells.zoneStates.setIfInBounds m.zone (some (.up a)) })

/-- STATUS_POLL: due, awake, no DUE entry and the bus free: poll due moves 60 s on and the first present zone is asked, or with
none the poll ends at once; otherwise nothing happens (log 1). Each exchange acts by its outcome and the alert state, on the
zone and address of the member as the list was formed (log 22, log 50), and then comes the next member (R44, R49, R50). -/
def Obligations.StatusPollAsksPresentZones : Prop :=
  ∀ s : State,
    let ready := s.part.zbus.pollDue ≤ s.clock.crystal ∧ s.part.hl.activity ≠ .dormant ∧
      (∀ e ∈ s.part.bells.ring, e.state ≠ .due) ∧
      (s.part.zbus.bus = .idle ∨ (s.part.zbus.bus = .alert ∧ s.part.zbus.poll = none))
    let due := s.clock.crystal + 960
    (∀ m rest, ready → s.part.work.presentMembers = m :: rest → exec .statusPoll s = .next (left s { met s [] with
      zbus.pollDue := due, zbus.bus := if s.part.zbus.bus = .alert then .alert else .polling
      zbus.poll := some ⟨m :: rest, 0⟩, out := [.statusTo m.address] })) ∧
    (ready → s.part.work.presentMembers = [] → exec .statusPoll s = .next (left s { met s [] with
      zbus.pollDue := due, zbus.poll := none })) ∧
    (¬ ready → exec .statusPoll s = .next (left s (met s []))) ∧
    (∀ l m, s.part.zbus.bus = .polling ∨ s.part.zbus.bus = .alert →
      s.part.zbus.poll = some l → l.members[l.position]? = some m →
      let c := s.clock
      let p := met s []
      let next : Part → State := fun q => left s (pollAt l.members (l.position + 1) q)
      (s.part.zoneState m.zone ≠ none → s.part.ac.alert = none →
        exec (.statusAnswer m.address .ready) s = .next (next (recoverZone c m p)) ∧
        exec (.statusAnswer m.address .sounding) s = .next (next (emit (.stop [m.address]) (recoverZone c m p)))) ∧
      (∀ a, s.part.zoneState m.zone ≠ none → s.part.ac.alert = some a →
        exec (.statusAnswer m.address .ready) s
          = .next (next (emit (.sound [m.address] (alertTone a.kind) none) (recoverZone c m p))) ∧
        exec (.statusAnswer m.address .sounding) s = .next (next (recoverZone c m p))) ∧
      (∀ f, exec (.statusAnswer m.address (.fault f)) s = .next (next (faultZone c m (.driver f) p))) ∧
      exec .statusWindowEnd s = .next (next (faultZone c m .noReply p)) ∧
      (s.part.zoneState m.zone = none → ∀ o, exec (.statusAnswer m.address o) s = .next (next p)) ∧
      (∀ a o, a ≠ m.address → exec (.statusAnswer a o) s = .next (left s p)))

/-- The stale wait (R48): it begins when an entry becomes DUE, and anew when a warm restart carries it as DUE; 60 s later on the
crystal an entry still DUE becomes PASSED with BELL_MISSED when STALE_WAIT_END comes (log 2); before that, or for an entry that
has left DUE, nothing happens (log 1). That a warm restart carries it as DUE is R41. -/
def Obligations.StaleWaitPassesADueEntry : Prop :=
  (∀ (s : State) e k, s.part.bells.ring.find? (fun x => x.key == k) = some e →
      (∀ x ∈ s.part.bells.ring, x.key = k → x = e) →
      (∀ at', e.state = .due → e.dueSince = some at' → at' + 960 ≤ s.clock.crystal →
        exec (.staleWaitEnd k) s = .next (left s (raise s.clock (.bellMissedStale e.zone e.period e.tone e.time)
          { met s [] with bells.ring := s.part.bells.ring.map (fun x =>
              if x.key = k then { x with state := .passed, dueSince := none } else x) }))) ∧
      (e.state ≠ .due ∨ (∃ at', e.dueSince = some at' ∧ s.clock.crystal < at' + 960) →
        exec (.staleWaitEnd k) s = .next (left s (met s [])))) ∧
  (∀ c e, (RingEntry.reached c true e).dueSince = some c.crystal ∧ (RingEntry.reached c true e).state = .due) ∧
  (∀ c (old e : RingEntry), old.state = .due → (RingEntry.carry c old e).state = .due ∧
    (RingEntry.carry c old e).dueSince = some c.crystal) ∧
  (∀ (e : RingEntry), e.pass.dueSince = none)

/-! ## Roster and settings -/

/-- The settings that a request writes whole: TEMPLATE PUT, SCHOOL SET, TEMPLATE MAP, CONTACT PUT, SCORE SET with every level,
GATEWAY SET and STATION SET with the stations it makes present or absent, an open exchange with one of which is void (log 37);
and their refusals (R60, R61, R69, R70, R99, R176). -/
def Obligations.SettingsAreWrittenWhole : Prop :=
  ∀ s sfx ws, Listening s →
    (Kept ws →
      (∀ t l, t ≤ 31 → templateOk l = true → exec (.templatePut sfx t l ws) s = .next (replied s
        (written s ws [.template t] (fun img => { img with templates := img.templates.setIfInBounds t (some l) })) sfx (ok []))) ∧
      (∀ name, name.length ≤ 40 → exec (.schoolSet sfx name ws) s = .next (replied s
        (written s ws [.school] (fun img => { img with school := name })) sfx (ok []))) ∧
      (∀ e t, t ≤ 31 → s.part.work.template t ≠ none → exec (.templateMap sfx (some e) t ws) s = .next (replied s
        (written s ws [.templateMap]
          (fun img => { img with templateMap := img.templateMap.setIfInBounds (mapIndex e) t })) sfx (ok []))) ∧
      (∀ n number ch, n < 4096 → allDigits number = true → number.length ≤ 15 →
        exec (.contactPut sfx n number (some ch) ws) s = .next (replied s
          (written s ws [.contact n]
            (fun img => { img with contacts := Table.put img.contacts n ⟨some number, ch, false⟩ })) sfx (ok []))) ∧
      (∀ t1 t2 t3 h d, 1 ≤ t1 → t1 < t2 → t2 < t3 → t3 ≤ 65535 → h ≤ 4095 → d ≤ 255 →
        let level : Slot → Nat := fun x => ([t1, t2, t3].filter (fun t => decide (t ≤ x.score))).length
        exec (.scoreSet sfx t1 t2 t3 h d ws) s = .next (replied s
          (written s ws (.policy :: s.part.work.slots.map (fun e => .slot e.1))
            (fun img => { img with policy := ⟨t1, t2, t3, h, d⟩
                                   slots := img.slots.map (fun e => (e.1, { e.2 with level := level e.2 })) })) sfx
          (ok [nat (s.part.work.slots.filter (fun e => e.2.level != level e.2)).length]))) ∧
      (∀ pace a b x y settle band, minuteOf a = some x → minuteOf b = some y → x < y → 1 ≤ pace → pace ≤ 60 → settle ≤ 30 →
        1 ≤ band → band ≤ 60 → exec (.gatewaySet sfx pace a b settle band ws) s = .next (replied s
          (written s ws [.gateway] (fun img => { img with gateway := ⟨pace, x, y, settle, band⟩ })) sfx (ok []))) ∧
      (∀ given l, allKnown given = some l → (∀ n ∈ l, n ≤ 3) → noRepeat l = true →
        let kept := [0, 1, 2, 3].filter (fun n => l.contains n)
        let q := written s ws [.stations] (fun img => { img with stations := kept })
        exec (.stationSet sfx given ws) s = .next (replied s
          { q with desk.stations := Vector.ofFn (fun i =>
                     if kept.contains i.val then
                       if (s.part.station i.val).state = .absent then Station.fresh else s.part.station i.val
                     else Station.absent)
                   desk.toPoll := s.part.desk.toPoll.filter (fun n =>
                     !((s.part.station n).state == .absent && kept.contains n))
                   desk.asking := s.part.desk.asking.map (fun x =>
                     { x with void := x.void || ((s.part.station x.station).state == .absent) == kept.contains x.station }) }
          sfx (ok [])))) ∧
    (∀ t l, 31 < t ∨ templateOk l = false → exec (.templatePut sfx t l ws) s = .next (refusedWith s sfx .range)) ∧
    (∀ name, 40 < name.length → exec (.schoolSet sfx name ws) s = .next (refusedWith s sfx .range)) ∧
    (∀ t, exec (.templateMap sfx none t ws) s = .next (refusedWith s sfx .malformed)) ∧
    (∀ e t, 31 < t → exec (.templateMap sfx (some e) t ws) s = .next (refusedWith s sfx .range)) ∧
    (∀ e t, t ≤ 31 → s.part.work.template t = none →
      exec (.templateMap sfx (some e) t ws) s = .next (refusedWith s sfx .notFound)) ∧
    (∀ n number ch, 4095 < n ∨ allDigits number = false ∨ 15 < number.length ∨ ch = none →
      exec (.contactPut sfx n number ch ws) s = .next (refusedWith s sfx .range)) ∧
    (∀ t1 t2 t3 h d, t1 < 1 ∨ t2 ≤ t1 ∨ t3 ≤ t2 ∨ 65535 < t3 ∨ 4095 < h ∨ 255 < d →
      exec (.scoreSet sfx t1 t2 t3 h d ws) s = .next (refusedWith s sfx .range)) ∧
    (∀ pace a b settle band, minuteOf a = none ∨ minuteOf b = none ∨ (∃ x y, minuteOf a = some x ∧ minuteOf b = some y ∧ y ≤ x)
        ∨ pace < 1 ∨ 60 < pace ∨ 30 < settle ∨ band < 1 ∨ 60 < band →
      exec (.gatewaySet sfx pace a b settle band ws) s = .next (refusedWith s sfx .range)) ∧
    (∀ given, none ∈ given ∨ (∃ n, some n ∈ given ∧ 3 < n) ∨ ¬ given.Nodup →
      exec (.stationSet sfx given ws) s = .next (refusedWith s sfx .range))

/-- PUPIL PUT by its checks and the slot's state, and PUPIL REMOVE by the slot's state and the day (R64 to R67): a VACANT slot is
enrolled with score and level 0, an ENROLLED one keeps its score and level, a LEFT one is reinstated under its own number; a
removal drops the slot's excuse records, withdraws its outbox entries, and leaves the slot LEFT while the day is OPEN, VACANT
otherwise.

An enrolment during the open day (R65, R78 to R80, R110): NOT_ARRIVED, a record for each marked period by the table of R65 (set
at the second of the enrolment, log 55; log 8 for a record past midnight), each counted in its tally, the change sequence
advanced once, and no first arrival. A reinstatement then: UNSET registration records whose sweep has begun become NOT_REQUIRED,
with one advance when a record changed and none otherwise (log 41). -/
def Obligations.PupilPutAndRemoveBySlotState : Prop :=
  (∀ s sfx ws, Listening s →
    (∀ n number name year zone contacts late priority,
      let put := Instr.pupilPut sfx n number name year zone contacts late priority ws
      let x : Slot := ⟨.enrolled, number, name, year, zone, contacts, late, priority, 0, 0⟩
      let known := ∀ i ∈ contacts, (s.part.work.contact i).number ≠ none
      let free := ∀ e ∈ s.part.work.slots, e.1 ≠ n → e.2.number ≠ number
      let store := fun (y : Slot) =>
        written s ws [.slot n] (fun img => { img with slots := Table.put img.slots n y })
      (pupilFieldsOk n number name year zone contacts = false → exec put s = .next (refusedWith s sfx .range)) ∧
      (pupilFieldsOk n number name year zone contacts = true →
        (¬ known → exec put s = .next (refusedWith s sfx .notFound)) ∧
        (known → ¬ free → exec put s = .next (refusedWith s sfx .state)) ∧
        (known → free →
          (Kept ws → s.part.slot? n = none → s.part.openDay = none →
            exec put s = .next (replied s (store x) sfx (ok [.word "NEW"]))) ∧
          (Kept ws → s.part.slot? n = none → s.part.openDay ≠ none →
            exec put s = .next (replied s (enrolToday s.clock n zone (store x)) sfx (ok [.word "NEW"]))) ∧
          (∀ o, s.part.slot? n = some o →
            (Kept ws → o.state = .enrolled →
              exec put s = .next (replied s (store { x with score := o.score, level := o.level }) sfx (ok []))) ∧
            (Kept ws → o.state = .left → o.number = number →
              exec put s = .next (replied s (reinstateToday s.clock n (store { x with score := o.score, level := o.level })) sfx
                (ok [.word "BACK"]))) ∧
            (o.state = .left → o.number ≠ number → exec put s = .next (refusedWith s sfx .state)))))) ∧
    (∀ r, pupilInRange r = false → exec (.pupilRemove sfx r ws) s = .next (refusedWith s sfx .range)) ∧
    (∀ r, pupilInRange r = true → s.part.work.pupil r = none →
      exec (.pupilRemove sfx r ws) s = .next (refusedWith s sfx .notFound)) ∧
    (∀ r n x, pupilInRange r = true → s.part.work.pupil r = some (n, x) →
      let dropped := fun (img : Image) => img.excuses.filter (fun e => e.slot != n)
      (x.state = .enrolled → s.part.openDay ≠ none → Kept ws → exec (.pupilRemove sfx r ws) s = .next (replied s
        (withdrawAll s.clock (fun e => e.slot? == some n) (written s ws [.slot n, .excuses] (fun img =>
          { img with slots := Table.put img.slots n { x with state := .left }, excuses := dropped img }))) sfx
        (ok [.word "LEFT"]))) ∧
      (x.state = .enrolled → s.part.openDay = none → Kept ws → exec (.pupilRemove sfx r ws) s = .next (replied s
        (withdrawAll s.clock (fun e => e.slot? == some n) (written s ws [.slot n, .excuses] (fun img =>
          { img with slots := Table.erase img.slots n, excuses := dropped img }))) sfx (ok [.word "VACANT"]))) ∧
      (x.state = .left → s.part.openDay ≠ none →
        exec (.pupilRemove sfx r ws) s = .next (replied s (heard s ws) sfx (ok [.word "LEFT"]))))) ∧
  (∀ c n z (p : Part) r t g, p.openDay = some r → p.bells.today = some t → p.reg.register = some g →
    let marks := g.periods.map (enrolledMark c p r t z)
    let q := min (g.changes + 1) 4294967295
    ∃ l : List Tally, enrolToday c n z p = { p with
        reg.register := some { g with slots := Table.put g.slots n ⟨marks, .notArrived, q⟩, changes := q, tallies := l }
        desk.firstArrivals := Table.erase p.desk.firstArrivals n } ∧
      (g.tallies.map (·.period) = g.periods → (g.periods.map (·.number)).Nodup →
        l.length = g.tallies.length ∧
        ∀ (i : Nat) y, g.tallies[i]? = some y → ∃ y' : Tally, l[i]? = some y' ∧ y'.period = y.period ∧
          y'.minor = y.minor ∧ y'.major = y.major ∧ y'.afterClose = y.afterClose ∧
          ∀ v, y'.count v = y.count v + if v = (enrolledMark c p r t z y.period).value then 1 else 0)) ∧
  (∀ c (p : Part) r (t : Today) z (m : MarkedPeriod),
    let fresh := m.reg.map (fun _ => NoticeStatus.none)
    let off : Mark := ⟨m, .notRequired, some .system, none, some 0, c.second?, none, fresh⟩
    let unset : Mark := ⟨m, .unset, none, none, none, none, none, fresh⟩
    (t.effective m.number z = none → enrolledMark c p r t z m = off) ∧
    (∀ x w, t.effective m.number z ≠ none → m.reg = some x → p.sweeps.get? x = some w →
      enrolledMark c p r t z m = if w.state = .waiting then unset else off) ∧
    (∀ s e, m.reg = none → t.effective m.number z = some (s, e) →
      enrolledMark c p r t z m = if s ≤ c.dayNow r then off else unset)) ∧
  (∀ c n (p : Part),
    (∀ g, p.reg.register = some g → g.slot? n = none → reinstateToday c n p = p) ∧
    (p.reg.register = none → reinstateToday c n p = p) ∧
    (∀ g d, p.reg.register = some g → g.slot? n = some d →
      let begun := fun x => ∃ w, p.sweeps.get? x = some w ∧
        (w.state = .running ∨ w.state = .blocked ∨ w.state = .suspended ∨ w.state = .done)
      let marks := d.marks.map (reinstatedMark c p)
      let q := min (g.changes + 1) 4294967295
      (∀ m x, m.period.reg = some x → m.value = .unset → begun x →
        reinstatedMark c p m = ⟨m.period, .notRequired, some .system, none, some 0, c.second?, none, m.notice⟩) ∧
      (∀ m, m.value ≠ .unset ∨ (∀ x, m.period.reg = some x → ¬ begun x) → reinstatedMark c p m = m) ∧
      (marks = d.marks → reinstateToday c n p = p) ∧
      (marks ≠ d.marks → ∃ l : List Tally, reinstateToday c n p = { p with reg.register := some { g with
          slots := Table.put g.slots n { d with marks := marks, lastChange := q }, changes := q, tallies := l } } ∧
        ((d.marks.map (·.period.number)).Nodup →
          l.length = g.tallies.length ∧
          ∀ (i : Nat) y, g.tallies[i]? = some y → ∃ y' : Tally, l[i]? = some y' ∧ y'.period = y.period ∧
            ∀ m ∈ d.marks, m.period.number = y.period.number → 1 ≤ y.count m.value → ∀ v,
              y'.count v + (if v = m.value then 1 else 0) = y.count v + if v = (reinstatedMark c p m).value then 1 else 0))))

/-! ## The day register -/

/-- The precedence table (R76): which writer may overwrite which record; and a write that is not allowed changes nothing. -/
def Obligations.PrecedenceOfTheSixWriters : Prop :=
  (∀ (w : Write) (m : Mark), w.writer = .sweep → (w.allowed m = true ↔ m.value = .unset)) ∧
  (∀ (w : Write) (m : Mark), w.writer = .station → (w.allowed m = true ↔ m.value = .unset ∨ m.source = some .sweep ∨ m.source = some .parent
    ∨ m.source = some .station ∨ (m.value = .absent ∧ m.source = some .teacher))) ∧
  (∀ (w : Write) (m : Mark), w.writer = .teacher → (w.allowed m = true ↔ m.source ≠ some .office ∧ m.source ≠ some .system)) ∧
  (∀ (w : Write) (m : Mark), w.writer = .parent → (w.allowed m = true ↔
    (m.value = .absent ∧ m.source = some .sweep ∧ w.value = .absentExcused)
      ∨ (m.value = .late ∧ m.source = some .station ∧ w.value = .lateExcused))) ∧
  (∀ (w : Write) (m : Mark), w.writer = .office → w.allowed m = true) ∧
  (∀ (w : Write) (m : Mark), w.writer = .system → (w.allowed m = true ↔ m.source ≠ some .office)) ∧
  (∀ c (w : Write) n k (p : Part) m, p.mark? n k = some m → w.allowed m = false → writeMark c w n k p = (p, false)) ∧
  (∀ c (w : Write) n k (p : Part) m, p.mark? n k = some m → w.allowed m = true → (writeMark c w n k p).2 = true) ∧
  (∀ s sfx r (h : HostMark) n x k m, Listening s → pupilInRange r = true → s.part.work.pupil r = some (n, x) →
    readMark h true s.part = .ok k → s.part.mark? n k.period = some m → k.write.allowed m = false →
    exec (.markSet sfx r h.period h.value h.minutes h.reason h.source) s = .next (refusedWith s sfx .state))

/-- What an applied write leaves in the register (R73, R77 to R80, R82): the record's items, presence and the on-site count, one count
moved in the period's tally, and the change sequence advanced once and given to the slot. UNSET keeps the notice status that
stands (log 68).

The write that precedence allows is that change of the register and what follows on the outbox (R86 to R88). Over status PENDING,
an arrival withdraws the ABSENCE entry, and where a contact of it was handed over a CORRECTION entry is asked for and the status
is CORRECTED, or NONE when it is refused or nothing was handed over; an excusing or releasing value withdraws it and sets NONE;
ABSENT and UNSET keep it. A write of another value over a station LATE withdraws the LATE entry. A status change moves nothing
else in the register. When an ABSENCE entry leaves, PENDING becomes SENT, EXPIRED or NONE. -/
def Obligations.AppliedWriteMovesRecordCountAndSequence : Prop :=
  (∀ c (w : Write) n d m g, let t := Register.apply c w n d m g
    (w.value ≠ .unset →
      let minutes := if w.value = .late ∨ w.value = .lateExcused then
          (if w.writer = .parent then m.minutes else w.minutes.map (fun x => min x 240)) else none
      let reason := if w.writer = .sweep ∨ w.writer = .parent ∨ w.writer = .system then 0 else w.reason
      let band := if w.writer = .station ∧ w.value = .late ∧ m.period.reg ≠ none then w.band else none
      w.result c m = ⟨m.period, w.value, some w.writer, minutes, some reason, c.second?, band, m.notice⟩) ∧
    (w.value = .unset → w.result c m = ⟨m.period, .unset, none, none, none, none, none, m.notice⟩) ∧
    t.changes = min (g.changes + 1) 4294967295 ∧ t.state = g.state ∧ t.periods = g.periods ∧ t.exporting = g.exporting ∧
    (∀ j, j ≠ n → t.slot? j = g.slot? j) ∧
    (∃ e, t.slot? n = some e ∧ e.lastChange = t.changes ∧ e.marks.length = d.marks.length ∧
      (∀ k, d.mark? m.period.number = some k → e.mark? m.period.number = some (w.result c m)) ∧
      (∀ k, k ≠ m.period.number → e.mark? k = d.mark? k) ∧
      (e.presence = if (w.value = .present ∨ w.value = .late ∨ w.value = .lateExcused) ∧ d.presence = .notArrived then .onSite
                    else d.presence) ∧
      (t.onSite = if e.presence = .onSite ∧ d.presence ≠ .onSite then g.onSite + 1 else g.onSite)) ∧
    (∀ k, k ≠ m.period.number → t.tallies.filter (fun x => x.period.number == k) = g.tallies.filter (fun x => x.period.number == k)) ∧
    (∀ x ∈ g.tallies, x.period.number = m.period.number → 1 ≤ x.count m.value →
      ∃ y ∈ t.tallies, y.period = x.period ∧ y.total = x.total ∧
        ∀ v, y.count v + (if v = m.value then 1 else 0) = x.count v + (if v = w.value then 1 else 0))) ∧
  (∀ c (w : Write) n k (p : Part) g d m, p.reg.register = some g → g.slot? n = some d → d.mark? k = some m →
    w.allowed m = true →
    writeMark c w n k p
      = (writeFollows c w.value n m { p with reg.register := some (Register.apply c w n d m g) }, true)) ∧
  (∀ c v n (m : Mark) (p : Part),
    (m.period.reg = none → writeFollows c v n m p = p) ∧
    (∀ x, m.period.reg = some x →
      let late : Part → Part := fun q =>
        if m.value = .late ∧ m.source = some .station ∧ v ≠ .late then (withdrawFor c .late n x q).1 else q
      let off := withdrawFor c .absence n x p
      let arrival := v = .present ∨ v = .late ∨ v = .lateExcused
      (m.notice ≠ some .pending ∨ v = .absent ∨ v = .unset → writeFollows c v n m p = late p) ∧
      (m.notice = some .pending → v = .absentExcused ∨ v = .offsite ∨ v = .notRequired →
        writeFollows c v n m p = late (setNotice n x .none off.1)) ∧
      (m.notice = some .pending → arrival → off.2.handed = false →
        writeFollows c v n m p = late (setNotice n x .none off.1)) ∧
      (m.notice = some .pending → arrival → off.2.handed = true →
        let made := createOrReport c ⟨.correction, .slot n (off.2.contacts.map (fun k => ⟨k, .waiting⟩)), some x,
          .template (p.work.mapped .correction), c.second?, none, none, 0⟩ off.1
        writeFollows c v n m p = late (setNotice n x (if made.2 = .refused then .none else .corrected) made.1)))) ∧
  (∀ n x st (p : Part),
    (p.regMark? n x = none → setNotice n x st p = p) ∧
    (∀ m, p.regMark? n x = some m → let q := setNotice n x st p
      q.regMark? n x = some { m with notice := some st } ∧
      (∀ j k, j ≠ n ∨ k ≠ m.period.number → q.mark? j k = p.mark? j k) ∧
      (∀ g, p.reg.register = some g → ∃ l, q = { p with reg.register := some { g with slots := l } }))) ∧
  (∀ n x delivered failed (p : Part),
    (∀ m, p.regMark? n x = some m → m.notice = some .pending → reportLeaving n x delivered failed p
      = setNotice n x (if delivered then .sent else if failed then .expired else .none) p) ∧
    ((∀ m, p.regMark? n x = some m → m.notice ≠ some .pending) → reportLeaving n x delivered failed p = p))

/-- MARK SET in its order of decision, and MARK BATCH item by item (R81 to R83): the request's first three steps are `readMark`,
then the slot, then UNSET under a begun sweep, then precedence. A batch answers one line for each item, the pupil as written and
its status, and each item is a write of its own. Which periods are ERR RANGE and which ERR STATE without an open day is log 40. -/
def Obligations.MarkRequestsAreDecidedInOrder : Prop :=
  ∀ s sfx (h : HostMark), Listening s →
    (∀ b, h.value = none → readMark h b s.part = .error .malformed) ∧
    (∀ b v, h.value = some v → (h.minutes ≠ none ↔ (v ≠ .late ∧ v ≠ .lateExcused)) →
      readMark h b s.part = .error .malformed) ∧
    (∀ b v, h.value = some v → (h.minutes ≠ none ↔ (v = .late ∨ v = .lateExcused)) →
      (h.source = none ∨ b = false ∨ 7 < h.reason ∨ s.part.periodInRange h.period = false ∨ h.minutes = some 0 →
        readMark h b s.part = .error .range) ∧
      (∀ src, h.source = some src → b = true → h.reason ≤ 7 → s.part.periodInRange h.period = true → h.minutes ≠ some 0 →
        (s.part.openDay = none → readMark h b s.part = .error .state) ∧
        (∀ t k, s.part.openDay ≠ none → s.part.bells.today = some t → t.markedPeriod h.period = some k →
          readMark h b s.part = .ok ⟨k, ⟨hostWriter src, v, h.minutes, h.reason, none⟩⟩))) ∧
    (∀ r e, readMark h (pupilInRange r) s.part = .error e →
      exec (.markSet sfx r h.period h.value h.minutes h.reason h.source) s = .next (refusedWith s sfx e)) ∧
    (∀ r k, readMark h (pupilInRange r) s.part = .ok k →
      let go := Instr.markSet sfx r h.period h.value h.minutes h.reason h.source
      (s.part.work.pupil r = none → exec go s = .next (refusedWith s sfx .notFound)) ∧
      (∀ n x m, s.part.work.pupil r = some (n, x) → s.part.mark? n k.period = some m →
        (∀ y, k.write.value = .unset → m.period.reg = some y → s.part.sweepBegun y = true →
          exec go s = .next (refusedWith s sfx .state)) ∧
        (k.write.value ≠ .unset ∨ m.period.reg = none ∨ (∃ y, m.period.reg = some y ∧ s.part.sweepBegun y = false) →
          k.write.allowed m = true →
          let q := (writeMark s.clock k.write n k.period (heard s [])).1
          exec go s = .next (replied s q sfx (ok [.word (valueWord k.write.value), nat q.changes]))))) ∧
    (∀ l, l = [] ∨ 32 < l.length →
      exec (.markBatch sfx h.period h.value h.minutes h.reason h.source l) s = .next (refusedWith s sfx .malformed)) ∧
    (∀ l e, l ≠ [] → l.length ≤ 32 → readMark h true s.part = .error e →
      exec (.markBatch sfx h.period h.value h.minutes h.reason h.source l) s = .next (refusedWith s sfx e)) ∧
    (∀ l k, l ≠ [] → l.length ≤ 32 → readMark h true s.part = .ok k →
      let x := batchItems s.clock k l (heard s [])
      x.2.length = l.length ∧ exec (.markBatch sfx h.period h.value h.minutes h.reason h.source l) s
        = .next (replied s x.1 sfx { data := x.2, closing := [.word "OK", nat l.length], sfx := false })) ∧
    (∀ c k p, batchItems c k [] p = (p, []) ∧ ∀ (r : WrittenPupil) l,
      let x := batchItem c k p r.ref
      let y := batchItems c k l x.1
      batchItems c k (r :: l) p = (y.1, (.plain r.written :: x.2) :: y.2) ∧
      (pupilInRange r.ref = false → x = (p, [.word "RANGE"])) ∧
      (pupilInRange r.ref = true → p.work.pupil r.ref = none → x = (p, [.word "NOTFOUND"])) ∧
      (∀ n v m, pupilInRange r.ref = true → p.work.pupil r.ref = some (n, v) → p.mark? n k.period = some m →
        let held := k.write.value = .unset ∧ ∃ z, m.period.reg = some z ∧ p.sweepBegun z = true
        (held ∨ k.write.allowed m = false → x = (p, [.word "STATE"])) ∧
        (¬ held → k.write.allowed m = true →
          x = ((writeMark c k.write n k.period p).1, [.word "OK", .word (valueWord k.write.value)]))))

/-- EXPORT and EXPORT NEXT (R89, R90): a field outside its range, a dir or end that is no word of its table, and a period not
marked in today's plan or named twice are ERR RANGE; without a register a list that stands by itself is ERR STATE and another
ERR RANGE (log 40). Otherwise a block is answered: slots are visited from the position in the direction, round the ring of
3,072, a VACANT one without a line (log 66 for one without records), until the block is full or the count is visited; then the export goes on, ends or wraps. A
line is flagged CHANGED when its slot changed after the epoch, or when both stand at the greatest value. -/
def Obligations.ExportVisitsSlotsInBlocks : Prop :=
  (∀ s sfx first count dir f block e, Listening s →
    let go := Instr.exportStart sfx first count dir f block e
    let fits := first ≤ 3071 ∧ 1 ≤ count ∧ count ≤ 3072 ∧ 1 ≤ block ∧ block ≤ 64
    (¬ fits ∨ dir = none ∨ e = none → exec go s = .next (refusedWith s sfx .range)) ∧
    (∀ d w, fits → dir = some d → e = some w →
      (s.part.reg.register = none → bareListOk f = true → exec go s = .next (refusedWith s sfx .state)) ∧
      (s.part.reg.register = none → bareListOk f = false → exec go s = .next (refusedWith s sfx .range)) ∧
      (∀ g t, s.part.reg.register = some g → s.part.bells.today = some t →
        (exportPeriods t f = none → exec go s = .next (refusedWith s sfx .range)) ∧
        (∀ l, exportPeriods t f = some l →
          let x : Export := ⟨first, count, d, l, block, w, first, 0, g.changes⟩
          let y := exportBlock x (heard s [])
          exec go s = .next (replied s y.1 sfx y.2))))) ∧
  (∀ s sfx, Listening s →
    (s.part.reg.register = none ∨ (∃ g, s.part.reg.register = some g ∧ g.exporting = none) →
      exec (.exportNext sfx) s = .next (refusedWith s sfx .state)) ∧
    (∀ g x, s.part.reg.register = some g → g.exporting = some x →
      let y := exportBlock x (heard s [])
      exec (.exportNext sfx) s = .next (replied s y.1 sfx y.2))) ∧
  (bareListOk .all = true ∧ ∀ l, bareListOk (.list l) = true ↔ l.Nodup ∧ ∀ n, PeriodRef.number n ∈ l → n ≤ 13) ∧
  (∀ (t : Today), exportPeriods t .all = some (t.plan.marked.map (·.number)) ∧
    ∀ l ks, exportPeriods t (.list l) = some ks ↔ l.map t.markedPeriod = ks.map some ∧ ks.Nodup) ∧
  (∀ (x : Export) (p : Part) g, p.reg.register = some g → x.visited < x.count → 1 ≤ x.block → x.position < 3072 →
    let place : Nat → Nat := fun k => match x.dir with
      | .up => (x.position + k) % 3072
      | .down => (x.position + 3072 - k % 3072) % 3072
    let lines : Nat → List (List Field) := fun v => (List.range v).filterMap (fun k => exportLine p.work g x (place k))
    let left := x.count - x.visited
    let y := exportBlock x p
    ∃ v after word, 1 ≤ v ∧ v ≤ left ∧ (∀ k, k < v → (lines k).length < x.block) ∧
      (v < left → (lines v).length = x.block) ∧ (lines v).length ≤ x.block ∧
      y.1 = { p with reg.register := some { g with exporting := after } } ∧
      y.2 = ⟨lines v, [.word "OK", nat (lines v).length, .word word], false⟩ ∧
      (v < left → word = "MORE" ∧ after = some { x with position := place v, visited := x.visited + v }) ∧
      (v = left → x.endMode = .once → word = "END" ∧ after = none) ∧
      (v = left → x.endMode = .wrap →
        word = "WRAP" ∧ after = some { x with position := x.first, visited := 0, epoch := g.changes })) ∧
  (∀ img (g : Register) (x : Export) n,
    (Table.get? img.slots n = none → exportLine img g x n = none) ∧
    (∀ y d, Table.get? img.slots n = some y → g.slot? n = some d →
      let changed := x.epoch < d.lastChange ∨ (d.lastChange = 4294967295 ∧ x.epoch = 4294967295)
      let mark : Nat → List Field := fun k => match d.mark? k with
        | none => [dash, dash, dash]
        | some m => [.word (valueWord m.value), orDash (fun w => .word (writerWord w)) m.source, orDash nat m.minutes]
      (changed → exportLine img g x n
        = some (nat n :: nat y.number :: .word "CHANGED" :: .word (presenceWord d.presence) :: x.periods.flatMap mark)) ∧
      (¬ changed → exportLine img g x n
        = some (nat n :: nat y.number :: dash :: .word (presenceWord d.presence) :: x.periods.flatMap mark))))

/-- REGISTER RESUME (R93): refused without a register or in NORMAL; in RECOVERY the register becomes NORMAL, and the sweeps it
held run at once or start, unless an alert holds them. No mark changes. -/
def Obligations.RegisterResumeEndsRecovery : Prop :=
  ∀ s sfx, Listening s →
    (s.part.reg.register = none → exec (.registerResume sfx) s = .next (refusedWith s sfx .state)) ∧
    (∀ g, s.part.reg.register = some g →
      (g.state = .normal → exec (.registerResume sfx) s = .next (refusedWith s sfx .state)) ∧
      (g.state = .recovery → ∃ w, exec (.registerResume sfx) s = .next (replied s
          { heard s [] with reg.register := some { g with state := .normal }, sweeps := w } sfx (ok [])) ∧
        w.resume = s.part.sweeps.resume ∧
        (s.part.ac.alert = none → s.part.sweeps.resume = none → ∀ x y, s.part.sweeps.get? x = some y →
          (y.state = .suspended → w.get? x = some { y with state := .running }) ∧
          (∀ r, y.state = .waiting → s.part.openDay = some r → (y.cutoff.map (atOrPast s.clock r)).getD false = true →
            w.get? x = some { y with state := .running, cursor := 0, startedAt := s.clock.second? })) ∧
        (s.part.ac.alert ≠ none ∨ s.part.sweeps.resume ≠ none → ∀ x y, s.part.sweeps.get? x = some y →
          (y.state = .suspended → w.get? x = some y) ∧
          (∀ r, y.state = .waiting → s.part.openDay = some r → (y.cutoff.map (atOrPast s.clock r)).getD false = true →
            w.get? x = some { y with state := .suspended, cursor := 0, startedAt := s.clock.second? }))))

/-! ## Stations and arrivals -/

/-- A poll cycle and the outcomes of its exchanges (R100 to R102, R112): a cycle asks the present stations in turn, and the poll
carries the mode, the acknowledgement, which it clears, and the oldest slip; an answer clears the misses and brings a FAULTED
station back, IDLE and CALL also clear the condition and the slip that was carried, CALL counts, FAULT sets the condition;
twelve misses make a READY station FAULTED; an answer from another station does nothing, and the outcome of a void exchange only
opens the next one (log 1, log 37; log 57 for the misses of a FAULTED station). -/
def Obligations.PollCycleAndStationOutcomes : Prop :=
  (∀ s : State,
    let ready := s.part.desk.cycleNext ≤ s.clock.crystal ∧ s.part.desk.toPoll = [] ∧ s.part.desk.asking = none
    let nextAt := s.clock.crystal + (if s.part.hl.activity = .dormant then 8 else 4)
    (∀ n rest, ready → s.part.work.stations = n :: rest →
      let st := s.part.station n
      exec .pollCycle s = .next (left s { met s [] with
        desk.stations := s.part.desk.stations.setIfInBounds n { st with ack := none }
        desk.cycleStart := s.clock.crystal, desk.cycleNext := nextAt, desk.toPoll := rest
        desk.asking := some ⟨n, !st.slips.isEmpty, st.state == .absent⟩
        out := [.stationPoll n s.part.stationMode st.ack st.slips.head?] })) ∧
    (ready → s.part.work.stations = [] → exec .pollCycle s = .next (left s { met s [] with
      desk.cycleStart := s.clock.crystal, desk.cycleNext := nextAt, desk.toPoll := [], desk.asking := none })) ∧
    (¬ ready → exec .pollCycle s = .next (left s (met s [])))) ∧
  (∀ (s : State) n carried, s.part.desk.asking = some ⟨n, carried, false⟩ → (s.part.station n).state ≠ .absent →
    let c := s.clock
    let st := s.part.station n
    let put : Station → Part := fun y => { met s [] with desk.stations := s.part.desk.stations.setIfInBounds n y }
    let okIf : Bool → Part → Part := fun b p => if b then raise c (.stationOk n) p else p
    let back := st.state == .faulted
    let heard := { st with misses := 0, state := .ready }
    let settled := { heard with condition := none, slips := if carried then st.slips.tail else st.slips }
    let good : Station → Part := fun y => okIf st.condition.isSome (okIf back (put y))
    let next : Part → State := fun p => left s (nextExchange p)
    let calls := min (st.calls + 1) 255
    let counted := decide ((if s.part.hl.activity = .dormant then 4 else 8) ≤ calls) && !st.callRaised
    exec (.stationIdle n) s = .next (next (good { settled with calls := 0, callRaised := false })) ∧
    (counted = false → exec (.stationCall n) s = .next (next (good { settled with calls := calls }))) ∧
    (counted = true → exec (.stationCall n) s = .next (next (setFlag c .call
      (raise c (.doorCall n c.second?) (good { settled with calls := calls, callRaised := true }))))) ∧
    (∀ f, let p := okIf back (put { heard with condition := some f, calls := 0, callRaised := false })
      exec (.stationFaultAnswer n f) s = .next (next
        (if st.condition = some f then p else raise c (.stationFault n (.code f)) p))) ∧
    (st.state = .ready → st.misses + 1 < 12 → exec .stationPollMiss s = .next (next
      (put { st with misses := st.misses + 1, calls := 0, callRaised := false }))) ∧
    (st.state = .ready → 12 ≤ st.misses + 1 → exec .stationPollMiss s = .next (next
      (raise c (.stationFault n .noReply)
        (put { st with misses := 12, state := .faulted, calls := 0, callRaised := false })))) ∧
    (st.state = .faulted → exec .stationPollMiss s = .next (next
      (put { st with calls := 0, callRaised := false }))) ∧
    (∀ k, k ≠ n → exec (.stationIdle k) s = .next (left s (met s [])) ∧ exec (.stationCall k) s = .next (left s (met s [])) ∧
      (∀ f, exec (.stationFaultAnswer k f) s = .next (left s (met s []))))) ∧
  (∀ (s : State) n carried, s.part.desk.asking = some ⟨n, carried, true⟩ →
    let t := left s (nextExchange (met s []))
    exec (.stationIdle n) s = .next t ∧ exec (.stationCall n) s = .next t ∧ exec .stationPollMiss s = .next t ∧
    (∀ f, exec (.stationFaultAnswer n f) s = .next t) ∧
    (∀ tag kind number reason, tag ≤ 255 → allDigits number = true → number.length ≤ 9 → reason ≤ 7 →
      exec (.stationEntry n tag kind number reason) s = .next t)) ∧
  (∀ s : State, s.part.desk.asking = none → ∀ n, exec (.stationIdle n) s = .next (left s (met s [])) ∧
    exec (.stationCall n) s = .next (left s (met s [])) ∧ exec .stationPollMiss s = .next (left s (met s [])))

/-- An ENTRY answer (R102, R103): the last tag again is acknowledged again and not taken; a DORMANT part takes none; a full queue
or a station at its share holds it back; otherwise it joins the queue with the clock reading, and its tag is the last tag
and the acknowledgement. One that cannot be read is discarded (log 42). -/
def Obligations.EntryAnswerIsTakenHeldOrRepeated : Prop :=
  ∀ (s : State) n carried tag kind number reason, s.part.desk.asking = some ⟨n, carried, false⟩ → (s.part.station n).state ≠ .absent →
    let c := s.clock
    let st := s.part.station n
    let slips := if carried then st.slips.tail else st.slips
    let settled : Station :=
      { st with misses := 0, state := .ready, condition := none, slips := slips, calls := 0, callRaised := false }
    let put : Station → Part := fun y => { met s [] with desk.stations := s.part.desk.stations.setIfInBounds n y }
    let okIf : Bool → Part → Part := fun b p => if b then raise c (.stationOk n) p else p
    let good : Station → Part := fun y => okIf st.condition.isSome (okIf (st.state == .faulted) (put y))
    let next : Part → State := fun p => left s (nextExchange p)
    let readable := tag ≤ 255 ∧ allDigits number = true ∧ number.length ≤ 9 ∧ reason ≤ 7
    let share := (s.part.desk.queue.filter (fun e => e.station == n)).length + slips.length
    let answer := Instr.stationEntry n tag kind number reason
    (¬ readable → exec answer s = .next (left s (met s []))) ∧
    (readable → st.lastTag = some tag → exec answer s = .next (next (good { settled with ack := some tag }))) ∧
    (readable → st.lastTag ≠ some tag →
      s.part.hl.activity = .dormant ∨ 32 ≤ s.part.desk.queue.length ∨ 8 ≤ share →
      exec answer s = .next (next (good settled))) ∧
    (readable → st.lastTag ≠ some tag → s.part.hl.activity ≠ .dormant → s.part.desk.queue.length < 32 → share < 8 →
      let p := good { settled with lastTag := some tag, ack := some tag }
      exec answer s = .next (next
        { p with desk.queue := s.part.desk.queue ++ [⟨n, tag, kind, number, reason, c.stamp⟩] }))

/-- PROCESS_ENTRY takes the head of the queue by the first case that applies (R104 to R110), and its slip goes to the station it
came from. A sign-in of a pupil already ON_SITE changes nothing (R107); the writes of a return carry the entry's reason (log 25);
a slip has no time where neither the entry nor the clock has one (log 72), and goes to a station that is present then (log 80); an
empty queue changes nothing (log 1). -/
def Obligations.QueueHeadIsProcessedByCase : Prop :=
  ∀ (s : State) ws,
    (s.part.desk.queue = [] → exec (.processEntry ws) s = .next (left s (met s ws))) ∧
    (∀ e rest, s.part.desk.queue = e :: rest →
      let c := s.clock
      let p := { met s ws with desk.queue := rest }
      let give : Part → SlipKind → State := fun q k => left s (giveSlip e.station (slipOf c p e k) q)
      let go := exec (.processEntry ws) s
      (s.part.openDay = none ∨ e.taken = none → go = .next (give p .closed)) ∧
      (∀ r t x, s.part.openDay = some r → s.part.bells.today = some t → e.taken = some x →
        (x.date ≠ r.date → go = .next (give p .closed)) ∧
        (x.date = r.date → s.part.alertState = some .evacuate → go = .next (give p .evacuation)) ∧
        (x.date = r.date → s.part.alertState ≠ some .evacuate →
          (s.part.work.pupilOffered e.number = none →
            go = .next (give (raise c (.unknownPupil e.station e.number e.kind x.second) p) .unknown)) ∧
          (∀ n y, s.part.work.pupilOffered e.number = some (n, y) →
            let a : Arrival := ⟨x.second, n, y, t, s.part.work.gateway.band, e.reason⟩
            (e.kind = .signIn → s.part.presence n = .onSite →
              go = .next (give p (.duplicate (Table.get? s.part.desk.firstArrivals n)))) ∧
            (e.kind = .signOut → s.part.presence n ≠ .onSite → go = .next (give p .notIn)) ∧
            (e.kind = .signIn → s.part.presence n = .notArrived →
              let z := classify c a r.date p
              let q := if z.1.presence n = .notArrived then movePresence n .onSite z.1 else z.1
              go = .next (give { q with desk.firstArrivals := Table.put q.desk.firstArrivals n x.second } (arrivalSlip z.2))) ∧
            (e.kind = .signIn → s.part.presence n = .signedOut →
              go = .next (give (t.plan.marked.foldl (returnStage c a) (movePresence n .onSite p)) .returned)) ∧
            (e.kind = .signOut → s.part.presence n = .onSite → e.reason = 0 → go = .next (give
              (raise c (.unauthSignout n y.number e.station x.second) (movePresence n .signedOut p)) (.signedOut 0))) ∧
            (e.kind = .signOut → s.part.presence n = .onSite → e.reason ≠ 0 → go = .next (give
              (t.plan.marked.foldl (offsiteStage c a) (movePresence n .signedOut p)) (.signedOut e.reason)))))))

/-! ## Lateness -/

/-- The class of an arrival (R117 to R121): PM from its start on, otherwise AM; on time to the end of the grace; the minutes late
rounded up and at most 240; the band by the close and by the limit; excused when an allowance covers the minutes. -/
def Obligations.ArrivalIsClassedAgainstItsPeriod : Prop :=
  ∀ (a : Arrival),
    (∀ q, a.candidate .pm = some q → q.start ≤ a.time → a.choose = some q) ∧
    (∀ q, a.candidate .pm = some q → a.time < q.start → a.choose = a.candidate .am) ∧
    (a.candidate .pm = none → a.choose = a.candidate .am) ∧
    (a.measure none = ⟨.onTime, none, none, none, false, false⟩) ∧
    (∀ q : Chosen, a.time ≤ q.start + a.today.plan.grace → a.measure (some q) = ⟨.onTime, some q.reg, none, none, false, false⟩) ∧
    (∀ q : Chosen, q.start + a.today.plan.grace < a.time →
      let m := min ((a.time - q.start + 59) / 60) 240
      let band : Band := if q.start + a.today.plan.close * 60 ≤ a.time then .afterClose
        else if m ≤ a.bandLimit then .minor else .major
      let late : Classified := ⟨.late, some q.reg, some m, some band, false, false⟩
      1 ≤ m ∧ a.measure (some q) = late ∧ late.withAllowance none = late ∧
      (∀ n, m ≤ n → late.withAllowance (some n) = { late with cls := .excused, band := none }) ∧
      (∀ n, n < m → late.withAllowance (some n) = { late with exceeded := true }))

/-- The half-period rule (R125) for a lesson in progress, at an arrival and at a return of an UNSET lesson: past the middle it is
ABSENT, at or before it LATE with the minutes clamped; the minutes of a lesson of at most 240 minutes never exceed 120. -/
def Obligations.HalfPeriodRuleDecidesALesson : Prop :=
  ∀ (s e t : Nat) (excused : Bool), s ≤ t → t < e →
    let m := t - s
    let p := e - s
    lessonValue s e t excused = some (halfPeriod s e t excused) ∧
    (p < 2 * m → halfPeriod s e t excused = (if excused then .absentExcused else .absent, none)) ∧
    (2 * m ≤ p → halfPeriod s e t excused
      = (if excused then .lateExcused else .late, some (max 1 (min ((m + 59) / 60) 240)))) ∧
    (2 * m = p → (halfPeriod s e t false).1 = .late) ∧
    (t = s → halfPeriod s e t false = (.late, some 1)) ∧
    (p ≤ 14400 → 2 * m ≤ p → max 1 (min ((m + 59) / 60) 240) ≤ 120) ∧
    (∀ q (k : Mark), k.period.reg = none → k.value = .unset → returnValue q k s e t = some (halfPeriod s e t false))

/-- The tardy score and the level at day close (R127 to R131): decay, addition and saturation; a rise to the thresholds met with
one ESCALATION entry, a fall with LEVEL_DOWN only to the greater of the thresholds met and the levels that the hysteresis holds;
and what the new level satisfies. Every ENROLLED slot takes its new score and level, one without records of the day with a
lateness of 0 (R71, R127, log 66), and no other slot does. -/
def Obligations.ScoreAndLevelFollowTheDay : Prop :=
  (∀ d q lateness, newScore d q lateness = min (q - q * d / 256 + lateness * 16) 65535 ∧ newScore d q lateness ≤ 65535 ∧
    (d ≤ 255 → q ≤ 65535 → q * d / 256 ≤ q)) ∧
  (∀ d : SlotDay, d.lateness = min ((d.marks.filter (fun m => m.period.reg.isSome && m.value == .late)).map
    (fun m => m.minutes.getD 0)).sum 240) ∧
  (∀ (pol : Policy) l q, pol.t1 < pol.t2 → pol.t2 < pol.t3 →
    let up := ([pol.t1, pol.t2, pol.t3].filter (fun t => decide (t ≤ q))).length
    let next := pol.level l q
    let kept := ([1, 2, 3].filter (fun i => decide (i ≤ l ∧ [pol.t1, pol.t2, pol.t3].getD (i - 1) 0 ≤ q + pol.h))).length
    (l ≤ up → next = up) ∧ (up < l → next = max up kept) ∧ (up < l → up ≤ next ∧ next ≤ l) ∧ next ≤ 3 ∧
    (∀ i, 1 ≤ i → i ≤ 3 → i ≤ l → pol.threshold i ≤ q + pol.h → i ≤ next) ∧
    (∀ i, 1 ≤ i → i ≤ next → pol.threshold i ≤ q + pol.h) ∧ (next < 3 → q < pol.threshold (next + 1))) ∧
  (∀ c n (x : Slot) (d : SlotDay) (p : Part),
    let pol := p.work.policy
    let q := newScore pol.d x.score d.lateness
    let l := pol.level x.level q
    let r := p.setSlot n { x with score := q, level := l }
    (x.level < l → scoreSlot c n x d p = (createOrReport c
      ⟨.escalation, .slot n (x.contacts.map (fun k => ⟨k, .waiting⟩)), none, .template (p.work.mapped (escalationEntry l)), none,
        none, some l, 0⟩ r).1) ∧
    (l < x.level → scoreSlot c n x d p = raise c (.levelDown n x.number x.level l q) r) ∧
    (l = x.level → scoreSlot c n x d p = r)) ∧
  (∀ c (p : Part) n x, Table.wf p.work.slots = true → p.slot? n = some x →
    let day := p.reg.register.bind (fun g => Table.get? g.slots n)
    let q := newScore p.work.policy.d x.score ((day.map SlotDay.lateness).getD 0)
    (x.state = .enrolled → (scoreAll c p).slot? n = some { x with score := q, level := p.work.policy.level x.level q }) ∧
    (x.state ≠ .enrolled → (scoreAll c p).slot? n = some x))

/-! ## The sweep and the excuses -/

/-- SWEEP NOW by the record (R136), and SWEEP_STEP at the cursor of a RUNNING record (R139 to R142): an excused pupil is
ABSENT_EXCUSED and the excuse USED, one NOT_ARRIVED is ABSENT once the outbox has taken the entry and blocks the record while
it is full, one on site is ABSENT with a notice; every other slot is passed over; after the last slot the record is DONE. The
plan whose one REGISTRATION period refuses PM is that of the day (log 46); SWEEP_STEP without an open day or a RUNNING record
changes nothing (log 1). -/
def Obligations.SweepStartsAndSteps : Prop :=
  (∀ s sfx, Listening s →
    let lacks := fun (l : Plan) (x : Reg) => ∀ m ∈ l.marked, m.reg ≠ some x
    let lacking := fun x => (∃ t, s.part.bells.today = some t ∧ lacks t.plan x)
      ∨ (s.part.bells.today = none ∧ ∃ r n, s.part.day = some r ∧ r.plan = some n ∧ lacks (s.part.work.plan n) x)
    exec (.sweepNow sfx none) s = .next (refusedWith s sfx .malformed) ∧
    (∀ x, lacking x → exec (.sweepNow sfx (some x)) s = .next (refusedWith s sfx .range)) ∧
    (∀ x, ¬ lacking x → s.part.openDay = none → exec (.sweepNow sfx (some x)) s = .next (refusedWith s sfx .state)) ∧
    (∀ x, s.part.openDay ≠ none → s.part.sweeps.get? x = none →
      exec (.sweepNow sfx (some x)) s = .next (refusedWith s sfx .range)) ∧
    (∀ x w, ¬ lacking x → s.part.openDay ≠ none → s.part.sweeps.get? x = some w →
      (w.state ≠ .waiting → exec (.sweepNow sfx (some x)) s = .next (refusedWith s sfx .state)) ∧
      (w.state = .waiting → s.part.held = false → exec (.sweepNow sfx (some x)) s = .next (replied s
        (onSweep x (fun w => { w with state := .running, cursor := 0, startedAt := s.clock.second? }) (heard s [])) sfx
        (ok [.word "RUNNING"]))) ∧
      (w.state = .waiting → s.part.held = true → exec (.sweepNow sfx (some x)) s = .next (replied s
        (onSweep x (fun w => { w with state := .suspended, cursor := 0, startedAt := s.clock.second? }) (heard s [])) sfx
        (ok [.word "SUSPENDED"]))))) ∧
  (∀ (s : State) ws x,
    let c := s.clock
    let p := met s ws
    (s.part.openDay = none ∨ (∀ w, s.part.sweeps.get? x = some w → w.state ≠ .running) →
      exec (.sweepStep x ws) s = .next (left s p)) ∧
    (∀ r w, s.part.openDay = some r → s.part.sweeps.get? x = some w → w.state = .running →
      let n := w.cursor
      let go := exec (.sweepStep x ws) s
      (s.part.enrolled? n = none ∨ (∀ m, s.part.regMark? n x = some m → m.value ≠ .unset) →
        go = .next (left s (advanceCursor c x p))) ∧
      (∀ y m, s.part.enrolled? n = some y → s.part.regMark? n x = some m → m.value = .unset →
        let k := m.period.number
        let absent := fun (v : MarkValue) q => (writeMark c ⟨.sweep, v, none, 0, none⟩ n k q).1
        (s.part.work.activeExcuse n .absenceDay r.date ≠ none → go = .next (left s (advanceCursor c x
          (onSweep x (fun w => { w with excused := w.excused + 1 })
            (useExcuse n .absenceDay r.date (absent .absentExcused p)))))) ∧
        (s.part.work.activeExcuse n .absenceDay r.date = none → s.part.presence n ≠ .notArrived →
          go = .next (left s (advanceCursor c x (onSweep x (fun w => { w with onSite := w.onSite + 1 })
            (raise c (.unregisteredOnsite n y.number x (s.part.presence n)) (absent .absent p)))))) ∧
        (s.part.work.activeExcuse n .absenceDay r.date = none → s.part.presence n = .notArrived →
          let made := create c (absenceRequest p n y x) p
          (made.2 = .refused → go = .next (left s (onSweep x (fun w => { w with state := .blocked }) made.1))) ∧
          (made.2 ≠ .refused → go = .next (left s (advanceCursor c x
            (onSweep x (fun w => { w with notified := w.notified + 1 })
              (setNotice n x .pending (absent .absent made.1)))))))))) ∧
  (∀ c x p w, p.sweeps.get? x = some w →
    let q := onSweep x (fun w => { w with cursor := w.cursor + 1 }) p
    (w.cursor + 1 ≠ 3072 → advanceCursor c x p = q) ∧
    (w.cursor + 1 = 3072 → advanceCursor c x p = raise c
      (.sweepDone x w.notified w.onSite w.excused w.startedAt c.second?)
      (onSweep x (fun w => { w with state := .done, doneAt := c.second? }) q)))

/-- EXCUSE PUT in its order of decision and EXCUSE DEL (R146, R148, R149): a record of the same slot, kind and date is replaced and
the new one stands at the tail; the same-day effect follows; a deletion takes the one record. -/
def Obligations.ExcuseRequestsWriteTheList : Prop :=
  ∀ s sfx r kind a date ws, Listening s →
    let put := Instr.excusePut sfx r kind a date ws
    let del := Instr.excuseDel sfx r kind date ws
    let misfit := kind = none ∨ (kind = some .absenceDay ∧ a ≠ none) ∨ (kind = some .lateAllowance ∧ a = none)
    (misfit → exec put s = .next (refusedWith s sfx .malformed)) ∧
    (¬ misfit → dateOf date = none ∨ pupilInRange r = false ∨ a = some 0 ∨ (∃ n, a = some n ∧ 240 < n) →
      exec put s = .next (refusedWith s sfx .range)) ∧
    (∀ k d, kind = some k → ¬ misfit → dateOf date = some d → pupilInRange r = true → (∀ n, a = some n → 1 ≤ n ∧ n ≤ 240) →
      (s.clock.reading = none → exec put s = .next (refusedWith s sfx .state)) ∧
      (∀ x, s.clock.reading = some x →
        (s.part.work.enrolledPupil r = none → exec put s = .next (refusedWith s sfx .notFound)) ∧
        (∀ n y, s.part.work.enrolledPupil r = some (n, y) →
          let today := s.part.day.filter (fun g => g.date == d)
          (∀ g, today = some g → g.done = true → exec put s = .next (refusedWith s sfx .state)) ∧
          ((∀ g, today = some g → g.done = false ∧ g.kind = .noSchool) →
            d < x.date ∨ (s.part.work.dayKind d).1 = .noSchool → exec put s = .next (refusedWith s sfx .range)) ∧
          ((∃ g, today = some g ∧ g.done = false ∧ g.kind = .school)
              ∨ ((∀ g, today = some g → g.done = false) ∧ x.date ≤ d ∧ (s.part.work.dayKind d).1 = .school) →
            let held := s.part.work.excuses.any (fun e => e.slot == n && e.kind == k && e.date == d)
            let e : Excuse := ⟨n, k, a, d, .office, ⟨x.date, x.second⟩, none, false⟩
            (held = false → 256 ≤ s.part.work.excuses.length → exec put s = .next (refusedWith s sfx .full)) ∧
            (Kept ws → held = true ∨ s.part.work.excuses.length < 256 → exec put s = .next (replied s
              (sameDayEffect s.clock .office e (written s ws [.excuses] (fun img =>
                { img with excuses := img.excuses.filter (fun o => !(o.slot == n && o.kind == k && o.date == d)) ++ [e] }))) sfx
              (ok [.word (if held then "REPLACED" else "NEW")]))))))) ∧
    (kind = none → exec del s = .next (refusedWith s sfx .malformed)) ∧
    (kind ≠ none → dateOf date = none ∨ pupilInRange r = false → exec del s = .next (refusedWith s sfx .range)) ∧
    (∀ k d, kind = some k → dateOf date = some d → pupilInRange r = true →
      (s.part.work.slotNamed r = none → exec del s = .next (refusedWith s sfx .notFound)) ∧
      (∀ n, s.part.work.slotNamed r = some n →
        (s.part.work.holdsExcuse n k d = false → exec del s = .next (refusedWith s sfx .notFound)) ∧
        (s.part.work.holdsExcuse n k d = true → Kept ws → exec del s = .next (replied s
          (written s ws [.excuses] (fun img =>
            { img with excuses := img.excuses.filter (fun o => !(o.slot == n && o.kind == k && o.date == d)) })) sfx
          (ok [])))))

/-! ## Messages -/

/-- RECV (R150 to R154, R166, R197, R198): the gateway is READY; a DORMANT part gets the flag GATEWAY; a refused text raises
PARENT_TEXT with its cause, in the order of the rules, a text that does not fit raises EXCUSE_FULL, another is applied whole,
its records in slot order (log 75); and a GATEWAY service ends.

A text that is applied (R146, R147, R154 to R156): one ACTIVE record from PARENT for each selected slot, in the place of one of
the same slot, kind and date; their same-day effects; and a CONFIRM entry for the lowest slot and the sending contact. The
same-day effect of any record: none unless it is dated the open day; ABSENCE_DAY writes ABSENT_EXCUSED over ABSENT from SWEEP, AM
then PM, and raises EXCUSE_ONSITE for a pupil ON_SITE; LATE_ALLOWANCE writes LATE_EXCUSED over a station LATE within it, and is
USED when one was written. -/
def Obligations.ParentTextIsReadOrReported : Prop :=
  (∀ (s : State) number message ws,
    let c := s.clock
    let line := lineArrives c (met s ws)
    let p := if s.part.hl.activity = .dormant then setFlag c .gateway line else line
    let q := parseText c number message p
    let contacts := matchedContacts p.work number
    let linked := linkedSlots p.work contacts
    exec (.recv number message ws) s = .next (left s (if q.hl.service = some .gateway then serviceEnds c q else q)) ∧
    (∀ e, readText c p number message = .error e → q = raise c (.parentText number message e) p) ∧
    (∀ x now, readText c p number message = .ok x → c.stamp = some now →
      (256 - p.work.excuses.length < addedRecords p x → q = raise c (.excuseFull number message) p) ∧
      (addedRecords p x ≤ 256 - p.work.excuses.length → q = applyText c now x p)) ∧
    (c.reading = none → readText c p number message = .error .noClock) ∧
    (∀ now, c.stamp = some now →
      (contacts = [] → readText c p number message = .error .noContact) ∧
      (contacts ≠ [] → linked = [] → readText c p number message = .error .noPupil) ∧
      (contacts ≠ [] → linked ≠ [] → (∀ w, (tokens message).head? = some w → keyword w = none) →
        readText c p number message = .error .noKeyword) ∧
      (∀ w rest k, contacts ≠ [] → linked ≠ [] → tokens message = w :: rest → keyword w = some k →
        (selectSlots rest linked = none → readText c p number message = .error .noName) ∧
        (∀ l, selectSlots rest linked = some l →
          (p.textDate now.date rest = none → readText c p number message = .error .noDay) ∧
          (∀ d n, p.textDate now.date rest = some d → contacts.head? = some n → readText c p number message =
            .ok ⟨k, if k = .lateAllowance then some (textAllowance rest) else none, d, l, n⟩))))) ∧
  (∀ c now (x : ParentText) (p : Part),
    let records := x.slots.map (fun n => (⟨n, x.kind, x.allowance, x.date, .parent, now, some x.contact, false⟩ : Excuse))
    let listed := records.foldl (fun l e =>
      l.filter (fun o => !(o.slot == e.slot && o.kind == e.kind && o.date == e.date)) ++ [e]) p.work.excuses
    let acted := records.foldl (fun q e => sameDayEffect c .parent e q) (ownWrite [.excuses] { p with work.excuses := listed })
    applyText c now x p = (createOrReport c ⟨.confirm, .slot (x.slots.head?.getD 0) [⟨x.contact, .waiting⟩], none,
      .template (p.work.mapped .confirm), none, none, none, 0⟩ acted).1) ∧
  (∀ c wr (e : Excuse) (p : Part), (∀ r, p.openDay = some r → r.date ≠ e.date) → sameDayEffect c wr e p = p) ∧
  (∀ c wr (e : Excuse) (p : Part) r, p.openDay = some r → r.date = e.date → e.kind = .absenceDay →
    let one : Reg → Part → Part := fun x q => match q.regMark? e.slot x with
      | some m => if m.value = .absent ∧ m.source = some .sweep then
          (writeMark c ⟨wr, .absentExcused, none, 0, none⟩ e.slot m.period.number q).1 else q
      | none => q
    let q := one .pm (one .am p)
    (∀ y, q.slot? e.slot = some y → q.presence e.slot = .onSite →
      sameDayEffect c wr e p = raise c (.excuseOnsite e.slot y.number c.second) q) ∧
    (q.slot? e.slot = none ∨ q.presence e.slot ≠ .onSite → sameDayEffect c wr e p = q)) ∧
  (∀ c wr (e : Excuse) (p : Part) r, p.openDay = some r → r.date = e.date → e.kind = .lateAllowance →
    let one : Reg → Part × Bool → Part × Bool := fun x y => match y.1.regMark? e.slot x with
      | some m => if m.value = .late ∧ m.source = some .station ∧ m.minutes.getD 0 ≤ e.allowance.getD 0 then
          let w := writeMark c ⟨wr, .lateExcused, m.minutes, 0, none⟩ e.slot m.period.number y.1
          (w.1, y.2 || w.2) else y
      | none => y
    let y := one .pm (one .am (p, false))
    (y.2 = false → sameDayEffect c wr e p = y.1) ∧
    (y.2 = true → sameDayEffect c wr e p = ownWrite [.excuses] { y.1 with work.excuses := y.1.work.excuses.map (fun o =>
      if o.slot == e.slot && o.kind == .lateAllowance && o.date == e.date then { o with used := true } else o) }))

/-- The outbox takes, refuses or displaces (R163, R164), and SEND and WITHDRAW by their checks (R172, R174, R175): a second entry
of a unique kind is not made; a full outbox gives up the oldest entry of the lowest class below the new one that has no
contact handed over, and otherwise refuses. A displacement takes its effects in the order of R164's words: the old entry leaves,
DISPLACED is raised, the new entry is appended (log 34).

A creator other than SEND and ALERT NOTIFY that is refused raises OUTBOX_FULL (R163). A withdrawal for a slot, kind and r cancels
the WAITING contacts and ends an offer of the entry (R172). An entry leaves when no contact is WAITING or IN_FLIGHT: UNDELIVERED
when contacts FAILED, the report of an ABSENCE entry to the register, and a BLOCKED sweep running again (R161). -/
def Obligations.OutboxTakesRefusesOrDisplaces : Prop :=
  (∀ c (q : EntryRequest) (p : Part),
    let id := freeId (p.pmu.outbox.map (·.id)) p.pmu.outbox.length p.pmu.nextId
    (alreadyHeld q p = true → create c q p = (p, .held)) ∧
    (alreadyHeld q p = false → p.pmu.outbox.length < 512 → create c q p =
      ({ p with pmu.outbox := p.pmu.outbox ++ [q.entry c id], pmu.nextId := if id < 65535 then id + 1 else 1 }, .taken id)) ∧
    (alreadyHeld q p = false → 512 ≤ p.pmu.outbox.length →
      (p.pmu.candidate q.kind.cls = none → create c q p = (p, .refused)) ∧
      (∀ e, p.pmu.candidate q.kind.cls = some e →
        create c q p = append c q (raise c (.displaced e.id e.kind e.slot? q.kind) (leave c e.cancelled p)))) ∧
    (∀ e, p.pmu.candidate q.kind.cls = some e → e ∈ p.pmu.outbox ∧ q.kind.cls.rank < e.rank ∧ p.pmu.anyHanded e = false ∧
      (∀ f ∈ p.pmu.outbox, p.pmu.anyHanded f = false → f.rank ≤ e.rank) ∧
      p.pmu.outbox.find? (fun f => f.rank == e.rank && !p.pmu.anyHanded f) = some e) ∧
    (p.pmu.candidate q.kind.cls = none → ∀ f ∈ p.pmu.outbox, q.kind.cls.rank < f.rank → p.pmu.anyHanded f = true)) ∧
  (∀ s sfx target source, Listening s →
    let go := Instr.send sfx target source
    (sourceFormed source = false → exec go s = .next (refusedWith s sfx .malformed)) ∧
    (sourceFormed source = true → sendInRange target source = false → exec go s = .next (refusedWith s sfx .range)) ∧
    (sourceFormed source = true → sendInRange target source = true →
      (sendTarget s.part.work target = none ∨ sourceFound s.part.work source = false →
        exec go s = .next (refusedWith s sfx .notFound)) ∧
      (∀ x, sendTarget s.part.work target = some x → sourceFound s.part.work source = true →
        let q : EntryRequest := ⟨.general, x, none, source, s.clock.second?, none, none, 0⟩
        let made := create s.clock q (heard s [])
        (∀ id, made.2 = .taken id → exec go s = .next (replied s made.1 sfx (ok [nat id]))) ∧
        (made.2 = .refused → exec go s = .next (refusedWith s sfx .full)) ∧
        made.2 ≠ .held ∧ (s.part.pmu.outbox.length < 512 → made.2 ≠ .refused)))) ∧
  (∀ s sfx id, Listening s →
    (id < 1 ∨ 65535 < id → exec (.withdraw sfx id) s = .next (refusedWith s sfx .range)) ∧
    (1 ≤ id → id ≤ 65535 → s.part.entry? id = none → exec (.withdraw sfx id) s = .next (refusedWith s sfx .notFound)) ∧
    (∀ e, 1 ≤ id → id ≤ 65535 → s.part.entry? id = some e →
      let q := follow s.clock id { heard s [] with
        pmu.outbox := s.part.pmu.outbox.map (fun x => if x.id = id then x.cancelled else x)
        pmu.offer := s.part.pmu.offer.filter (fun o => o.handle.id != id) }
      exec (.withdraw sfx id) s
        = .next (replied s q sfx (ok [.word (stateOrGone id q), nat (s.part.pmu.handedCount e)])))) ∧
  (∀ c (q : EntryRequest) (p : Part),
    ((create c q p).2 ≠ .refused → createOrReport c q p = create c q p) ∧
    ((create c q p).2 = .refused →
      (∀ n ps, q.target = .slot n ps →
        createOrReport c q p = (raise c (.outboxFull q.kind (some n) q.reg) (create c q p).1, .refused)) ∧
      (∀ k f d e, q.target = .broadcast k f d e →
        createOrReport c q p = (raise c (.outboxFull q.kind none q.reg) (create c q p).1, .refused)))) ∧
  (∀ c k n x (p : Part),
    (p.entryFor? k n x = none → withdrawFor c k n x p = (p, ⟨false, false, []⟩)) ∧
    (∀ e, p.entryFor? k n x = some e → withdrawFor c k n x p = (follow c e.id { p with
        pmu.outbox := p.pmu.outbox.map (fun y => if y.id = e.id then y.cancelled else y)
        pmu.offer := p.pmu.offer.filter (fun o => o.handle.id != e.id) },
      ⟨true, p.pmu.anyHanded e, p.pmu.handedContacts e⟩))) ∧
  (∀ c id (p : Part),
    (p.entry? id = none → follow c id p = p) ∧
    (∀ e, p.entry? id = some e →
      let ended := match e.target with
        | .slot _ ps => ∀ y ∈ ps, y.state ≠ .waiting ∧ y.state ≠ .inFlight
        | .broadcast cursor _ _ _ => 4096 ≤ cursor ∧ ∀ f ∈ p.pmu.inflight, f.handle.id ≠ e.id
      (ended → follow c id p = leave c e p) ∧ (¬ ended → follow c id p = p))) ∧
  (∀ c e (p : Part),
    let gone : Part := { p with pmu.outbox := p.pmu.outbox.filter (fun y => y.id != e.id) }
    let told := if e.failedCount = 0 then gone else raise c (.undelivered e.id e.kind e.slot? e.failedCount) gone
    let unblocked : Sweep → Sweep := fun w => if w.state = .blocked then { w with state := .running } else w
    let swept : Part → Part := fun q => { q with sweeps.am := q.sweeps.am.map unblocked, sweeps.pm := q.sweeps.pm.map unblocked }
    (∀ n x, e.kind = .absence → e.slot? = some n → e.reg = some x →
      leave c e p = swept (reportLeaving n x e.anyDelivered (decide (0 < e.failedCount)) told)) ∧
    (e.kind ≠ .absence → leave c e p = swept told))

/-- The gateway's lines and waits (R165, R166, R168 to R170): any line but REJECT makes the gateway READY; TAKEN puts the offered
contact in flight, or a waiting one while there is room; REJECT ends the offer; a result ends its handover, and FAILED
INVALID bars the contact; the offer window, the silence and the result wait end on the crystal (log 1, log 39). A late TAKEN of
a broadcast waits at its cursor (log 30), each TAKEN of one puts its cursor one past the contact (log 81), and GATEWAY_LINE_INVALID changes nothing (log 45). -/
def Obligations.GatewayLinesSettleHandovers : Prop :=
  (∀ c p, (p.pmu.offer = none → lineArrives c p = { p with pmu.gateway := .ready }) ∧
    (∀ o, p.pmu.offer = some o →
      (c.crystal < o.sentAt + 80 → lineArrives c p = { p with pmu.gateway := .ready }) ∧
      (o.sentAt + 80 ≤ c.crystal → lineArrives c p =
        { p with pmu.offer := none, pmu.silentAt := c.crystal, pmu.gateway := .ready }))) ∧
  (∀ (s : State) h,
    let c := s.clock
    let p := lineArrives c (met s [])
    let inFlight : Part → Part := fun q => { q with
      pmu.outbox := q.pmu.outbox.map (fun e => if e.id = h.id then e.takenAt h.position else e)
      pmu.inflight := q.pmu.inflight ++ [⟨h, c.crystal⟩] }
    let settled : Delivery → Part → Part := fun d q => { q with
      pmu.inflight := q.pmu.inflight.filter (fun f => f.handle != h)
      pmu.outbox := q.pmu.outbox.map (fun e => if e.id = h.id then e.result h.position d else e) }
    let flies := ∃ f ∈ s.part.pmu.inflight, f.handle = h
    exec .gatewayReady s = .next (left s p) ∧
    (∀ line, exec (.gatewayLineInvalid line) s = .next (left s (met s []))) ∧
    ((∃ o, p.pmu.offer = some o ∧ o.handle = h) →
      exec (.taken h) s = .next (left s (inFlight { p with pmu.offer := none }))) ∧
    (∀ e, (∀ o, p.pmu.offer = some o → o.handle ≠ h) → p.entry? h.id = some e → e.waitsAt h.position = true →
      s.part.pmu.inflight.length < (if p.pmu.offer = none then 8 else 7) → exec (.taken h) s = .next (left s (inFlight p))) ∧
    (∀ e, (∀ o, p.pmu.offer = some o → o.handle ≠ h) → p.entry? h.id = some e →
      e.waitsAt h.position = false ∨ (if p.pmu.offer = none then 8 else 7) ≤ s.part.pmu.inflight.length →
      exec (.taken h) s = .next (left s p)) ∧
    ((∀ o, p.pmu.offer = some o → o.handle ≠ h) → p.entry? h.id = none → exec (.taken h) s = .next (left s p)) ∧
    (∀ o, s.part.pmu.offer = some o → c.crystal < o.sentAt + 80 →
      (o.handle = h → exec (.reject h) s = .next (left s { met s [] with pmu.offer := none, pmu.gateway := .notReady })) ∧
      (o.handle ≠ h → exec (.reject h) s = .next (left s (met s []))) ∧
      exec .offerWindowEnd s = .next (left s (met s []))) ∧
    (∀ o, s.part.pmu.offer = some o → o.sentAt + 80 ≤ c.crystal →
      let q := { met s [] with pmu.offer := none, pmu.gateway := .silent, pmu.silentAt := c.crystal }
      exec (.reject h) s = .next (left s q) ∧ exec .offerWindowEnd s = .next (left s q)) ∧
    (s.part.pmu.offer = none → exec (.reject h) s = .next (left s (met s [])) ∧
      exec .offerWindowEnd s = .next (left s (met s []))) ∧
    (s.part.pmu.gateway = .silent → s.part.pmu.silentAt + 480 ≤ c.crystal →
      exec .silentEnd s = .next (left s { met s [] with pmu.gateway := .ready })) ∧
    (s.part.pmu.gateway ≠ .silent ∨ c.crystal < s.part.pmu.silentAt + 480 →
      exec .silentEnd s = .next (left s (met s []))) ∧
    (flies → exec (.delivered h) s = .next (left s (follow c h.id (settled .delivered p)))) ∧
    (¬ flies → (∃ o, p.pmu.offer = some o ∧ o.handle = h) → exec (.delivered h) s
      = .next (left s (follow c h.id (settled .delivered (inFlight { p with pmu.offer := none }))))) ∧
    (¬ flies → (∀ o, p.pmu.offer = some o → o.handle ≠ h) → exec (.delivered h) s = .next (left s p)) ∧
    (∀ ws why,
      let r := lineArrives c (met s ws)
      let d := Delivery.failed (.gateway why)
      (flies → why ≠ .invalid → exec (.failed h why ws) s = .next (left s (follow c h.id (settled d r)))) ∧
      (∀ n, flies → why = .invalid → (settled d r).contactOf h = some n →
        exec (.failed h why ws) s = .next (left s (follow c h.id (barContact n (settled d r))))) ∧
      (flies → why = .invalid → (settled d r).contactOf h = none →
        exec (.failed h why ws) s = .next (left s (follow c h.id (settled d r)))) ∧
      (¬ flies → (∃ o, r.pmu.offer = some o ∧ o.handle = h) →
        let u := settled d (inFlight { r with pmu.offer := none })
        (why ≠ .invalid ∨ u.contactOf h = none → exec (.failed h why ws) s = .next (left s (follow c h.id u))) ∧
        (∀ n, why = .invalid → u.contactOf h = some n →
          exec (.failed h why ws) s = .next (left s (follow c h.id (barContact n u))))) ∧
      (¬ flies → (∀ o, r.pmu.offer = some o → o.handle ≠ h) → exec (.failed h why ws) s = .next (left s r))) ∧
    ((∃ f ∈ s.part.pmu.inflight, f.handle = h ∧ f.takenAt + 9600 ≤ c.crystal) → exec (.resultTimeout h) s
      = .next (left s (follow c h.id (settled (.failed .timeout) (met s []))))) ∧
    ((∀ f ∈ s.part.pmu.inflight, f.handle = h → c.crystal < f.takenAt + 9600) →
      exec (.resultTimeout h) s = .next (left s (met s []))))

/-- HANDOVER (R167, R168, R171): without its conditions, or with nothing to send, nothing happens (log 1); the arbiter picks the highest
permitted class, then the oldest in outbox order, and picks none only where no permitted class has an entry READY or SENDING with
a waiting contact; the first WAITING contact becomes the open offer and its SEND goes out, a barred or empty one
fails and the arbiter picks again, until an offer is open or there is none to pick; a broadcast sends to the next contact of its
scan, or ends. -/
def Obligations.HandoverSendsTheArbitersPick : Prop :=
  (∀ s : State,
    let c := s.clock
    let ready := s.part.pmu.offer = none ∧ s.part.pmu.gateway = .ready ∧ s.part.pmu.inflight.length < 8 ∧
      (∀ t, s.part.pmu.lastSend = some t → t + s.part.work.gateway.pace * 16 ≤ c.crystal) ∧ s.part.hl.activity ≠ .dormant
    let send : OutEntry → Nat → Nat → Text → Part → Part := fun e i n message q => { q with
      pmu.offer := some ⟨⟨e.id, i⟩, c.crystal⟩, pmu.lastSend := some c.crystal
      out := [.gatewaySend ⟨e.id, i⟩ (s.part.work.contact n).channel ((s.part.work.contact n).number.getD []) message] }
    (¬ ready ∨ pickEntry c s.part = none → exec .handover s = .next (left s (met s []))) ∧
    (∀ e message, ready → pickEntry c s.part = some e → messageOf s.part.work e = some message →
      (∀ n ps x i, e.target = .slot n ps → firstWaiting ps = some (x, i) → (s.part.work.contact x.contact).unusable = none →
        exec .handover s = .next (left s (send e i x.contact message (met s [])))) ∧
      (∀ n ps x i why, e.target = .slot n ps → firstWaiting ps = some (x, i) →
        (s.part.work.contact x.contact).unusable = some why →
        exec .handover s = .next (left s (pickAll c (pickBound s.part.pmu.outbox - 1)
          (follow c e.id (onEntry e.id (fun e => e.setPosition i (.failed why)) (met s [])))))) ∧
      (∀ cur f x y n, e.target = .broadcast cur f x y → scanContacts s.part.work f cur = some n →
        exec .handover s = .next (left s (send e n n message (onEntry e.id (fun e => e.setCursor n) (met s []))))) ∧
      (∀ cur f x y, e.target = .broadcast cur f x y → scanContacts s.part.work f cur = none →
        exec .handover s = .next (left s (pickAll c (pickBound s.part.pmu.outbox - 1)
          (follow c e.id (onEntry e.id (fun e => e.setCursor 4096) (met s []))))))) ∧
    (∀ e, ready → pickEntry c s.part = some e → messageOf s.part.work e = none →
      exec .handover s = .next (left s (pickAll c (pickBound s.part.pmu.outbox - 1)
        (follow c e.id (onEntry e.id OutEntry.failAll (met s []))))))) ∧
  (∀ c (p : Part) e, pickEntry c p = some e → e ∈ p.pmu.outbox ∧ p.pmu.sendable e = true ∧ e.rank ∈ permittedRanks c p ∧
    (∀ f ∈ p.pmu.outbox, p.pmu.sendable f = true → f.rank ∈ permittedRanks c p → e.rank ≤ f.rank) ∧
    p.pmu.outbox.find? (fun f => f.rank == e.rank && p.pmu.sendable f) = some e) ∧
  (∀ c (p : Part), pickEntry c p = none ↔
    ∀ f ∈ p.pmu.outbox, p.pmu.sendable f = true → f.rank ∉ permittedRanks c p) ∧
  (∀ (m : Messages) e, m.sendable e = true ↔ m.entryState e = .ready ∨ m.entryState e = .sending) ∧
  (∀ c (p : Part) k, (pickEntry c p = none → pickAll c k p = p) ∧
    (∀ e, pickEntry c p = some e → pickAll c (k + 1) p
      = if (pickOnce c e p).2 then pickAll c k (pickOnce c e p).1 else (pickOnce c e p).1)) ∧
  (∀ s t : State, s.part.pmu.offer = none → s.part.pmu.gateway = .ready → s.part.pmu.inflight.length < 8 →
    (∀ k, s.part.pmu.lastSend = some k → k + s.part.work.gateway.pace * 16 ≤ s.clock.crystal) →
    s.part.hl.activity ≠ .dormant → exec .handover s = .next t →
    t.part.pmu.offer ≠ none ∨ pickEntry s.clock t.part = none) ∧
  (∀ c (p : Part), (p.ac.alert ≠ none → permittedRanks c p = [0]) ∧
    (p.ac.alert = none → (∀ t, c.second? = some t → p.work.gateway.winStart * 60 ≤ t → t < p.work.gateway.winEnd * 60 →
      permittedRanks c p = [0, 1, 2, 3, 4])) ∧
    (∀ t, c.second? = some t → t < p.work.gateway.winStart * 60 ∨ p.work.gateway.winEnd * 60 ≤ t → permittedRanks c p = [0]) ∧
    (c.second? = none → permittedRanks c p = [0])) ∧
  (∀ img e message, messageOf img e = some message → message.length ≤ 160)

/-! ## Alerts -/

/-- The ALERT pin (R180): a high sample clears the count, a low one raises it, the twentieth qualifies: flag ALERT, notice ALERT_PIN
with the alert state as it stands, and a LOCKDOWN start with source PIN; a switch held down does not qualify again. -/
def Obligations.PinQualifiesAtTwentySamples : Prop :=
  ∀ s : State,
    exec (.alertPinSample false) s = .next (left s { met s [] with ac.pinCount := 0 }) ∧
    (s.part.ac.pinCount ≤ 18 → exec (.alertPinSample true) s
      = .next (left s { met s [] with ac.pinCount := s.part.ac.pinCount + 1 })) ∧
    (s.part.ac.pinCount = 19 → exec (.alertPinSample true) s = .next (left s (takeStart s.clock .lockdown .pin none
      (raise s.clock (.alertPin s.part.alertState)
        (setFlag s.clock .alert { met s [] with ac.pinCount := 20 }))).1)) ∧
    (s.part.ac.pinCount = 20 → exec (.alertPinSample true) s = .next (left s (met s []))) ∧
    (∀ c a p, p.ac.alert = some a → a.kind = .lockdown → (takeStart c .lockdown .pin none p).1 = p)

/-- ALERT START, ALERT NOTIFY, ROLL MARK and ALERT END by their checks and the alert state (R181 to R187), and what a start from
NONE leaves: the record with its roll, the flag ALERT, the bus in ALERT with no broadcast and no entry DUE or SOUNDING, and no
sweep RUNNING or BLOCKED. With no present zone a change of kind sends no SOUND (log 45).

The all-clear on the bus (R54): a poll ends, STOP goes to the present zones, in address order, and ALL_CLEAR sounds there for 10 s
with no entries (neither is sent where no zone is present, log 45). On the sweeps (R138): the resume time is the clock plus the
settle setting; with a settle of 0, and under an UNSET clock (log 24), it is NONE and the SUSPENDED records run unless another
hold stands. -/
def Obligations.AlertRequestsByTheAlertState : Prop :=
  (∀ s sfx k m, Listening s →
    exec (.alertStart sfx none m) s = .next (refusedWith s sfx .malformed) ∧
    (∀ t, m = some (.template t) → 31 < t → exec (.alertStart sfx (some k) m) s = .next (refusedWith s sfx .range)) ∧
    (∀ t, m = some (.template t) → t ≤ 31 → s.part.work.template t = none →
      exec (.alertStart sfx (some k) m) s = .next (refusedWith s sfx .notFound)) ∧
    ((∀ t, m = some (.template t) → t ≤ 31 ∧ s.part.work.template t ≠ none) →
      (s.part.ac.alert = none →
        let x := startMessage s.clock m (startAlert s.clock k .host (heard s []))
        exec (.alertStart sfx (some k) m) s = .next (replied s x.1 sfx (ok [.word (alertKindWord k), x.2]))) ∧
      (∀ a, s.part.ac.alert = some a → a.kind = k →
        exec (.alertStart sfx (some k) m) s = .next (replied s (heard s []) sfx (ok [.word (alertKindWord k)]))) ∧
      (∀ a, s.part.ac.alert = some a → a.kind ≠ k →
        let q : Part := { heard s [] with
          ac.alert := some { a with kind := k, changedAt := s.clock.stamp, roll := rollFor k (heard s []) }
          zbus.poll := none
          out := if s.part.work.presentMembers = [] then []
                 else [.sound (addresses s.part.work.presentMembers) (alertTone k) none] }
        exec (.alertStart sfx (some k) m) s = .next (replied s q sfx (ok (.word (alertKindWord k) ::
          (match rollFor k (heard s []) with | none => [] | some l => [nat l.length])))))) ∧
    (s.part.ac.alert = none → (∀ t, m = some (.template t) → t ≤ 31 ∧ s.part.work.template t ≠ none) →
      ∀ x, m = some x → exec (.alertNotify sfx x) s = .next (refusedWith s sfx .state)) ∧
    (s.part.ac.alert ≠ none → (∀ t, m = some (.template t) → t ≤ 31 ∧ s.part.work.template t ≠ none) → ∀ x, m = some x →
      let made := create s.clock (alertRequest s.part x) (heard s [])
      (∀ id, made.2 = .taken id → exec (.alertNotify sfx x) s = .next (replied s made.1 sfx (ok [nat id]))) ∧
      (made.2 = .refused → exec (.alertNotify sfx x) s = .next (refusedWith s sfx .full)) ∧ made.2 ≠ .held)) ∧
  (∀ c k src p, let t := startAlert c k src p
    t.ac.alert = some { kind := k, source := src, startedAt := c.stamp, changedAt := none, roll := rollFor k p } ∧
    t.hl.flags.alert = true ∧ t.hl.activity ≠ .dormant ∧ t.zbus.bus = .alert ∧ t.zbus.broadcast = none ∧ t.zbus.poll = none ∧
    t.sweeps.resume = none ∧ (∀ e ∈ t.bells.ring, e.state ≠ .due ∧ e.state ≠ .sounding) ∧
    (∀ x w, t.sweeps.get? x = some w → w.state ≠ .running ∧ w.state ≠ .blocked) ∧
    (∀ z, z < 6 → t.zoneState z = (p.zoneState z).map ZoneState.silenced) ∧ t.reg = p.reg ∧ t.work = p.work) ∧
  (∀ s sfx r ws, Listening s →
    (pupilInRange r = false → exec (.rollMark sfx r) s = .next (refusedWith s sfx .range)) ∧
    (pupilInRange r = true → s.part.ac.alert = none ∨ (∃ a, s.part.ac.alert = some a ∧ a.roll = none) →
      exec (.rollMark sfx r) s = .next (refusedWith s sfx .state)) ∧
    (∀ a l, pupilInRange r = true → s.part.ac.alert = some a → a.roll = some l →
      ((∀ e ∈ l, e.isFor r = false) → exec (.rollMark sfx r) s = .next (refusedWith s sfx .notFound)) ∧
      ((∃ e ∈ l, e.isFor r = true) →
        let marked := l.map (fun e => if e.isFor r = true ∧ e.accounted = false then
          { e with accounted := true, accountedAt := s.clock.second? } else e)
        exec (.rollMark sfx r) s = .next (replied s { heard s [] with ac.alert := some { a with roll := some marked } } sfx
          (ok [nat (marked.filter (fun e => !e.accounted)).length])))) ∧
    (s.part.ac.alert = none → exec (.alertEnd sfx ws) s = .next (refusedWith s sfx .state)) ∧
    (∀ a, s.part.ac.alert = some a →
      let q := tryClose s.clock (resumeAtAllClear s.clock (busAtAllClear s.clock { heard s ws with ac.alert := none }))
      exec (.alertEnd sfx ws) s = .next (replied s q sfx (ok (.word (alertKindWord a.kind) :: rollCounts a.roll))))) ∧
  (∀ c (p : Part),
    let members := p.work.presentMembers
    busAtAllClear c p = { p with
      zbus.poll := none, zbus.bus := .sounding
      zbus.broadcast := some ⟨.allClear, members, 10, c.second?, c.crystal, 0⟩
      out := p.out ++ (if members = [] then []
                       else [.stop (addresses members), .sound (addresses members) .allClear (some 10)]) }) ∧
  (∀ c (p : Part),
    let q : Part := { p with sweeps.resume := none }
    let run : Sweep → Sweep := fun w => if w.state = .suspended then { w with state := .running } else w
    let hold := p.ac.alert ≠ none ∨ ∃ g, p.reg.register = some g ∧ g.state = .recovery
    (∀ n, c.second? = some n → p.work.gateway.settle ≠ 0 →
      resumeAtAllClear c p = { p with sweeps.resume := some (n + p.work.gateway.settle * 60) }) ∧
    (c.second? = none ∨ p.work.gateway.settle = 0 →
      (hold → resumeAtAllClear c p = q) ∧
      (¬ hold → resumeAtAllClear c p = { q with sweeps.am := p.sweeps.am.map run, sweeps.pm := p.sweeps.pm.map run }))) ∧
  (∀ img : Image,
    img.presentMembers.Perm
      (([0, 1, 2, 3, 4, 5].filter (fun z => (img.zone z).present)).map (fun z => ⟨z, (img.zone z).address⟩)) ∧
    img.presentMembers.Pairwise (fun x y => x.address ≤ y.address))

/-! ## The host link -/

/-- Broken lines, BUSY and the end of a reply (R188 to R191), with the CRC-16 and the check suffix: a line that does not end in one
but holds a tilde outside quotes is malformed, and the reply to a malformed suffix has none (log 44). An empty line, and
BUSY_LINE or REPLY_END without a reply in progress, change nothing (log 1). A line that passes the table of R188 is a request line
and ends a service wake, another does not (log 16). -/
def Obligations.BrokenLinesAndBusyAnswers : Prop :=
  crc16 (text "123456789") = 0x29B1 ∧
  (∀ front v, checkLine (front ++ suffixOf v) = if crc16 front = v then .good front else .wrong) ∧
  (∀ l, cutSuffix l = none → checkLine l = if strayTilde false l = true then .malformed else .bare l) ∧
  (∀ a b : Text, (∀ ch ∈ a, ch ≠ 34) → strayTilde false (a ++ 126 :: b) = true) ∧
  (∀ l : Text, 126 ∉ l → strayTilde false l = false) ∧
  (∀ l front v, cutSuffix l = some (front, v) →
    ∃ d e f g, l = front ++ [space, 126, d, e, f, g] ∧ readHex4 [d, e, f, g] = some v) ∧
  (∀ l, dropReturn l ≠ [] → 240 < (dropReturn l).length ∨ (∃ ch ∈ dropReturn l, ch.toNat < 32 ∨ 126 < ch.toNat) →
    readLine l = .rejected) ∧
  (∀ (s : State) line,
    (s.part.hl.reply = none → readLine line = .rejected →
      exec (.hostLineInvalid line) s = .next (replied s (met s []) false (err .malformed))) ∧
    (s.part.hl.reply ≠ none → readLine line = .rejected →
      exec (.hostLineInvalid line) s = .next (left s { met s [] with hl.busy := some (s.part.hl.busy.getD false) })) ∧
    (∀ sfx, Listening s → readLine line = .syntaxError sfx →
      exec (.hostLineInvalid line) s = .next (refusedWith s sfx .malformed)) ∧
    (Listening s → readLine line = .checkError → exec (.hostLineInvalid line) s = .next (refusedWith s true .check)) ∧
    (∀ sfx, Listening s → readLine line = .unknown sfx →
      exec (.unknownRequest line) s = .next (refusedWith s sfx .unknown)) ∧
    (readLine line = .empty → exec (.hostLineInvalid line) s = .next (left s (met s []))) ∧
    (s.part.hl.reply = none ∨ dropReturn line = [] → exec (.busyLine line) s = .next (left s (met s []))) ∧
    (s.part.hl.reply ≠ none → dropReturn line ≠ [] → s.part.hl.activity ≠ .dormant →
      let busy := some (s.part.hl.busy.getD (carriesSuffix line))
      (passesLine line = true → exec (.busyLine line) s = .next (left s { heard s [] with hl.busy := busy })) ∧
      (passesLine line = false → exec (.busyLine line) s = .next (left s { met s [] with hl.busy := busy }))) ∧
    (s.part.hl.reply = none → exec .replyEnd s = .next (left s (met s []))) ∧
    (s.part.hl.reply ≠ none →
      let q : Part := { met s [] with hl.reply := none, hl.dormantAsked := s.part.hl.dormantAsked.sent }
      (s.part.hl.busy = none → exec .replyEnd s = .next (left s q)) ∧
      (∀ sfx, s.part.hl.busy = some sfx →
        exec .replyEnd s = .next (replied s { q with hl.busy := none } sfx (err .busy)))))

/-- Notices, wake settings and RESTART (R192, R194, R197): a notice is appended with the clock reading, or dropped with the overflow
flag when 32 stand; NOTICE answers the oldest and removes it; WAKE GET answers and clears the flags; WAKE SET takes a list of
enables and a time; RESTART is answered first. -/
def Obligations.NoticesWakeSettingsAndRestart : Prop :=
  (∀ c b p, (p.hl.notices.length < 32 → raise c b p = { p with hl.notices := p.hl.notices ++ [⟨b, c.stamp⟩] }) ∧
    (32 ≤ p.hl.notices.length → raise c b p = { p with hl.overflow := true })) ∧
  (∀ s sfx, Listening s →
    let flag : List Field := if s.part.hl.overflow then [.word "OVERFLOW"] else []
    (s.part.hl.notices = [] → exec (.notice sfx) s = .next (replied s { heard s [] with hl.overflow := false } sfx
      (ok (flag ++ [.word "NONE"])))) ∧
    (∀ n rest, s.part.hl.notices = n :: rest → exec (.notice sfx) s = .next (replied s
      { heard s [] with hl.notices := rest, hl.overflow := false } sfx
      (ok (flag ++ .word (noticeKind n.body) :: (stampFields n.raised ++ noticeFields n.body))))) ∧
    exec (.wakeGet sfx) s = .next (replied s { heard s [] with hl.flags := ⟨false, false, false, false, false⟩ } sfx
      (ok [flagsField s.part.hl.flags, enablesField s.part.hl.enables, orNone .hm s.part.hl.wakeTime])) ∧
    exec (.restart sfx) s = .next (replied s { heard s [] with hl.restartAsked := true } sfx (ok [.word "RESTART"])) ∧
    (∀ given time, none ∈ given ∨ ¬ given.Nodup →
      exec (.wakeSet sfx given time) s = .next (refusedWith s sfx .malformed)) ∧
    (∀ given m, none ∉ given → given.Nodup → minuteOf m = none →
      exec (.wakeSet sfx given (some m)) s = .next (refusedWith s sfx .range)) ∧
    (∀ given time t, none ∉ given → given.Nodup → (time = none ∧ t = none) ∨ (∃ m k, time = some m ∧ minuteOf m = some k ∧ t = some k) →
      exec (.wakeSet sfx given time) s = .next (replied s { heard s [] with
        hl.enables := ⟨given.contains (some .gateway), given.contains (some .call), given.contains (some .time)⟩
        hl.wakeTime := t } sfx (ok []))))

/-- DORMANT (R196), in its order of decision; the state is entered when the reply has been sent (log 32); a service wake ends
first; and a flag that wakes, set meanwhile, wakes the part at once. The end of a CALL service returns to DORMANT (R198). The
next poll cycle moves with the state (log 18); without their conditions the two events change nothing (log 1). -/
def Obligations.DormantIsAskedAndEntered : Prop :=
  (∀ s sfx, Listening s →
    let waking := ∃ f, s.part.hl.flags.get f = true ∧
      (f = .host ∨ f = .alert ∨ (f = .gateway ∧ s.part.hl.enables.gateway = true) ∨ (f = .call ∧ s.part.hl.enables.call = true)
        ∨ (f = .time ∧ s.part.hl.enables.time = true))
    (s.part.ac.alert ≠ none → exec (.dormant sfx) s = .next (refusedWith s sfx .state)) ∧
    (s.part.ac.alert = none → s.part.openDay ≠ none → exec (.dormant sfx) s = .next (refusedWith s sfx .state)) ∧
    (s.part.ac.alert = none → s.part.openDay = none → waking → exec (.dormant sfx) s = .next (replied s (heard s []) sfx
      { data := [], closing := [.word "ERR", .word "STATE", .word "WAKEPENDING"], sfx := false })) ∧
    (s.part.ac.alert = none → s.part.openDay = none → ¬ waking → exec (.dormant sfx) s = .next (replied s
      { heard s [] with hl.dormantAsked := .replying } sfx (ok [.word "DORMANT"])))) ∧
  (∀ s : State, s.part.hl.reply ≠ none → s.part.hl.busy = none → s.part.hl.dormantAsked = .replying →
    exec .replyEnd s = .next (left s { met s [] with hl.reply := none, hl.dormantAsked := .due })) ∧
  (∀ s : State,
    (s.part.hl.dormantAsked ≠ .due → exec .dormantEntered s = .next (left s (met s []))) ∧
    (s.part.hl.dormantAsked = .due → s.part.hl.activity = .quiet →
      let q : Part := { met s [] with hl.dormantAsked := .none }
      ((∀ f, s.part.hl.flags.get f = true → s.part.hl.enables.wakes f = false) → exec .dormantEntered s = .next (left s
        { q with hl.activity := .dormant, desk.cycleNext := s.part.desk.cycleStart + 8 })) ∧
      ((∃ f, s.part.hl.flags.get f = true ∧ s.part.hl.enables.wakes f = true) →
        ∃ f, s.part.hl.flags.get f = true ∧ s.part.hl.enables.wakes f = true ∧ exec .dormantEntered s = .next (left s
          (raise s.clock (.wake f) { q with hl.activity := .quiet, hl.service := serviceOf s.clock f
                                            zbus.pollDue := s.clock.crystal
                                            desk.cycleNext := s.part.desk.cycleStart + 4 })))) ∧
    (∀ since, s.part.hl.service = some (.call since) → s.part.hl.activity ≠ .dormant →
      (since + 960 ≤ s.clock.crystal → exec .serviceWaitEnd s = .next (left s { met s [] with
        hl.service := none, hl.activity := .dormant, desk.cycleNext := s.part.desk.cycleStart + 8 })) ∧
      (s.clock.crystal < since + 960 → exec .serviceWaitEnd s = .next (left s (met s [])))) ∧
    ((∀ since, s.part.hl.service ≠ some (.call since)) → exec .serviceWaitEnd s = .next (left s (met s []))))

/-- COLD_START and WARM_RESTART (R55, R72, R96, R114, R178, R194): a cold start leaves the part as the tables of reset say, over the
loaded store; a warm restart waits for its reply (log 32; before that it changes nothing, log 1), keeps the clock and the alert,
and ends replies, the queue, the open offer, the open station exchange (log 73) and the pin count. The load's own writes succeed
(log 54), and its records are those of log 70.

The warm restart acts on the reloaded part, in this order: the open day, the bus, the tests of the day. Kept before that are the
day record, the ring table, the register with yesterday's set, the sweeps, first arrivals, the outbox with the contacts in flight,
and the wake items; a zone keeps its state (R22), and START is appended (log 31). Without an open day nothing of it changes.

The open day (R41): today's copy is taken afresh, also where that brings a cancelled period back (log 61); every built entry takes
the state of the old one of its key, SOUNDING as DUE with a new stale wait; fresh warnings, END entries of an early close (log 20)
and manual entries are carried whole while there is room, in their place in the order of creation (log 48); DUE entries of absent
zones pass; PENDING ones before the clock pass with one notice (a CANCELLED one stays, log 62), and those at the clock are reached
(log 49; log 8 past midnight).

The register (R96): where the marked periods agree it is kept, without slots loaded VACANT (log 29) and with the export IDLE, and
takes the writes of the newly cancelled periods; no slot joins it (log 66). Where they differ it is made afresh in RECOVERY, presence kept,
with records set at that second (log 55), ABSENCE and LATE entries withdrawn, and the sweep records made anew (R133). -/
def Obligations.ColdStartClearsWarmRestartKeeps : Prop :=
  (∀ bad s, let l := load bad false s.part.store
    exec (.coldStart bad) s = .next ⟨⟨0, none, 0⟩, Part.reset l.store l.work l.defaulted, s.pending⟩ ∧
    (∀ e ∈ l.work.slots, e.2.state = .enrolled) ∧ (l.work.slots.map (fun e => e.2.number)).Nodup ∧
    (∀ e ∈ l.work.excuses, ∃ x, Table.get? l.work.slots e.slot = some x ∧ x.state = .enrolled)) ∧
  (∀ (s : State) bad ws,
    (s.part.hl.restartAsked = false ∨ s.part.hl.reply ≠ none ∨ s.part.hl.busy ≠ none →
      exec (.warmRestart bad ws) s = .next (left s (met s ws))) ∧
    (s.part.hl.restartAsked = true → s.part.hl.reply = none → s.part.hl.busy = none →
      ∃ t, exec (.warmRestart bad ws) s = .next t ∧ t.clock = s.clock ∧ t.pending = s.pending ∧
        t.part.ac.alert = s.part.ac.alert ∧ t.part.ac.pinCount = 0 ∧ t.part.desk.queue = [] ∧ t.part.desk.asking = none ∧
        t.part.pmu.offer = none ∧ t.part.zbus.broadcast = none ∧ t.part.zbus.poll = none ∧
        t.part.zbus.bus = (if s.part.ac.alert = none then .idle else .alert) ∧ t.part.hl.reply = none ∧ t.part.hl.busy = none ∧
        t.part.hl.restartAsked = false ∧ t.part.hl.lineBuffer = [])) ∧
  (∀ (s : State) bad ws, s.part.hl.restartAsked = true → s.part.hl.reply = none → s.part.hl.busy = none →
    let c := s.clock
    let l := load bad s.part.isOpen s.part.store
    ∃ q : Part, exec (.warmRestart bad ws) s = .next (left s (dayTests c (busAtRestart c (restartDay c q)))) ∧
      q.work = l.work ∧ q.store = l.store ∧ q.day = s.part.day ∧ q.reg = s.part.reg ∧ q.sweeps = s.part.sweeps ∧
      q.pmu = { s.part.pmu with offer := none } ∧ q.ac = { s.part.ac with pinCount := 0 } ∧
      q.bells.ring = s.part.bells.ring ∧ q.bells.today = s.part.bells.today ∧
      q.bells.pendingDelay = s.part.bells.pendingDelay ∧
      (∀ z, z < 6 → q.zoneState z = if (l.work.zone z).present then
        some ((s.part.zoneState z).getD (.up (if s.part.ac.alert = none then .armed else .silenced))) else none) ∧
      q.desk.firstArrivals = s.part.desk.firstArrivals ∧ q.desk.queue = [] ∧ q.desk.asking = none ∧ q.out = [] ∧
      q.hl.activity = (if s.part.openDay = none then .quiet else .active) ∧
      q.hl.notices = (if s.part.hl.notices.length < 32 then s.part.hl.notices ++ [⟨.start true l.defaulted, c.stamp⟩]
                      else s.part.hl.notices) ∧
      q.hl.flags = s.part.hl.flags ∧ q.hl.enables = s.part.hl.enables ∧ q.hl.wakeTime = s.part.hl.wakeTime) ∧
  (∀ c (p : Part),
    let members := p.work.presentMembers
    let q : Part := { p with zbus.broadcast := none, zbus.poll := none, zbus.pollDue := c.crystal }
    (p.ac.alert = none → busAtRestart c p = { q with
      zbus.bus := .idle, out := p.out ++ (if members = [] then [] else [.stop (addresses members)]) }) ∧
    (∀ a, p.ac.alert = some a → busAtRestart c p = { q with
      zbus.bus := .alert, out := p.out ++ (if members = [] then [] else [.sound (addresses members) (alertTone a.kind) none]) })) ∧
  (∀ c (q : Part),
    (q.openDay = none → restartDay c q = q) ∧
    (∀ r t, q.openDay = some r → q.bells.today = some t →
      let after : Today := makeToday q.work (r.plan.getD 0) t.delayTotal t.early t.openReading
      let k : Part := { rebuildRing c after q with
        reg.register := q.reg.register.map (fun g =>
          let kept := g.slots.filter (fun e => (Table.get? q.work.slots e.1).isSome)
          { g with slots := kept, tallies := countTallies g.periods kept, exporting := none
                   onSite := (kept.filter (fun e => e.2.presence == .onSite)).length }) }
      ((q.reg.register.map (·.periods)) = some after.plan.marked →
        restartDay c q = sweepsAfterTimes c after (cancellationWrites c t after k)) ∧
      ((q.reg.register.map (·.periods)) ≠ some after.plan.marked →
        restartDay c q = makeSweeps c after (registerAfterRestart c after k)))) ∧
  (∀ c (t : Today) (p : Part),
    let base := p.bells.built { t with early := none } t.openReading
    let fresh := match t.early with
      | none => base.ring
      | some x => (base.closeEarly t x).ring
    let carry : RingEntry → RingEntry → RingEntry := fun o e =>
      if o.state = .sounding ∨ o.state = .due then { e with state := .due, lateBy := none, dueSince := some c.crystal }
      else { e with state := o.state, lateBy := o.lateBy, dueSince := none }
    let same : RingEntry → RingEntry → Bool := fun o e =>
      o.zone == e.zone && o.period == e.period && o.tone == e.tone && o.issue == e.issue
    let made := fresh.map (fun e => match p.bells.ring.find? (fun o => same o e) with
      | some o => carry o e
      | none => e)
    let whole := (p.bells.ring.filter (fun o =>
      (decide (1 < o.issue) || o.period.isNone) && !(made.any (fun e => same e o)))).map (fun o => carry o o)
    let table := made ++ whole.take (192 - made.length)
    let missed := (table.filter (fun e => e.state == .pending && decide (e.time < p.now c))).length
    let final : RingEntry → RingEntry := fun e =>
      if (e.state = .due ∧ p.zoneState e.zone = none) ∨ (e.state = .pending ∧ e.time < p.now c) then
        { e with state := .passed, dueSince := none }
      else if e.state = .pending ∧ e.time = c.second then
        (if p.zoneState e.zone = some (.up .armed) then { e with state := .due, dueSince := some c.crystal }
         else { e with state := .passed })
      else e
    let q := rebuildRing c t p
    q.bells.ring.Perm (table.map final) ∧ q.bells.ring.Pairwise (fun e f => e.le f = true) ∧
    q = { (if missed = 0 then p else raise c (.bellMissedBuild missed) p) with bells := q.bells } ∧
    q.bells.today = some t ∧ q.bells.pendingDelay = p.bells.pendingDelay ∧ q.bells.zoneStates = p.bells.zoneStates) ∧
  (∀ c (t : Today) (p : Part) g, p.reg.register = some g → (p.pmu.outbox.map (·.id)).Nodup →
    let gone : OutEntry → Bool := fun e => e.kind == .absence || e.kind == .late
    let q := registerAfterRestart c t p
    (∃ h, q.reg.register = some h ∧ h.state = .recovery ∧ h.periods = t.plan.marked ∧ h.onSite = g.onSite ∧
      h.exporting = none ∧
      h.tallies = countTallies h.periods h.slots ∧ h.slots.length = p.work.slots.length ∧
      (g.changes ≤ 4294967295 → h.changes = min (g.changes + p.work.slots.length) 4294967295 ∧
        ∀ (i n : Nat) x, p.work.slots[i]? = some (n, x) → h.slots[i]? = some (n, ⟨t.plan.marked.map (fun m =>
            let fresh := m.reg.map (fun _ => NoticeStatus.none)
            if t.effective m.number x.zone = none then ⟨m, .notRequired, some .system, none, some 0, c.second?, none, fresh⟩
            else ⟨m, .unset, none, none, none, none, none, fresh⟩),
          ((g.slot? n).map (·.presence)).getD .notArrived, min (g.changes + i + 1) 4294967295⟩))) ∧
    q.reg.yesterday = p.reg.yesterday ∧
    q.pmu = { p.pmu with
      outbox := p.pmu.outbox.filterMap (fun e => if gone e then (if p.pmu.hasFlight e then some e.cancelled else none) else some e)
      offer := p.pmu.offer.filter (fun o => !(p.pmu.outbox.any (fun e => gone e && e.id == o.handle.id))) }) ∧
  (∀ c (t : Today) (p : Part),
    let q := makeSweeps c t p
    (∃ am pm, q = { p with sweeps.am := am, sweeps.pm := pm }) ∧
    (∀ x, t.reg? x = none → q.sweeps.get? x = none) ∧
    (∀ x k, t.reg? x = some k →
      let w : Sweep := ⟨.waiting, t.cutoff k, 0, 0, 0, 0, none, none⟩
      let recovery := ∃ g, p.reg.register = some g ∧ g.state = .recovery
      (t.cutoff k = none → q.sweeps.get? x = some { w with state := .skipped }) ∧
      (∀ n, t.cutoff k = some n → recovery ∧ n ≤ p.now c →
        q.sweeps.get? x = some { w with state := .suspended, startedAt := c.second? }) ∧
      (∀ n, t.cutoff k = some n → ¬ (recovery ∧ n ≤ p.now c) → q.sweeps.get? x = some w))) ∧
  (∀ c (q : Part), (restartDay c q).pmu.inflight = q.pmu.inflight ∧ (restartDay c q).pmu.gateway = q.pmu.gateway
    ∧ (restartDay c q).pmu.lastSend = q.pmu.lastSend ∧ (restartDay c q).reg.yesterday = q.reg.yesterday)

/-! ## What every step keeps -/

/-- The clock stays within the ranges of R1. -/
def Obligations.ClockStaysSound : Prop := ∀ s t, Clock.Sound s.clock → step s = .next t → Clock.Sound t.clock

/-- While an alert stands no zone is ARMED, nor would it return to ARMED (R182). -/
def Obligations.AlertKeepsZonesSilent : Prop := ∀ s t, AlertSilences s.part → step s = .next t → AlertSilences t.part

/-- The notice list, the contacts in flight with the open offer, the outbox, the ring table (with the plans and zones it is built
from), the arrival queue with the slip lists, the excuse list and the exception list stay within their places (R7, R21, R29,
R98, R103, R146, R159, R165, R192). -/
def Obligations.ListsStayWithinTheirPlaces : Prop :=
  ∀ s t, step s = .next t →
    (NoticesBounded s.part → NoticesBounded t.part) ∧ (InflightBounded s.part → InflightBounded t.part) ∧
    (OutboxBounded s.part → OutboxBounded t.part) ∧ (RingBounded s.part → RingBounded t.part) ∧
    (QueueBounded s.part → QueueBounded t.part) ∧ (ExcusesBounded s.part → ExcusesBounded t.part) ∧
    (ExceptionsBounded s.part → ExceptionsBounded t.part)

/-- The tables of slots, contacts, register records and first arrivals stay in canonical form. -/
def Obligations.TablesStayCanonical : Prop := ∀ s t, TablesCanonical s.part → step s = .next t → TablesCanonical t.part

/-- What every step keeps holds at reset. -/
def Obligations.ResetHoldsWhatStepsKeep : Prop :=
  Clock.Sound State.reset.clock ∧ AlertSilences State.reset.part ∧ NoticesBounded State.reset.part ∧
  InflightBounded State.reset.part ∧ OutboxBounded State.reset.part ∧ RingBounded State.reset.part ∧
  QueueBounded State.reset.part ∧ ExcusesBounded State.reset.part ∧ ExceptionsBounded State.reset.part ∧
  TablesCanonical State.reset.part
end

