-- ==== Sys2Proof/Laws/Calendar.lean ====
section
/-!
SUPPORT. Dates that a rule can give stay within 2000-01-01..2099-12-31.
-/

namespace Sys2Proof.Machine

/-- The date after a date of the calendar. -/
theorem nextDate_lt (d : Date) : nextDate d < Config.dateCount := by
  show (if d + 1 < 36525 then d + 1 else 0 : Nat) < 36525
  split <;> omega

/-- A date as written that exists. -/
theorem dateOf_lt (x : DateField) (d : Date) (h : dateOf x = some d) : d < Config.dateCount := by
  unfold dateOf at h
  split at h
  · rename_i hh
    obtain ⟨h1, h2, h3, h4, h5, h6⟩ := hh
    simp only [Option.some.injEq] at h
    subst h
    have hl : ∀ b : Bool, isLeap x.year = b → (b = true → x.year % 4 = 0) := by
      intro b hb ht; rw [ht] at hb; simpa [isLeap] using hb
    obtain ⟨y, m, k⟩ := x
    simp only at *
    show (yearStart y + ((monthLengths y).take (m - 1)).sum + (k - 1) : Nat) < 36525
    unfold yearStart
    have hm : m = 1 ∨ m = 2 ∨ m = 3 ∨ m = 4 ∨ m = 5 ∨ m = 6 ∨ m = 7 ∨ m = 8 ∨ m = 9 ∨ m = 10 ∨ m = 11 ∨ m = 12 := by omega
    cases hy : isLeap y
    · rcases hm with r | r | r | r | r | r | r | r | r | r | r | r <;> subst r <;>
        simp [monthLengths, hy] at h6 ⊢ <;> omega
    · have := hl true hy rfl
      rcases hm with r | r | r | r | r | r | r | r | r | r | r | r <;> subst r <;>
        simp [monthLengths, hy] at h6 ⊢ <;> omega
  · simp at h

end Sys2Proof.Machine
end

