-- ==== Sys2Proof/Laws/State.lean ====
section
/-!
SUPPORT. One lemma for each field that a shared update leaves, so that no proof opens a record update.
-/

namespace Sys2Proof.Machine

/-! ## `emit` -/

@[simp] theorem emit_work (o : Output) (p : Part) : (emit o p).work = p.work := rfl
@[simp] theorem emit_store (o : Output) (p : Part) : (emit o p).store = p.store := rfl
@[simp] theorem emit_roster (o : Output) (p : Part) : (emit o p).roster = p.roster := rfl
@[simp] theorem emit_day (o : Output) (p : Part) : (emit o p).day = p.day := rfl
@[simp] theorem emit_bells (o : Output) (p : Part) : (emit o p).bells = p.bells := rfl
@[simp] theorem emit_zbus (o : Output) (p : Part) : (emit o p).zbus = p.zbus := rfl
@[simp] theorem emit_reg (o : Output) (p : Part) : (emit o p).reg = p.reg := rfl
@[simp] theorem emit_desk (o : Output) (p : Part) : (emit o p).desk = p.desk := rfl
@[simp] theorem emit_sweeps (o : Output) (p : Part) : (emit o p).sweeps = p.sweeps := rfl
@[simp] theorem emit_pmu (o : Output) (p : Part) : (emit o p).pmu = p.pmu := rfl
@[simp] theorem emit_ac (o : Output) (p : Part) : (emit o p).ac = p.ac := rfl
@[simp] theorem emit_hl (o : Output) (p : Part) : (emit o p).hl = p.hl := rfl

/-! ## `answered` -/

@[simp] theorem answered_work (p : Part) : (answered p).work = p.work := rfl
@[simp] theorem answered_store (p : Part) : (answered p).store = p.store := rfl
@[simp] theorem answered_day (p : Part) : (answered p).day = p.day := rfl
@[simp] theorem answered_bells (p : Part) : (answered p).bells = p.bells := rfl
@[simp] theorem answered_zbus (p : Part) : (answered p).zbus = p.zbus := rfl
@[simp] theorem answered_reg (p : Part) : (answered p).reg = p.reg := rfl
@[simp] theorem answered_desk (p : Part) : (answered p).desk = p.desk := rfl
@[simp] theorem answered_sweeps (p : Part) : (answered p).sweeps = p.sweeps := rfl
@[simp] theorem answered_pmu (p : Part) : (answered p).pmu = p.pmu := rfl
@[simp] theorem answered_ac (p : Part) : (answered p).ac = p.ac := rfl
@[simp] theorem answered_hl (p : Part) : (answered p).hl = p.hl := rfl
@[simp] theorem answered_out (p : Part) : (answered p).out = p.out := rfl

/-! ## `markUnsaved` -/

@[simp] theorem markUnsaved_work (l : List StoreItem) (p : Part) : (markUnsaved l p).work = p.work := rfl
@[simp] theorem markUnsaved_store (l : List StoreItem) (p : Part) : (markUnsaved l p).store = p.store := rfl
@[simp] theorem markUnsaved_day (l : List StoreItem) (p : Part) : (markUnsaved l p).day = p.day := rfl
@[simp] theorem markUnsaved_bells (l : List StoreItem) (p : Part) : (markUnsaved l p).bells = p.bells := rfl
@[simp] theorem markUnsaved_zbus (l : List StoreItem) (p : Part) : (markUnsaved l p).zbus = p.zbus := rfl
@[simp] theorem markUnsaved_reg (l : List StoreItem) (p : Part) : (markUnsaved l p).reg = p.reg := rfl
@[simp] theorem markUnsaved_desk (l : List StoreItem) (p : Part) : (markUnsaved l p).desk = p.desk := rfl
@[simp] theorem markUnsaved_sweeps (l : List StoreItem) (p : Part) : (markUnsaved l p).sweeps = p.sweeps := rfl
@[simp] theorem markUnsaved_pmu (l : List StoreItem) (p : Part) : (markUnsaved l p).pmu = p.pmu := rfl
@[simp] theorem markUnsaved_ac (l : List StoreItem) (p : Part) : (markUnsaved l p).ac = p.ac := rfl
@[simp] theorem markUnsaved_hl (l : List StoreItem) (p : Part) : (markUnsaved l p).hl = p.hl := rfl
@[simp] theorem markUnsaved_out (l : List StoreItem) (p : Part) : (markUnsaved l p).out = p.out := rfl

/-! ## `saved` -/

@[simp] theorem saved_work (l : List StoreItem) (p : Part) : (saved l p).work = p.work := rfl
@[simp] theorem saved_day (l : List StoreItem) (p : Part) : (saved l p).day = p.day := rfl
@[simp] theorem saved_bells (l : List StoreItem) (p : Part) : (saved l p).bells = p.bells := rfl
@[simp] theorem saved_zbus (l : List StoreItem) (p : Part) : (saved l p).zbus = p.zbus := rfl
@[simp] theorem saved_reg (l : List StoreItem) (p : Part) : (saved l p).reg = p.reg := rfl
@[simp] theorem saved_desk (l : List StoreItem) (p : Part) : (saved l p).desk = p.desk := rfl
@[simp] theorem saved_sweeps (l : List StoreItem) (p : Part) : (saved l p).sweeps = p.sweeps := rfl
@[simp] theorem saved_pmu (l : List StoreItem) (p : Part) : (saved l p).pmu = p.pmu := rfl
@[simp] theorem saved_ac (l : List StoreItem) (p : Part) : (saved l p).ac = p.ac := rfl
@[simp] theorem saved_hl (l : List StoreItem) (p : Part) : (saved l p).hl = p.hl := rfl
@[simp] theorem saved_out (l : List StoreItem) (p : Part) : (saved l p).out = p.out := rfl

/-! ## `setSlot` -/

@[simp] theorem setSlot_store (p : Part) (n : Nat) (x : Slot) : (p.setSlot n x).store = p.store := rfl
@[simp] theorem setSlot_roster (p : Part) (n : Nat) (x : Slot) : (p.setSlot n x).roster = p.roster := rfl
@[simp] theorem setSlot_day (p : Part) (n : Nat) (x : Slot) : (p.setSlot n x).day = p.day := rfl
@[simp] theorem setSlot_bells (p : Part) (n : Nat) (x : Slot) : (p.setSlot n x).bells = p.bells := rfl
@[simp] theorem setSlot_zbus (p : Part) (n : Nat) (x : Slot) : (p.setSlot n x).zbus = p.zbus := rfl
@[simp] theorem setSlot_reg (p : Part) (n : Nat) (x : Slot) : (p.setSlot n x).reg = p.reg := rfl
@[simp] theorem setSlot_desk (p : Part) (n : Nat) (x : Slot) : (p.setSlot n x).desk = p.desk := rfl
@[simp] theorem setSlot_sweeps (p : Part) (n : Nat) (x : Slot) : (p.setSlot n x).sweeps = p.sweeps := rfl
@[simp] theorem setSlot_pmu (p : Part) (n : Nat) (x : Slot) : (p.setSlot n x).pmu = p.pmu := rfl
@[simp] theorem setSlot_ac (p : Part) (n : Nat) (x : Slot) : (p.setSlot n x).ac = p.ac := rfl
@[simp] theorem setSlot_hl (p : Part) (n : Nat) (x : Slot) : (p.setSlot n x).hl = p.hl := rfl
@[simp] theorem setSlot_out (p : Part) (n : Nat) (x : Slot) : (p.setSlot n x).out = p.out := rfl

/-! ## `setZoneState` -/

@[simp] theorem setZoneState_work (p : Part) (z : Nat) (x : Option ZoneState) : (p.setZoneState z x).work = p.work := rfl
@[simp] theorem setZoneState_store (p : Part) (z : Nat) (x : Option ZoneState) : (p.setZoneState z x).store = p.store := rfl
@[simp] theorem setZoneState_roster (p : Part) (z : Nat) (x : Option ZoneState) : (p.setZoneState z x).roster = p.roster := rfl
@[simp] theorem setZoneState_day (p : Part) (z : Nat) (x : Option ZoneState) : (p.setZoneState z x).day = p.day := rfl
@[simp] theorem setZoneState_zbus (p : Part) (z : Nat) (x : Option ZoneState) : (p.setZoneState z x).zbus = p.zbus := rfl
@[simp] theorem setZoneState_reg (p : Part) (z : Nat) (x : Option ZoneState) : (p.setZoneState z x).reg = p.reg := rfl
@[simp] theorem setZoneState_desk (p : Part) (z : Nat) (x : Option ZoneState) : (p.setZoneState z x).desk = p.desk := rfl
@[simp] theorem setZoneState_sweeps (p : Part) (z : Nat) (x : Option ZoneState) : (p.setZoneState z x).sweeps = p.sweeps := rfl
@[simp] theorem setZoneState_pmu (p : Part) (z : Nat) (x : Option ZoneState) : (p.setZoneState z x).pmu = p.pmu := rfl
@[simp] theorem setZoneState_ac (p : Part) (z : Nat) (x : Option ZoneState) : (p.setZoneState z x).ac = p.ac := rfl
@[simp] theorem setZoneState_hl (p : Part) (z : Nat) (x : Option ZoneState) : (p.setZoneState z x).hl = p.hl := rfl
@[simp] theorem setZoneState_out (p : Part) (z : Nat) (x : Option ZoneState) : (p.setZoneState z x).out = p.out := rfl

/-! ## `setFaultMemory` -/

@[simp] theorem setFaultMemory_work (z : Nat) (m : FaultMemory) (p : Part) : (setFaultMemory z m p).work = p.work := rfl
@[simp] theorem setFaultMemory_store (z : Nat) (m : FaultMemory) (p : Part) : (setFaultMemory z m p).store = p.store := rfl
@[simp] theorem setFaultMemory_roster (z : Nat) (m : FaultMemory) (p : Part) : (setFaultMemory z m p).roster = p.roster := rfl
@[simp] theorem setFaultMemory_day (z : Nat) (m : FaultMemory) (p : Part) : (setFaultMemory z m p).day = p.day := rfl
@[simp] theorem setFaultMemory_bells (z : Nat) (m : FaultMemory) (p : Part) : (setFaultMemory z m p).bells = p.bells := rfl
@[simp] theorem setFaultMemory_reg (z : Nat) (m : FaultMemory) (p : Part) : (setFaultMemory z m p).reg = p.reg := rfl
@[simp] theorem setFaultMemory_desk (z : Nat) (m : FaultMemory) (p : Part) : (setFaultMemory z m p).desk = p.desk := rfl
@[simp] theorem setFaultMemory_sweeps (z : Nat) (m : FaultMemory) (p : Part) : (setFaultMemory z m p).sweeps = p.sweeps := rfl
@[simp] theorem setFaultMemory_pmu (z : Nat) (m : FaultMemory) (p : Part) : (setFaultMemory z m p).pmu = p.pmu := rfl
@[simp] theorem setFaultMemory_ac (z : Nat) (m : FaultMemory) (p : Part) : (setFaultMemory z m p).ac = p.ac := rfl
@[simp] theorem setFaultMemory_hl (z : Nat) (m : FaultMemory) (p : Part) : (setFaultMemory z m p).hl = p.hl := rfl
@[simp] theorem setFaultMemory_out (z : Nat) (m : FaultMemory) (p : Part) : (setFaultMemory z m p).out = p.out := rfl

/-! ## `onRing` -/

@[simp] theorem onRing_work (f : RingEntry → RingEntry) (p : Part) : (onRing f p).work = p.work := rfl
@[simp] theorem onRing_store (f : RingEntry → RingEntry) (p : Part) : (onRing f p).store = p.store := rfl
@[simp] theorem onRing_roster (f : RingEntry → RingEntry) (p : Part) : (onRing f p).roster = p.roster := rfl
@[simp] theorem onRing_day (f : RingEntry → RingEntry) (p : Part) : (onRing f p).day = p.day := rfl
@[simp] theorem onRing_zbus (f : RingEntry → RingEntry) (p : Part) : (onRing f p).zbus = p.zbus := rfl
@[simp] theorem onRing_reg (f : RingEntry → RingEntry) (p : Part) : (onRing f p).reg = p.reg := rfl
@[simp] theorem onRing_desk (f : RingEntry → RingEntry) (p : Part) : (onRing f p).desk = p.desk := rfl
@[simp] theorem onRing_sweeps (f : RingEntry → RingEntry) (p : Part) : (onRing f p).sweeps = p.sweeps := rfl
@[simp] theorem onRing_pmu (f : RingEntry → RingEntry) (p : Part) : (onRing f p).pmu = p.pmu := rfl
@[simp] theorem onRing_ac (f : RingEntry → RingEntry) (p : Part) : (onRing f p).ac = p.ac := rfl
@[simp] theorem onRing_hl (f : RingEntry → RingEntry) (p : Part) : (onRing f p).hl = p.hl := rfl
@[simp] theorem onRing_out (f : RingEntry → RingEntry) (p : Part) : (onRing f p).out = p.out := rfl

/-! ## `onRegister` -/

@[simp] theorem onRegister_work (p : Part) (f : Register → Register) : (p.onRegister f).work = p.work := rfl
@[simp] theorem onRegister_store (p : Part) (f : Register → Register) : (p.onRegister f).store = p.store := rfl
@[simp] theorem onRegister_roster (p : Part) (f : Register → Register) : (p.onRegister f).roster = p.roster := rfl
@[simp] theorem onRegister_day (p : Part) (f : Register → Register) : (p.onRegister f).day = p.day := rfl
@[simp] theorem onRegister_bells (p : Part) (f : Register → Register) : (p.onRegister f).bells = p.bells := rfl
@[simp] theorem onRegister_zbus (p : Part) (f : Register → Register) : (p.onRegister f).zbus = p.zbus := rfl
@[simp] theorem onRegister_desk (p : Part) (f : Register → Register) : (p.onRegister f).desk = p.desk := rfl
@[simp] theorem onRegister_sweeps (p : Part) (f : Register → Register) : (p.onRegister f).sweeps = p.sweeps := rfl
@[simp] theorem onRegister_pmu (p : Part) (f : Register → Register) : (p.onRegister f).pmu = p.pmu := rfl
@[simp] theorem onRegister_ac (p : Part) (f : Register → Register) : (p.onRegister f).ac = p.ac := rfl
@[simp] theorem onRegister_hl (p : Part) (f : Register → Register) : (p.onRegister f).hl = p.hl := rfl
@[simp] theorem onRegister_out (p : Part) (f : Register → Register) : (p.onRegister f).out = p.out := rfl

/-! ## `onEntry` -/

@[simp] theorem onEntry_work (id : Nat) (f : OutEntry → OutEntry) (p : Part) : (onEntry id f p).work = p.work := rfl
@[simp] theorem onEntry_store (id : Nat) (f : OutEntry → OutEntry) (p : Part) : (onEntry id f p).store = p.store := rfl
@[simp] theorem onEntry_roster (id : Nat) (f : OutEntry → OutEntry) (p : Part) : (onEntry id f p).roster = p.roster := rfl
@[simp] theorem onEntry_day (id : Nat) (f : OutEntry → OutEntry) (p : Part) : (onEntry id f p).day = p.day := rfl
@[simp] theorem onEntry_bells (id : Nat) (f : OutEntry → OutEntry) (p : Part) : (onEntry id f p).bells = p.bells := rfl
@[simp] theorem onEntry_zbus (id : Nat) (f : OutEntry → OutEntry) (p : Part) : (onEntry id f p).zbus = p.zbus := rfl
@[simp] theorem onEntry_reg (id : Nat) (f : OutEntry → OutEntry) (p : Part) : (onEntry id f p).reg = p.reg := rfl
@[simp] theorem onEntry_desk (id : Nat) (f : OutEntry → OutEntry) (p : Part) : (onEntry id f p).desk = p.desk := rfl
@[simp] theorem onEntry_sweeps (id : Nat) (f : OutEntry → OutEntry) (p : Part) : (onEntry id f p).sweeps = p.sweeps := rfl
@[simp] theorem onEntry_ac (id : Nat) (f : OutEntry → OutEntry) (p : Part) : (onEntry id f p).ac = p.ac := rfl
@[simp] theorem onEntry_hl (id : Nat) (f : OutEntry → OutEntry) (p : Part) : (onEntry id f p).hl = p.hl := rfl
@[simp] theorem onEntry_out (id : Nat) (f : OutEntry → OutEntry) (p : Part) : (onEntry id f p).out = p.out := rfl

/-! ## `onStation` -/

@[simp] theorem onStation_work (n : Nat) (f : Station → Station) (p : Part) : (onStation n f p).work = p.work := rfl
@[simp] theorem onStation_store (n : Nat) (f : Station → Station) (p : Part) : (onStation n f p).store = p.store := rfl
@[simp] theorem onStation_roster (n : Nat) (f : Station → Station) (p : Part) : (onStation n f p).roster = p.roster := rfl
@[simp] theorem onStation_day (n : Nat) (f : Station → Station) (p : Part) : (onStation n f p).day = p.day := rfl
@[simp] theorem onStation_bells (n : Nat) (f : Station → Station) (p : Part) : (onStation n f p).bells = p.bells := rfl
@[simp] theorem onStation_zbus (n : Nat) (f : Station → Station) (p : Part) : (onStation n f p).zbus = p.zbus := rfl
@[simp] theorem onStation_reg (n : Nat) (f : Station → Station) (p : Part) : (onStation n f p).reg = p.reg := rfl
@[simp] theorem onStation_sweeps (n : Nat) (f : Station → Station) (p : Part) : (onStation n f p).sweeps = p.sweeps := rfl
@[simp] theorem onStation_pmu (n : Nat) (f : Station → Station) (p : Part) : (onStation n f p).pmu = p.pmu := rfl
@[simp] theorem onStation_ac (n : Nat) (f : Station → Station) (p : Part) : (onStation n f p).ac = p.ac := rfl
@[simp] theorem onStation_hl (n : Nat) (f : Station → Station) (p : Part) : (onStation n f p).hl = p.hl := rfl
@[simp] theorem onStation_out (n : Nat) (f : Station → Station) (p : Part) : (onStation n f p).out = p.out := rfl

/-! ## `onSweep` -/

@[simp] theorem onSweep_work (x : Reg) (f : Sweep → Sweep) (p : Part) : (onSweep x f p).work = p.work := rfl
@[simp] theorem onSweep_store (x : Reg) (f : Sweep → Sweep) (p : Part) : (onSweep x f p).store = p.store := rfl
@[simp] theorem onSweep_roster (x : Reg) (f : Sweep → Sweep) (p : Part) : (onSweep x f p).roster = p.roster := rfl
@[simp] theorem onSweep_day (x : Reg) (f : Sweep → Sweep) (p : Part) : (onSweep x f p).day = p.day := rfl
@[simp] theorem onSweep_bells (x : Reg) (f : Sweep → Sweep) (p : Part) : (onSweep x f p).bells = p.bells := rfl
@[simp] theorem onSweep_zbus (x : Reg) (f : Sweep → Sweep) (p : Part) : (onSweep x f p).zbus = p.zbus := rfl
@[simp] theorem onSweep_reg (x : Reg) (f : Sweep → Sweep) (p : Part) : (onSweep x f p).reg = p.reg := rfl
@[simp] theorem onSweep_desk (x : Reg) (f : Sweep → Sweep) (p : Part) : (onSweep x f p).desk = p.desk := rfl
@[simp] theorem onSweep_pmu (x : Reg) (f : Sweep → Sweep) (p : Part) : (onSweep x f p).pmu = p.pmu := rfl
@[simp] theorem onSweep_ac (x : Reg) (f : Sweep → Sweep) (p : Part) : (onSweep x f p).ac = p.ac := rfl
@[simp] theorem onSweep_hl (x : Reg) (f : Sweep → Sweep) (p : Part) : (onSweep x f p).hl = p.hl := rfl
@[simp] theorem onSweep_out (x : Reg) (f : Sweep → Sweep) (p : Part) : (onSweep x f p).out = p.out := rfl

/-! ## `closeOffer` -/

@[simp] theorem closeOffer_work (p : Part) : (closeOffer p).work = p.work := rfl
@[simp] theorem closeOffer_store (p : Part) : (closeOffer p).store = p.store := rfl
@[simp] theorem closeOffer_roster (p : Part) : (closeOffer p).roster = p.roster := rfl
@[simp] theorem closeOffer_day (p : Part) : (closeOffer p).day = p.day := rfl
@[simp] theorem closeOffer_bells (p : Part) : (closeOffer p).bells = p.bells := rfl
@[simp] theorem closeOffer_zbus (p : Part) : (closeOffer p).zbus = p.zbus := rfl
@[simp] theorem closeOffer_reg (p : Part) : (closeOffer p).reg = p.reg := rfl
@[simp] theorem closeOffer_desk (p : Part) : (closeOffer p).desk = p.desk := rfl
@[simp] theorem closeOffer_sweeps (p : Part) : (closeOffer p).sweeps = p.sweeps := rfl
@[simp] theorem closeOffer_ac (p : Part) : (closeOffer p).ac = p.ac := rfl
@[simp] theorem closeOffer_hl (p : Part) : (closeOffer p).hl = p.hl := rfl
@[simp] theorem closeOffer_out (p : Part) : (closeOffer p).out = p.out := rfl

/-! ## `begin` -/

@[simp] theorem begin_work (ws : List Bool) (p : Part) : (begin ws p).work = p.work := rfl
@[simp] theorem begin_store (ws : List Bool) (p : Part) : (begin ws p).store = p.store := rfl
@[simp] theorem begin_day (ws : List Bool) (p : Part) : (begin ws p).day = p.day := rfl
@[simp] theorem begin_bells (ws : List Bool) (p : Part) : (begin ws p).bells = p.bells := rfl
@[simp] theorem begin_zbus (ws : List Bool) (p : Part) : (begin ws p).zbus = p.zbus := rfl
@[simp] theorem begin_reg (ws : List Bool) (p : Part) : (begin ws p).reg = p.reg := rfl
@[simp] theorem begin_desk (ws : List Bool) (p : Part) : (begin ws p).desk = p.desk := rfl
@[simp] theorem begin_sweeps (ws : List Bool) (p : Part) : (begin ws p).sweeps = p.sweeps := rfl
@[simp] theorem begin_pmu (ws : List Bool) (p : Part) : (begin ws p).pmu = p.pmu := rfl
@[simp] theorem begin_ac (ws : List Bool) (p : Part) : (begin ws p).ac = p.ac := rfl
@[simp] theorem begin_hl (ws : List Bool) (p : Part) : (begin ws p).hl = p.hl := rfl

/-! ## `finish` -/

@[simp] theorem finish_work (p : Part) : (finish p).work = p.work := rfl
@[simp] theorem finish_store (p : Part) : (finish p).store = p.store := rfl
@[simp] theorem finish_day (p : Part) : (finish p).day = p.day := rfl
@[simp] theorem finish_bells (p : Part) : (finish p).bells = p.bells := rfl
@[simp] theorem finish_zbus (p : Part) : (finish p).zbus = p.zbus := rfl
@[simp] theorem finish_reg (p : Part) : (finish p).reg = p.reg := rfl
@[simp] theorem finish_desk (p : Part) : (finish p).desk = p.desk := rfl
@[simp] theorem finish_sweeps (p : Part) : (finish p).sweeps = p.sweeps := rfl
@[simp] theorem finish_pmu (p : Part) : (finish p).pmu = p.pmu := rfl
@[simp] theorem finish_ac (p : Part) : (finish p).ac = p.ac := rfl
@[simp] theorem finish_hl (p : Part) : (finish p).hl = p.hl := rfl
@[simp] theorem finish_out (p : Part) : (finish p).out = p.out := rfl

/-! ## `raise` -/

@[simp] theorem raise_work (c : Clock) (b : NoticeBody) (p : Part) : (raise c b p).work = p.work := by
  unfold raise; split <;> rfl
@[simp] theorem raise_store (c : Clock) (b : NoticeBody) (p : Part) : (raise c b p).store = p.store := by
  unfold raise; split <;> rfl
@[simp] theorem raise_roster (c : Clock) (b : NoticeBody) (p : Part) : (raise c b p).roster = p.roster := by
  unfold raise; split <;> rfl
@[simp] theorem raise_day (c : Clock) (b : NoticeBody) (p : Part) : (raise c b p).day = p.day := by
  unfold raise; split <;> rfl
@[simp] theorem raise_bells (c : Clock) (b : NoticeBody) (p : Part) : (raise c b p).bells = p.bells := by
  unfold raise; split <;> rfl
@[simp] theorem raise_zbus (c : Clock) (b : NoticeBody) (p : Part) : (raise c b p).zbus = p.zbus := by
  unfold raise; split <;> rfl
@[simp] theorem raise_reg (c : Clock) (b : NoticeBody) (p : Part) : (raise c b p).reg = p.reg := by
  unfold raise; split <;> rfl
@[simp] theorem raise_desk (c : Clock) (b : NoticeBody) (p : Part) : (raise c b p).desk = p.desk := by
  unfold raise; split <;> rfl
@[simp] theorem raise_sweeps (c : Clock) (b : NoticeBody) (p : Part) : (raise c b p).sweeps = p.sweeps := by
  unfold raise; split <;> rfl
@[simp] theorem raise_pmu (c : Clock) (b : NoticeBody) (p : Part) : (raise c b p).pmu = p.pmu := by
  unfold raise; split <;> rfl
@[simp] theorem raise_ac (c : Clock) (b : NoticeBody) (p : Part) : (raise c b p).ac = p.ac := by
  unfold raise; split <;> rfl
@[simp] theorem raise_out (c : Clock) (b : NoticeBody) (p : Part) : (raise c b p).out = p.out := by
  unfold raise; split <;> rfl

/-! ## What the touched fields hold -/

@[simp] theorem emit_out_eq (o : Output) (p : Part) : (emit o p).out = p.out ++ [o] := rfl
@[simp] theorem onRing_ring (f : RingEntry → RingEntry) (p : Part) : (onRing f p).bells.ring = p.bells.ring.map f := rfl
@[simp] theorem onRing_zoneStates (f : RingEntry → RingEntry) (p : Part) : (onRing f p).bells.zoneStates = p.bells.zoneStates := rfl
@[simp] theorem onRegister_register (p : Part) (f : Register → Register) : (p.onRegister f).reg.register = p.reg.register.map f := rfl
@[simp] theorem onRegister_yesterday (p : Part) (f : Register → Register) : (p.onRegister f).reg.yesterday = p.reg.yesterday := rfl
@[simp] theorem onEntry_outbox (id : Nat) (f : OutEntry → OutEntry) (p : Part) :
    (onEntry id f p).pmu.outbox = p.pmu.outbox.map (fun e => if e.id = id then f e else e) := rfl
@[simp] theorem onEntry_inflight (id : Nat) (f : OutEntry → OutEntry) (p : Part) : (onEntry id f p).pmu.inflight = p.pmu.inflight := rfl
@[simp] theorem onEntry_offer (id : Nat) (f : OutEntry → OutEntry) (p : Part) : (onEntry id f p).pmu.offer = p.pmu.offer := rfl
@[simp] theorem saved_unsaved (l : List StoreItem) (p : Part) : (saved l p).roster.unsaved = [] := rfl
@[simp] theorem setSlot_slots (p : Part) (n : Nat) (x : Slot) : (p.setSlot n x).work.slots = Table.put p.work.slots n x := rfl

end Sys2Proof.Machine
end

