-- ==== Sys2Proof/Laws/Tables.lean ====
section
/-!
SUPPORT. Tables by key: what a read gives after a write, and that every operation keeps the canonical form.
-/

namespace Sys2Proof.Machine

/-- A written key reads as what was written. -/
theorem Table.get?_put {α : Type} (t : Table α) (k : Nat) (a : α) : Table.get? (Table.put t k a) k = some a := by
  induction t with
  | nil => simp [Table.put, Table.get?]
  | cons e t ih =>
    obtain ⟨j, b⟩ := e
    simp only [Table.put]
    split
    · simp [Table.get?]
    · split
      · simp [Table.get?]
      · simp only [Table.get?]; rw [if_neg (by omega), ih]

/-- A write leaves every other key. -/
theorem Table.get?_put_ne {α : Type} (t : Table α) (k j : Nat) (a : α) (h : j ≠ k) :
    Table.get? (Table.put t k a) j = Table.get? t j := by
  induction t with
  | nil => simp [Table.put, Table.get?]; omega
  | cons e t ih =>
    obtain ⟨i, b⟩ := e
    simp only [Table.put]
    split
    · simp only [Table.get?]; rw [if_neg (by omega)]
    · split
      · rename_i _ h2; subst h2; simp only [Table.get?]; rw [if_neg (by omega), if_neg (by omega)]
      · simp only [Table.get?]; split <;> simp [ih]

/-- An erased key reads as absent. -/
theorem Table.get?_erase {α : Type} (t : Table α) (k : Nat) : Table.get? (Table.erase t k) k = none := by
  induction t with
  | nil => rfl
  | cons e t ih =>
    obtain ⟨j, b⟩ := e
    by_cases h : j = k
    · subst h; simpa [Table.erase] using ih
    · simp only [Table.erase, List.filter_cons] at ih ⊢
      simp only [bne_iff_ne, ne_eq, h, not_false_eq_true, if_true, Table.get?, if_false]
      exact ih

/-- An erasure leaves every other key. -/
theorem Table.get?_erase_ne {α : Type} (t : Table α) (k j : Nat) (h : j ≠ k) :
    Table.get? (Table.erase t k) j = Table.get? t j := by
  induction t with
  | nil => rfl
  | cons e t ih =>
    obtain ⟨i, b⟩ := e
    simp only [Table.erase, List.filter_cons] at ih ⊢
    by_cases hi : i = k
    · subst hi; simp only [bne_self_eq_false, Bool.false_eq_true, if_false, Table.get?]; rw [if_neg (by omega), ih]
    · simp only [bne_iff_ne, ne_eq, hi, not_false_eq_true, if_true, Table.get?, ih]

/-- The canonical form in terms of pairs: the keys rise strictly. -/
theorem Table.wf_iff {α : Type} (t : Table α) : Table.wf t = true ↔ t.Pairwise (fun a b => a.1 < b.1) := by
  induction t with
  | nil => simp [Table.wf]
  | cons e t ih =>
    cases t with
    | nil => simp [Table.wf]
    | cons f t =>
      simp only [Table.wf, Bool.and_eq_true, decide_eq_true_eq, ih, List.pairwise_cons, List.mem_cons, forall_eq_or_imp]
      constructor
      · rintro ⟨h, h1, h2⟩; exact ⟨⟨h, fun a ha => Nat.lt_trans h (h1 a ha)⟩, h1, h2⟩
      · rintro ⟨⟨h, _⟩, h1, h2⟩; exact ⟨h, h1, h2⟩

/-- What a written table holds. -/
theorem Table.mem_put {α : Type} (t : Table α) (k : Nat) (a : α) (e : Nat × α) (h : e ∈ Table.put t k a) :
    e = (k, a) ∨ e ∈ t := by
  induction t with
  | nil => simpa [Table.put] using h
  | cons f t ih =>
    obtain ⟨j, b⟩ := f
    simp only [Table.put] at h
    split at h
    · simpa using h
    · split at h
      · simp only [List.mem_cons] at h ⊢; rcases h with h | h <;> simp [h]
      · simp only [List.mem_cons] at h ⊢
        rcases h with h | h
        · simp [h]
        · rcases ih h with h | h <;> simp [h]

/-- A write keeps the canonical form. -/
theorem Table.wf_put {α : Type} (t : Table α) (k : Nat) (a : α) (h : Table.wf t = true) : Table.wf (Table.put t k a) = true := by
  rw [Table.wf_iff] at h ⊢
  induction t with
  | nil => simp [Table.put]
  | cons f t ih =>
    obtain ⟨j, b⟩ := f
    rw [List.pairwise_cons] at h
    simp only [Table.put]
    split
    · rename_i hk
      rw [List.pairwise_cons, List.pairwise_cons]
      refine ⟨fun e he => ?_, h⟩
      rcases List.mem_cons.1 he with he | he
      · subst he; exact hk
      · exact Nat.lt_trans hk (h.1 e he)
    · split
      · rename_i hk; subst hk; rw [List.pairwise_cons]; exact h
      · rw [List.pairwise_cons]
        refine ⟨fun e he => ?_, ih h.2⟩
        rcases Table.mem_put t k a e he with he | he
        · subst he; show j < k; omega
        · exact h.1 e he

/-- Dropping entries keeps the canonical form. -/
theorem Table.wf_sublist {α : Type} {t u : Table α} (hs : List.Sublist u t) (h : Table.wf t = true) : Table.wf u = true := by
  rw [Table.wf_iff] at h ⊢; exact h.sublist hs

/-- A filter keeps the canonical form. -/
theorem Table.wf_filter {α : Type} (t : Table α) (f : Nat × α → Bool) (h : Table.wf t = true) : Table.wf (t.filter f) = true :=
  Table.wf_sublist List.filter_sublist h

/-- An erasure keeps the canonical form. -/
theorem Table.wf_erase {α : Type} (t : Table α) (k : Nat) (h : Table.wf t = true) : Table.wf (Table.erase t k) = true :=
  Table.wf_filter t _ h

/-- A map that leaves the keys keeps the canonical form. -/
theorem Table.wf_map {α β : Type} (t : Table α) (f : Nat × α → β) (h : Table.wf t = true) :
    Table.wf (t.map (fun e => (e.1, f e))) = true := by
  rw [Table.wf_iff] at h ⊢
  rw [List.pairwise_map]; exact h

end Sys2Proof.Machine
end

