-- ==== Sys2Proof/Laws/Frames.lean ====
section
/-!
SUPPORT. What a mark write and a move of the outbox can touch, said once: the outbox, the offer, the register, the sweep states
and the notice list, each within its bounds. Every shared operation on marks and entries has its lemma here.
-/

namespace Sys2Proof.Machine

/-- What stands between a part and the one that notices, mark writes and moves of the outbox make of it. -/
structure OutboxFrame (p q : Part) : Prop where
  work : q.work = p.work
  store : q.store = p.store
  roster : q.roster = p.roster
  day : q.day = p.day
  bells : q.bells = p.bells
  zbus : q.zbus = p.zbus
  desk : q.desk = p.desk
  ac : q.ac = p.ac
  out : q.out = p.out
  yesterday : q.reg.yesterday = p.reg.yesterday
  resume : q.sweeps.resume = p.sweeps.resume
  inflight : q.pmu.inflight = p.pmu.inflight
  gateway : q.pmu.gateway = p.pmu.gateway
  silentAt : q.pmu.silentAt = p.pmu.silentAt
  lastSend : q.pmu.lastSend = p.pmu.lastSend
  offer : q.pmu.offer = p.pmu.offer ∨ q.pmu.offer = none
  outbox : p.pmu.outbox.length ≤ Config.outboxMax → q.pmu.outbox.length ≤ Config.outboxMax
  notices : p.hl.notices.length ≤ Config.noticeMax → q.hl.notices.length ≤ Config.noticeMax
  link : q.hl = { p.hl with notices := q.hl.notices, overflow := q.hl.overflow }
  register : q.reg.register.isSome = p.reg.register.isSome
  slots : (∀ g, p.reg.register = some g → Table.wf g.slots = true) → ∀ g, q.reg.register = some g → Table.wf g.slots = true

/-- Nothing has changed. -/
theorem OutboxFrame.refl (p : Part) : OutboxFrame p p :=
  ⟨rfl, rfl, rfl, rfl, rfl, rfl, rfl, rfl, rfl, rfl, rfl, rfl, rfl, rfl, rfl, .inl rfl, id, id, rfl, rfl, id⟩

/-- One frame after another. -/
theorem OutboxFrame.trans {p q r : Part} (a : OutboxFrame p q) (b : OutboxFrame q r) : OutboxFrame p r where
  work := b.work.trans a.work
  store := b.store.trans a.store
  roster := b.roster.trans a.roster
  day := b.day.trans a.day
  bells := b.bells.trans a.bells
  zbus := b.zbus.trans a.zbus
  desk := b.desk.trans a.desk
  ac := b.ac.trans a.ac
  out := b.out.trans a.out
  yesterday := b.yesterday.trans a.yesterday
  resume := b.resume.trans a.resume
  inflight := b.inflight.trans a.inflight
  gateway := b.gateway.trans a.gateway
  silentAt := b.silentAt.trans a.silentAt
  lastSend := b.lastSend.trans a.lastSend
  offer := by
    rcases b.offer with h | h
    · rw [h]; exact a.offer
    · exact .inr h
  outbox := fun h => b.outbox (a.outbox h)
  notices := fun h => b.notices (a.notices h)
  link := by rw [b.link, a.link]
  register := b.register.trans a.register
  slots := fun h => b.slots (a.slots h)

/-- A notice. -/
theorem raise_frame (c : Clock) (b : NoticeBody) (p : Part) : OutboxFrame p (raise c b p) := by
  unfold raise
  split
  · rename_i h
    refine ⟨rfl, rfl, rfl, rfl, rfl, rfl, rfl, rfl, rfl, rfl, rfl, rfl, rfl, rfl, rfl, .inl rfl, id, ?_, rfl, rfl, id⟩
    intro _; simp only [List.length_append, List.length_cons, List.length_nil]; exact h
  · exact ⟨rfl, rfl, rfl, rfl, rfl, rfl, rfl, rfl, rfl, rfl, rfl, rfl, rfl, rfl, rfl, .inl rfl, id, id, rfl, rfl, id⟩

/-- A change of the register that keeps its table canonical. -/
theorem onRegister_frame (p : Part) (f : Register → Register) (h : ∀ g, Table.wf g.slots = true → Table.wf (f g).slots = true) :
    OutboxFrame p (p.onRegister f) := by
  refine ⟨rfl, rfl, rfl, rfl, rfl, rfl, rfl, rfl, rfl, rfl, rfl, rfl, rfl, rfl, rfl, .inl rfl, id, id, rfl, ?_, ?_⟩
  · show (p.reg.register.map f).isSome = _; cases p.reg.register <;> rfl
  · intro hw g hg
    have hg : p.reg.register.map f = some g := hg
    cases hp : p.reg.register with
    | none => simp [hp] at hg
    | some g' => simp only [hp, Option.map_some, Option.some.injEq] at hg; subst hg; exact h _ (hw _ hp)

/-- A notice status. -/
theorem setNotice_frame (n : Nat) (x : Reg) (st : NoticeStatus) (p : Part) : OutboxFrame p (setNotice n x st p) := by
  unfold setNotice
  split
  · exact .refl p
  · exact onRegister_frame p _ (fun g hg => by
      split
      · exact hg
      · exact Table.wf_put _ _ _ hg)

/-- A presence move. -/
theorem movePresence_frame (n : Nat) (moved : Presence) (p : Part) : OutboxFrame p (movePresence n moved p) :=
  onRegister_frame p _ (fun g hg => by
    unfold Register.movePresence
    split
    · exact hg
    · exact Table.wf_put _ _ _ hg)

/-- The sweep is told of a leaving. -/
theorem sweepTold_frame (p : Part) : OutboxFrame p (sweepTold p) :=
  ⟨rfl, rfl, rfl, rfl, rfl, rfl, rfl, rfl, rfl, rfl, rfl, rfl, rfl, rfl, rfl, .inl rfl, id, id, rfl, rfl, id⟩

/-- The reports that follow a leaving. -/
theorem afterLeaving_frame (c : Clock) (e : OutEntry) (p : Part) : OutboxFrame p (afterLeaving c e p) := by
  unfold afterLeaving
  dsimp only
  refine OutboxFrame.trans ?_ (sweepTold_frame _)
  have h1 : OutboxFrame p (if e.failedCount = 0 then p else raise c (.undelivered e.id e.kind e.slot? e.failedCount) p) := by
    split
    · exact .refl p
    · exact raise_frame c _ p
  refine h1.trans ?_
  generalize (if e.failedCount = 0 then p else raise c (.undelivered e.id e.kind e.slot? e.failedCount) p) = q
  split
  · unfold reportLeaving
    split
    · exact .refl q
    · split
      · exact setNotice_frame _ _ _ _
      · exact .refl q
  · exact .refl q

/-- A new list of entries that is no longer than the old one. -/
theorem outbox_frame (p : Part) (l : List OutEntry) (h : l.length ≤ p.pmu.outbox.length) :
    OutboxFrame p { p with pmu.outbox := l } :=
  ⟨rfl, rfl, rfl, rfl, rfl, rfl, rfl, rfl, rfl, rfl, rfl, rfl, rfl, rfl, rfl, .inl rfl, fun hb => Nat.le_trans h hb, id, rfl, rfl, id⟩

/-- A change of one entry. -/
theorem onEntry_frame (id : Nat) (f : OutEntry → OutEntry) (p : Part) : OutboxFrame p (onEntry id f p) :=
  outbox_frame p _ (by simp)

/-- An entry leaves. -/
theorem leave_frame (c : Clock) (e : OutEntry) (p : Part) : OutboxFrame p (leave c e p) :=
  (outbox_frame p _ (List.length_filter_le _ _)).trans (afterLeaving_frame c e _)

/-- An entry's state follows. -/
theorem follow_frame (c : Clock) (id : Nat) (p : Part) : OutboxFrame p (follow c id p) := by
  unfold follow
  split
  · exact .refl p
  · split
    · exact leave_frame c _ p
    · exact .refl p

/-- An appended entry, where there is room. -/
theorem append_frame (c : Clock) (q : EntryRequest) (p : Part) (h : p.pmu.outbox.length < Config.outboxMax) :
    OutboxFrame p (append c q p).1 := by
  refine ⟨rfl, rfl, rfl, rfl, rfl, rfl, rfl, rfl, rfl, rfl, rfl, rfl, rfl, rfl, rfl, .inl rfl, fun _ => ?_, id, rfl, rfl, id⟩
  show (p.pmu.outbox ++ [_]).length ≤ _
  simp only [List.length_append, List.length_cons, List.length_nil]; exact h

/-- A notice status moves nothing of the messages. -/
@[simp] theorem setNotice_pmu (n : Nat) (x : Reg) (st : NoticeStatus) (p : Part) : (setNotice n x st p).pmu = p.pmu := by
  unfold setNotice
  split <;> rfl

/-- The register's answer to a leaving moves nothing of the messages. -/
@[simp] theorem reportLeaving_pmu (n : Nat) (x : Reg) (delivered failed : Bool) (p : Part) :
    (reportLeaving n x delivered failed p).pmu = p.pmu := by
  unfold reportLeaving
  split
  · rfl
  · split
    · exact setNotice_pmu _ _ _ _
    · rfl

/-- A leaving takes the entries with the id out of the outbox and moves nothing else of the messages. -/
theorem leave_pmu (c : Clock) (e : OutEntry) (p : Part) :
    (leave c e p).pmu = { p.pmu with outbox := p.pmu.outbox.filter (fun x => x.id != e.id) } := by
  unfold leave afterLeaving
  show (match e.kind, e.slot?, e.reg with
    | .absence, some n, some x => reportLeaving n x e.anyDelivered (e.failedCount != 0) _
    | _, _, _ => _).pmu = _
  split <;> (try rw [reportLeaving_pmu]) <;> split <;> simp

/-- What leaves the outbox leaves room in it. -/
theorem leave_outbox (c : Clock) (e : OutEntry) (p : Part) :
    (leave c e p).pmu.outbox = p.pmu.outbox.filter (fun x => x.id != e.id) := by
  rw [leave_pmu]

/-- A candidate stands in the outbox. -/
theorem candidate_mem (m : Messages) (cls : OutClass) (e : OutEntry) (h : m.candidate cls = some e) : e ∈ m.outbox := by
  unfold Messages.candidate at h
  obtain ⟨r, _, hr⟩ := List.exists_of_findSome?_eq_some h
  exact List.mem_of_find?_eq_some hr

/-- A creation, whatever its answer. -/
theorem create_frame (c : Clock) (q : EntryRequest) (p : Part) : OutboxFrame p (create c q p).1 := by
  unfold create
  split
  · exact .refl p
  · split
    · rename_i h; exact append_frame c q p h
    · split
      · exact .refl p
      · rename_i e he
        have hm := candidate_mem _ _ _ he
        have h1 := leave_frame c e.cancelled p
        have h2 := raise_frame c (.displaced e.id e.kind e.slot? q.kind) (leave c e.cancelled p)
        have hid : e.cancelled.id = e.id := by unfold OutEntry.cancelled; split <;> rfl
        have hl : (leave c e.cancelled p).pmu.outbox.length < p.pmu.outbox.length := by
          rw [leave_outbox, hid]
          exact List.length_filter_lt_length_iff_exists.2 ⟨e, hm, by simp⟩
        refine ⟨(h1.trans h2).work, (h1.trans h2).store, (h1.trans h2).roster, (h1.trans h2).day, (h1.trans h2).bells,
          (h1.trans h2).zbus, (h1.trans h2).desk, (h1.trans h2).ac, (h1.trans h2).out, (h1.trans h2).yesterday,
          (h1.trans h2).resume, (h1.trans h2).inflight, (h1.trans h2).gateway, (h1.trans h2).silentAt, (h1.trans h2).lastSend,
          (h1.trans h2).offer, fun hb => ?_, (h1.trans h2).notices, (h1.trans h2).link, (h1.trans h2).register,
          (h1.trans h2).slots⟩
        show ((raise c _ (leave c e.cancelled p)).pmu.outbox ++ [_]).length ≤ _
        rw [raise_pmu, List.length_append]
        simp only [List.length_cons, List.length_nil]; omega

/-- A creation that reports its refusal. -/
theorem createOrReport_frame (c : Clock) (q : EntryRequest) (p : Part) : OutboxFrame p (createOrReport c q p).1 := by
  have h := create_frame c q p
  unfold createOrReport
  split <;> rename_i e <;> rw [e] at h
  · exact h.trans (raise_frame c _ _)
  · exact h
  · exact h

/-- A withdrawal of one entry. -/
theorem withdrawEntry_frame (c : Clock) (e : OutEntry) (p : Part) : OutboxFrame p (withdrawEntry c e p).1 := by
  unfold withdrawEntry
  dsimp only
  refine ((onEntry_frame e.id OutEntry.cancelled p).trans ?_).trans (follow_frame c e.id _)
  refine ⟨rfl, rfl, rfl, rfl, rfl, rfl, rfl, rfl, rfl, rfl, rfl, rfl, rfl, rfl, rfl, ?_, id, id, rfl, rfl, id⟩
  show Option.filter _ _ = _ ∨ Option.filter _ _ = none
  cases (onEntry e.id OutEntry.cancelled p).pmu.offer with
  | none => exact .inl rfl
  | some o => rw [Option.filter_some]; split <;> simp

/-- A withdrawal by id. -/
theorem withdrawId_frame (c : Clock) (id : Nat) (p : Part) : OutboxFrame p (withdrawId c id p).1 := by
  unfold withdrawId
  split
  · exact .refl p
  · exact withdrawEntry_frame c _ p

/-- A withdrawal by slot, kind and r. -/
theorem withdrawFor_frame (c : Clock) (k : OutKind) (n : Nat) (x : Reg) (p : Part) : OutboxFrame p (withdrawFor c k n x p).1 := by
  unfold withdrawFor
  split
  · exact .refl p
  · exact withdrawEntry_frame c _ p

/-- A fold of framed steps. -/
theorem foldl_frame {α : Type} (f : Part → α → Part) (h : ∀ p a, OutboxFrame p (f p a)) (l : List α) (p : Part) :
    OutboxFrame p (l.foldl f p) := by
  induction l generalizing p with
  | nil => exact .refl p
  | cons a l ih => exact (h p a).trans (ih _)

/-- A withdrawal of every entry that a test picks. -/
theorem withdrawAll_frame (c : Clock) (pick : OutEntry → Bool) (p : Part) : OutboxFrame p (withdrawAll c pick p) :=
  foldl_frame _ (fun p id => withdrawId_frame c id p) _ p

/-- What follows a write on the outbox. -/
theorem writeFollows_frame (c : Clock) (v : MarkValue) (n : Nat) (old : Mark) (p : Part) :
    OutboxFrame p (writeFollows c v n old p) := by
  unfold writeFollows
  split
  · exact .refl p
  · rename_i x _
    have h1 : OutboxFrame p (noticeFollows c v n x old p) := by
      unfold noticeFollows
      split
      · split
        · unfold arrivalFollows
          have hw := withdrawFor_frame c .absence n x p
          split
          rename_i q w e
          rw [e] at hw
          split
          · have hc := createOrReport_frame c (correctionRequest c q n x w.contacts) q
            split <;> rename_i e' <;> rw [e'] at hc <;> exact (hw.trans hc).trans (setNotice_frame _ _ _ _)
          · exact hw.trans (setNotice_frame _ _ _ _)
        · split
          · exact (withdrawFor_frame c .absence n x p).trans (setNotice_frame _ _ _ _)
          · exact .refl p
      · exact .refl p
    refine h1.trans ?_
    unfold lateFollows
    split
    · exact withdrawFor_frame _ _ _ _ _
    · exact .refl _

/-- A mark write, applied or skipped. -/
theorem writeMark_frame (c : Clock) (w : Write) (n k : Nat) (p : Part) : OutboxFrame p (writeMark c w n k p).1 := by
  unfold writeMark
  split
  · exact .refl p
  · split
    · exact .refl p
    · split
      · exact .refl p
      · split
        · refine (onRegister_frame p _ (fun g hg => ?_)).trans (writeFollows_frame _ _ _ _ _)
          exact Table.wf_put _ _ _ hg
        · exact .refl p

/-- The cancellation writes of R92. -/
theorem cancellationWrites_frame (c : Clock) (before after : Today) (p : Part) :
    OutboxFrame p (cancellationWrites c before after p) := by
  unfold cancellationWrites
  split
  · exact .refl p
  · exact foldl_frame _ (fun p e => foldl_frame _ (fun p k => writeMark_frame c _ _ k p) _ p) _ p

end Sys2Proof.Machine
end

