-- ==== Sys2Proof/Laws/HostLink.lean ====
section
/-!
SUPPORT. What the frames of commands do, once: a request that is acted on, one that meets a reply in progress, one that wakes
a DORMANT part, an event; and what a request's write to the store gives.
-/

namespace Sys2Proof.Machine

/-- A part that is awake hears a request line: only a service wake ends. -/
theorem requestLine_awake (c : Clock) (p : Part) (h : p.hl.activity ≠ .dormant) :
    requestLine c p = { p with hl.service := none } := by
  unfold requestLine; rw [if_neg h]

/-- A request in a listening part is acted on and answered. -/
theorem request_listening {s : State} {sfx : Bool} {ws : List Bool} {act : Clock → Part → Part × Reply} (h : Listening s) :
    request sfx ws act s = .next (replied s (act s.clock (heard s ws)).1 sfx (act s.clock (heard s ws)).2) := by
  have e : requestLine s.clock (begin ws s.part) = heard s ws := requestLine_awake _ _ h.2
  unfold request event requestPart
  simp only [e]
  rw [if_neg (by simp [heard, h.1])]
  rfl

/-- A query in a listening part is answered. -/
theorem query_listening {s : State} {sfx : Bool} {read : Clock → Part → Reply} (h : Listening s) :
    query sfx read s = .next (replied s (heard s []) sfx (read s.clock (heard s []))) := request_listening h

/-- A request that meets a reply in progress is held as BUSY. -/
theorem request_busy {s : State} {sfx : Bool} {ws : List Bool} {act : Clock → Part → Part × Reply}
    (hr : s.part.hl.reply ≠ none) (ha : s.part.hl.activity ≠ .dormant) :
    request sfx ws act s = .next (left s { heard s [] with hl.busy := some (s.part.hl.busy.getD sfx) }) := by
  have e : requestLine s.clock (begin ws s.part) = heard s ws := requestLine_awake _ _ ha
  unfold request event requestPart
  simp only [e]
  rw [if_pos (by simpa [heard, Option.isSome_iff_ne_none] using hr)]
  unfold holdBusy
  cases hb : s.part.hl.busy <;> simp [heard, finish, left, hb]

/-- Leaving DORMANT (R49, R113). -/
theorem setActivity_leave (c : Clock) (a : Activity) (p : Part) (h : p.hl.activity = .dormant) (ha : a ≠ .dormant) :
    setActivity c a p = { p with hl.activity := a, zbus.pollDue := c.crystal
                                 desk.cycleNext := p.desk.cycleStart + Config.cycleAwake } := by
  unfold setActivity; rw [if_pos h, if_neg ha]

/-- Flag HOST in a DORMANT part (R197, R198). -/
theorem setFlag_host_dormant (c : Clock) (p : Part) (h : p.hl.activity = .dormant) :
    setFlag c .host p = raise c (.wake .host)
      { p with hl.flags.host := true, hl.activity := .quiet, hl.service := none, zbus.pollDue := c.crystal
               desk.cycleNext := p.desk.cycleStart + Config.cycleAwake } := by
  have e : setFlag c .host p = wakeBy c .host { p with hl.flags := p.hl.flags.set .host } := by
    unfold setFlag; rw [if_pos h]; rfl
  have e2 := setActivity_leave c .quiet { p with hl.flags := p.hl.flags.set .host } h (by decide)
  rw [e]; unfold wakeBy; rw [e2]; rfl

/-- A notice touches neither the lines nor the store's answers. -/
theorem raise_begin (c : Clock) (b : NoticeBody) (ws : List Bool) (p : Part) :
    raise c b (begin ws p) = begin ws (raise c b p) := by
  show (if p.hl.notices.length < _ then _ else _) = begin ws (if p.hl.notices.length < _ then _ else _)
  split <;> rfl

/-- A notice leaves the activity state and the service wake. -/
theorem raise_hl (c : Clock) (b : NoticeBody) (p : Part) :
    (raise c b p).hl.activity = p.hl.activity ∧ (raise c b p).hl.service = p.hl.service := by
  unfold raise; split <;> exact ⟨rfl, rfl⟩

/-- A request line wakes a DORMANT part: what follows is what follows in the woken part. -/
theorem requestLine_dormant (ws : List Bool) (s : State) (h : s.part.hl.activity = .dormant) :
    requestLine s.clock (begin ws s.part) = requestLine s.clock (begin ws (wokenByHost s).part) := by
  have hb : (begin ws s.part).hl.activity = .dormant := h
  have hl := setFlag_host_dormant s.clock (begin ws s.part) hb
  have hr : (wokenByHost s).part.hl.activity = .quiet ∧ (wokenByHost s).part.hl.service = none :=
    ⟨(raise_hl _ _ _).1, (raise_hl _ _ _).2⟩
  have e1 : requestLine s.clock (begin ws s.part) = setFlag s.clock .host (begin ws s.part) := by
    unfold requestLine; rw [if_pos hb]
  have hn : (begin ws (wokenByHost s).part).hl.activity ≠ .dormant := by
    show (wokenByHost s).part.hl.activity ≠ _; rw [hr.1]; decide
  rw [e1, hl, requestLine_awake _ _ hn]
  have e2 : (begin ws (wokenByHost s).part).hl.service = none := hr.2
  have e3 : ({ begin ws (wokenByHost s).part with hl.service := none } : Part) = begin ws (wokenByHost s).part := by
    rw [← e2]
  rw [e3]
  exact raise_begin s.clock (.wake .host) ws
    { s.part with hl.flags.host := true, hl.activity := .quiet, hl.service := none, zbus.pollDue := s.clock.crystal
                  desk.cycleNext := s.part.desk.cycleStart + Config.cycleAwake }

/-- A request that wakes a DORMANT part is the same request in the woken part. -/
theorem request_dormant {s : State} {sfx : Bool} {ws : List Bool} {act : Clock → Part → Part × Reply}
    (h : s.part.hl.activity = .dormant) : request sfx ws act s = request sfx ws act (wokenByHost s) := by
  have e := requestLine_dormant ws s h
  have hc : (wokenByHost s).clock = s.clock := rfl
  unfold request event requestPart
  simp only [e, hc]; rfl

/-- TIME SET in a listening part. -/
theorem timeSet_listening {s : State} {sfx : Bool} {d : DateField} {t : TimeField} {force : Bool} {ws : List Bool}
    (h : Listening s) : execTimeSet sfx d t force ws s
      = .next { replied s (setTime s.clock d t force (heard s ws)).2.1 sfx (setTime s.clock d t force (heard s ws)).2.2 with
                clock := (setTime s.clock d t force (heard s ws)).1 } := by
  have e : requestLine s.clock (begin ws s.part) = heard s ws := requestLine_awake _ _ h.2
  unfold execTimeSet
  simp only [e]
  rw [if_neg (by simp [heard, h.1])]
  rfl

/-- TIME SET while a reply is in progress. -/
theorem timeSet_busy {s : State} {sfx : Bool} {d : DateField} {t : TimeField} {force : Bool} {ws : List Bool}
    (hr : s.part.hl.reply ≠ none) (ha : s.part.hl.activity ≠ .dormant) : execTimeSet sfx d t force ws s
      = .next (left s { heard s [] with hl.busy := some (s.part.hl.busy.getD sfx) }) := by
  have e : requestLine s.clock (begin ws s.part) = heard s ws := requestLine_awake _ _ ha
  unfold execTimeSet
  simp only [e]
  rw [if_pos (by simpa [heard, Option.isSome_iff_ne_none] using hr)]
  unfold holdBusy
  cases hb : s.part.hl.busy <;> simp [heard, finish, left, hb]

/-- An event, by what it leaves. -/
theorem event_left (ws : List Bool) (f : Clock → Part → Part) (s : State) :
    event ws f s = .next (left s (f s.clock (met s ws))) := rfl

/-- A request's write that the store keeps. -/
theorem stored_kept {s : State} {ws : List Bool} {items : List StoreItem} {f : Image → Image} {k : Part → Part × Reply}
    (h : Kept ws) : stored items f (heard s ws) k = k (written s ws items f) := by
  have e : storeAnswer (heard s ws) = true := h
  unfold stored requestWrite
  rw [if_pos e]; rfl

/-- A request's write that the store fails. -/
theorem stored_failed {s : State} {ws : List Bool} {items : List StoreItem} {f : Image → Image} {k : Part → Part × Reply}
    (h : ws.headD true = false) : stored items f (heard s ws) k = refuse .store (heard s ws.tail) := by
  have e : storeAnswer (heard s ws) = false := h
  unfold stored requestWrite
  rw [if_neg (by rw [e]; decide)]; rfl

/-- A refusal leaves the same state whatever the store would have answered. -/
theorem replied_refuse (s : State) (ws : List Bool) (sfx : Bool) (e : ErrCode) :
    replied s (heard s ws) sfx (err e) = refusedWith s sfx e := rfl

/-! ## Activity and flags -/

/-- A move of the activity state touches that item, poll due and the next poll cycle. -/
theorem setActivity_touches (c : Clock) (a : Activity) (p : Part) :
    ∃ d n, setActivity c a p = { p with hl.activity := a, zbus.pollDue := d, desk.cycleNext := n } := by
  unfold setActivity
  split
  · split
    · rename_i h1 h2; exact ⟨p.zbus.pollDue, p.desk.cycleNext, by rw [h2, ← h1]⟩
    · exact ⟨_, _, rfl⟩
  · split
    · exact ⟨p.zbus.pollDue, _, rfl⟩
    · exact ⟨p.zbus.pollDue, p.desk.cycleNext, rfl⟩

/-- A flag touches the Host Link's flags, activity, service and notices, poll due and the next poll cycle; the notice list keeps
its bound, and no flag but this one moves. -/
theorem setFlag_touches (c : Clock) (f : WakeFlag) (p : Part) :
    ∃ a v n o d k, setFlag c f p = { p with
        hl := { p.hl with flags := p.hl.flags.set f, activity := a, service := v, notices := n, overflow := o }
        zbus.pollDue := d, desk.cycleNext := k } ∧
      (p.hl.notices.length ≤ Config.noticeMax → n.length ≤ Config.noticeMax) := by
  unfold setFlag
  dsimp only
  split
  · split
    · unfold wakeBy
      obtain ⟨d, k, e⟩ := setActivity_touches c .quiet { p with hl.flags := p.hl.flags.set f }
      rw [e]
      unfold raise
      split
      · rename_i h
        refine ⟨_, _, _, _, _, _, rfl, fun _ => ?_⟩
        simp only [List.length_append, List.length_cons, List.length_nil]; exact h
      · exact ⟨_, _, _, _, _, _, rfl, id⟩
    · exact ⟨_, _, _, _, _, _, rfl, id⟩
  · exact ⟨_, _, _, _, _, _, rfl, id⟩

end Sys2Proof.Machine
end

