-- ==== Sys2Proof/Laws/Lists.lean ====
section
/-!
SUPPORT. What the shared list operations can do: sorting of the ring table, least and greatest, the reading of lists, the
visits of an export, and the exchanges of a poll cycle that do nothing.
-/

namespace Sys2Proof.Machine

/-! ## Order -/

/-- An inserted element joins the others. -/
theorem insertBy_perm {α : Type} (le : α → α → Bool) (a : α) (l : List α) : (insertBy le a l).Perm (a :: l) := by
  induction l with
  | nil => exact List.Perm.refl _
  | cons b t ih =>
    unfold insertBy
    split_ifs
    · exact List.Perm.refl _
    · exact (ih.cons b).trans (List.Perm.swap a b t)

/-- Sorting keeps the elements. -/
theorem sortBy_perm {α : Type} (le : α → α → Bool) (l : List α) : (sortBy le l).Perm l := by
  induction l with
  | nil => exact List.Perm.refl _
  | cons a t ih => exact (insertBy_perm le a _).trans (ih.cons a)

/-- The order of the ring table is total. -/
theorem RingEntry.le_or_ge (a b : RingEntry) (h : a.le b = false) : b.le a = true := by
  revert h; unfold RingEntry.le; simp; omega

/-- The order of the ring table is transitive. -/
theorem RingEntry.le_chain {a b d : RingEntry} : a.le b = true → b.le d = true → a.le d = true := by
  unfold RingEntry.le; simp; omega

/-- An insertion keeps the table in order. -/
theorem insertBy_ordered (a : RingEntry) (l : List RingEntry) (h : l.Pairwise (fun e f => e.le f = true)) :
    (insertBy RingEntry.le a l).Pairwise (fun e f => e.le f = true) := by
  induction l with
  | nil => simp [insertBy]
  | cons b t ih =>
    rw [List.pairwise_cons] at h
    unfold insertBy
    split_ifs with hb
    · refine List.pairwise_cons.2 ⟨fun x hx => ?_, List.pairwise_cons.2 h⟩
      rcases List.mem_cons.1 hx with rfl | hx
      · exact hb
      · exact RingEntry.le_chain hb (h.1 x hx)
    · refine List.pairwise_cons.2 ⟨fun x hx => ?_, ih h.2⟩
      rcases List.mem_cons.1 ((insertBy_perm _ a t).mem_iff.1 hx) with rfl | hx
      · exact RingEntry.le_or_ge _ _ (by simpa using hb)
      · exact h.1 x hx

/-- A sorted table is in order. -/
theorem sortBy_ordered (l : List RingEntry) : (sortBy RingEntry.le l).Pairwise (fun e f => e.le f = true) := by
  induction l with
  | nil => simp [sortBy]
  | cons a t ih => exact insertBy_ordered a _ ih

/-! ## Least and greatest -/

theorem foldl_min_spec (l : List Nat) (a : Nat) :
    (l.foldl min a = a ∨ l.foldl min a ∈ l) ∧ l.foldl min a ≤ a ∧ ∀ k ∈ l, l.foldl min a ≤ k := by
  induction l generalizing a with
  | nil => simp
  | cons b t ih =>
    simp only [List.foldl_cons, List.mem_cons]
    obtain ⟨h1, h2, h3⟩ := ih (min a b)
    refine ⟨?_, by omega, ?_⟩
    · rcases h1 with h | h
      · rw [h]; omega
      · exact .inr (.inr h)
    · rintro k (rfl | h)
      · omega
      · exact h3 k h

theorem foldl_max_spec (l : List Nat) (a : Nat) :
    (l.foldl max a = a ∨ l.foldl max a ∈ l) ∧ a ≤ l.foldl max a ∧ ∀ k ∈ l, k ≤ l.foldl max a := by
  induction l generalizing a with
  | nil => simp
  | cons b t ih =>
    simp only [List.foldl_cons, List.mem_cons]
    obtain ⟨h1, h2, h3⟩ := ih (max a b)
    refine ⟨?_, by omega, ?_⟩
    · rcases h1 with h | h
      · rw [h]; omega
      · exact .inr (.inr h)
    · rintro k (rfl | h)
      · omega
      · exact h3 k h

/-- The least of some numbers is one of them and no greater than any. -/
theorem least_spec {l : List Nat} (h : l ≠ []) : ∃ m ∈ l, (∀ k ∈ l, m ≤ k) ∧ least l = some m := by
  cases l with
  | nil => exact absurd rfl h
  | cons a t =>
    obtain ⟨h1, h2, h3⟩ := foldl_min_spec t a
    exact ⟨t.foldl min a, by simpa using h1, by simpa using ⟨h2, h3⟩, rfl⟩

/-- The greatest of some numbers is one of them and no less than any. -/
theorem greatest_spec {l : List Nat} (h : l ≠ []) : ∃ m ∈ l, (∀ k ∈ l, k ≤ m) ∧ greatest l = some m := by
  cases l with
  | nil => exact absurd rfl h
  | cons a t =>
    obtain ⟨h1, h2, h3⟩ := foldl_max_spec t a
    exact ⟨t.foldl max a, by simpa using h1, by simpa using ⟨h2, h3⟩, rfl⟩

/-- The terms of O and C: today's zones, or the single term with offset 0. -/
theorem Today.terms_eq (t : Today) : t.terms = if t.zones = [] then [6] else t.zones.map (·.zone) := by
  unfold Today.terms Today.zoneSet noZone
  cases t.zones <;> simp

/-! ## Reading lists -/

theorem noRepeat_iff {α : Type} [DecidableEq α] (l : List α) : noRepeat l = true ↔ l.Nodup := by
  induction l with
  | nil => simp [noRepeat]
  | cons a t ih => simp [noRepeat, ih]

/-! ## The visits of an export -/

/-- The slot k visits on from slot n. -/
def visitPlace (d : Direction) (n k : Nat) : Nat :=
  match d with
  | .up => (n + k) % 3072
  | .down => (n + 3072 - k % 3072) % 3072

theorem nextPosition_lt (d : Direction) {n : Nat} (h : n < 3072) : nextPosition d n < 3072 := by
  unfold nextPosition Config.slotCount
  cases d <;> simp <;> split_ifs <;> omega

theorem visitPlace_zero (d : Direction) {n : Nat} (h : n < 3072) : visitPlace d n 0 = n := by
  cases d <;> simp [visitPlace] <;> omega

theorem visitPlace_succ (d : Direction) {n : Nat} (k : Nat) (h : n < 3072) :
    visitPlace d n (k + 1) = visitPlace d (nextPosition d n) k := by
  unfold nextPosition Config.slotCount
  cases d <;> simp [visitPlace] <;> split_ifs <;> omega

theorem filterMap_range_succ {α : Type} (f : Nat → Option α) (v : Nat) :
    (List.range (v + 1)).filterMap f = (f 0).toList ++ (List.range v).filterMap (fun k => f (k + 1)) := by
  rw [List.range_succ_eq_map, List.filterMap_cons, List.filterMap_map]
  cases f 0 <;> rfl

/-- A block visits some slots in turn, at most the number left, and stops when it has its number of lines. -/
theorem visit_spec (line : Nat → Option (List Field)) (d : Direction) (r n room : Nat) (h1 : n < 3072) (h2 : 1 ≤ room)
    (h3 : 1 ≤ r) :
    let lines := fun v => (List.range v).filterMap (fun k => line (visitPlace d n k))
    ∃ v, 1 ≤ v ∧ v ≤ r ∧ visit line d r n room = (lines v, visitPlace d n v, r - v) ∧
      (∀ k, k < v → (lines k).length < room) ∧ (v < r → (lines v).length = room) ∧ (lines v).length ≤ room := by
  induction r generalizing n room with
  | zero => omega
  | succ r ih =>
    intro lines
    have h0 : line (visitPlace d n 0) = line n := by rw [visitPlace_zero d h1]
    have hs : ∀ v, lines (v + 1)
        = (line n).toList ++ (List.range v).filterMap (fun k => line (visitPlace d (nextPosition d n) k)) := by
      intro v
      simp only [lines, filterMap_range_succ, h0, visitPlace_succ d _ h1]
    have hone : visitPlace d n 1 = nextPosition d n := by
      rw [visitPlace_succ d 0 h1, visitPlace_zero d (nextPosition_lt d h1)]
    have hnil : (lines 0).length < room := by simp [lines]; omega
    by_cases last : r = 0 ∨ (room ≤ 1 ∧ line n ≠ none)
    · refine ⟨1, by omega, by omega, ?_, fun k hk => ?_, fun h => ?_, ?_⟩
      · rw [hs 0, hone]
        cases hl : line n with
        | none =>
          rcases last with rfl | h
          · simp [visit, hl]
          · exact absurd hl h.2
        | some l =>
          rcases last with rfl | h
          · by_cases hr : room ≤ 1 <;> simp [visit, hl, hr]
          · simp [visit, hl, h.1]
      · have : k = 0 := by omega
        subst this; exact hnil
      · rcases last with h' | h'
        · omega
        · rw [hs 0]
          cases hl : line n with
          | none => exact absurd hl h'.2
          | some l => simp; omega
      · rw [hs 0]
        cases line n <;> simp; omega
    · rw [not_or] at last
      have hgo : ∀ room', 1 ≤ room' → (line n).toList.length + room' = room →
          visit line d (r + 1) n room = ((line n).toList ++ (visit line d r (nextPosition d n) room').1,
            (visit line d r (nextPosition d n) room').2) →
          ∃ v, 1 ≤ v ∧ v ≤ r + 1 ∧ visit line d (r + 1) n room = (lines v, visitPlace d n v, r + 1 - v) ∧
            (∀ k, k < v → (lines k).length < room) ∧ (v < r + 1 → (lines v).length = room) ∧ (lines v).length ≤ room := by
        intro room' h4 h5 h6
        obtain ⟨v, a1, a2, a3, a4, a5, a6⟩ := ih (nextPosition d n) room' (nextPosition_lt d h1) h4 (by omega)
        dsimp only at a4 a5 a6
        refine ⟨v + 1, by omega, by omega, ?_, fun k hk => ?_, fun h => ?_, ?_⟩
        · rw [h6, a3, hs v, visitPlace_succ d v h1]; simp
        · cases k with
          | zero => exact hnil
          | succ k => rw [hs k, List.length_append]; have := a4 k (by omega); omega
        · rw [hs v, List.length_append]; have := a5 (by omega); omega
        · rw [hs v, List.length_append]; omega
      cases hl : line n with
      | none => exact hgo room h2 (by simp [hl]) (by simp [visit, hl])
      | some l =>
        have hr : ¬ room ≤ 1 := fun h => last.2 ⟨h, by simp [hl]⟩
        exact hgo (room - 1) (by omega) (by simp [hl]; omega) (by simp [visit, hl, hr])

/-! ## Exchanges of a poll cycle -/

/-- Without an open exchange an outcome does nothing. -/
theorem exchangeWith_none {p : Part} (n : Nat) (f : Exchange → Part → Part) (h : p.desk.asking = none) :
    exchangeWith n f p = p := by
  unfold exchangeWith; rw [h]

/-- The outcome of another station's exchange does nothing. -/
theorem exchangeWith_other {p : Part} {x : Exchange} (n : Nat) (f : Exchange → Part → Part) (h : p.desk.asking = some x)
    (hn : x.station ≠ n) : exchangeWith n f p = p := by
  unfold exchangeWith; rw [h]; exact if_neg hn

/-- The outcome of the open exchange acts, unless it is void, and the next exchange begins. -/
theorem exchangeWith_open {p : Part} {x : Exchange} (f : Exchange → Part → Part) (h : p.desk.asking = some x) :
    exchangeWith x.station f p = nextExchange (if x.void then p else f x p) := by
  unfold exchangeWith; rw [h]; exact if_pos rfl

/-! ## Members -/

/-- An insertion keeps members in address order. -/
theorem insertBy_address (a : Member) (l : List Member) (h : l.Pairwise (fun x y => x.address ≤ y.address)) :
    (insertBy (fun a b => decide (a.address ≤ b.address)) a l).Pairwise (fun x y => x.address ≤ y.address) := by
  induction l with
  | nil => simp [insertBy]
  | cons b t ih =>
    rw [List.pairwise_cons] at h
    unfold insertBy
    split
    · rename_i hab
      have hab : a.address ≤ b.address := by simpa using hab
      rw [List.pairwise_cons, List.pairwise_cons]
      exact ⟨fun x hx => by rcases List.mem_cons.1 hx with rfl | hx; exact hab; exact hab.trans (h.1 x hx), h⟩
    · rename_i hab
      have hab : b.address < a.address := by simpa using hab
      rw [List.pairwise_cons]
      refine ⟨fun x hx => ?_, ih h.2⟩
      rcases List.mem_cons.1 ((insertBy_perm _ a t).mem_iff.1 hx) with rfl | hx
      · exact hab.le
      · exact h.1 x hx

/-- Sorted members stand in address order. -/
theorem sortBy_address (l : List Member) :
    (sortBy (fun a b => decide (a.address ≤ b.address)) l).Pairwise (fun x y => x.address ≤ y.address) := by
  induction l with
  | nil => exact List.Pairwise.nil
  | cons a t ih => exact insertBy_address a _ ih

end Sys2Proof.Machine
end

