-- ==== Sys2Proof/Laws/Marks.lean ====
section
/-!
SUPPORT. What a change of one record, a move of the outbox and a mark write leave of the records of the register: every record
but the one written keeps all its items, its notice status apart.
-/

namespace Sys2Proof.Machine

/-! ## One record replaced -/

/-- The first record of a number among records in which one has been replaced. -/
theorem find?_replace (a : Mark) (l : List Mark) (k : Nat) :
    (l.map (fun y => if y.period.number = a.period.number then a else y)).find? (fun y => y.period.number == k)
      = if k = a.period.number then (l.find? (fun y => y.period.number == k)).map (fun _ => a)
        else l.find? (fun y => y.period.number == k) := by
  induction l with
  | nil => simp
  | cons b l ih =>
    simp only [List.map_cons, List.find?_cons]
    by_cases hb : b.period.number = a.period.number
    · by_cases hka : a.period.number = k
      · subst hka; simp [hb]
      · have h1 : (a.period.number == k) = false := by simpa using hka
        simp only [hb, if_true, h1, ih]
    · simp only [hb, if_false]
      by_cases hbk : b.period.number = k
      · subst hbk; simp [hb]
      · have h2 : (b.period.number == k) = false := by simpa using hbk
        simp only [h2, ih]

/-- A record, read from the register's table. -/
theorem mark?_some {p : Part} {g : Register} (h : p.reg.register = some g) (n k : Nat) :
    p.mark? n k = (Table.get? g.slots n).bind (fun d => d.mark? k) := by
  simp only [Part.mark?, Part.register?, h, Option.bind_some]; rfl

/-- A registration record, read by the number of its period. -/
theorem regMark?_some {p : Part} {g : Register} (h : p.reg.register = some g) (n : Nat) (x : Reg) :
    p.regMark? n x = (regNumber g.periods x).bind (fun k => p.mark? n k) := by
  simp only [Part.regMark?, Part.register?, h, Option.bind_some]; rfl

/-- The records after one of slot n has been replaced. -/
theorem mark?_setMark {p q : Part} {g h : Register} {n : Nat} {d : SlotDay} (e : SlotDay) {a : Mark}
    (hp : p.reg.register = some g) (hq : q.reg.register = some h) (hd : Table.get? g.slots n = some d)
    (hs : h.slots = Table.put g.slots n e) (he : e.marks = (d.setMark a).marks) (j k : Nat) :
    q.mark? j k = if j = n ∧ k = a.period.number then (p.mark? j k).map (fun _ => a) else p.mark? j k := by
  rw [mark?_some hp, mark?_some hq, hs]
  by_cases hj : j = n
  · subst hj
    rw [Table.get?_put, hd]
    simp only [Option.bind_some, SlotDay.mark?, he, SlotDay.setMark]
    rw [find?_replace]
    by_cases hk : k = a.period.number <;> simp [hk]
  · rw [Table.get?_put_ne _ _ _ _ hj, if_neg (fun hc => hj hc.1)]

/-- What a registration record that is found says of the register. -/
theorem regMark?_found {p : Part} {n : Nat} {x : Reg} {m : Mark} (hm : p.regMark? n x = some m) :
    ∃ g d, p.reg.register = some g ∧ regNumber g.periods x = some m.period.number ∧ Table.get? g.slots n = some d ∧
      d.mark? m.period.number = some m := by
  unfold Part.regMark? at hm
  simp only [Option.bind_eq_some_iff] at hm
  obtain ⟨g, hg, k, hk, hmk⟩ := hm
  have hg : p.reg.register = some g := hg
  have hk : regNumber g.periods x = some k := hk
  rw [mark?_some hg] at hmk
  simp only [Option.bind_eq_some_iff] at hmk
  obtain ⟨d, hd, hdk⟩ := hmk
  have hnum : m.period.number = k := by have := List.find?_some hdk; simpa using this
  subst hnum
  exact ⟨g, d, hg, hk, hd, hdk⟩

/-- A notice status set on a record that is found. -/
theorem setNotice_found {p : Part} {n : Nat} {x : Reg} {m : Mark} (st : NoticeStatus) (hm : p.regMark? n x = some m) :
    ∃ g d, p.reg.register = some g ∧ regNumber g.periods x = some m.period.number ∧ Table.get? g.slots n = some d ∧
      setNotice n x st p = { p with reg.register := some { g with
        slots := Table.put g.slots n (d.setMark { m with notice := some st }) } } := by
  obtain ⟨g, d, hg, hk, hd, _⟩ := regMark?_found hm
  refine ⟨g, d, hg, hk, hd, ?_⟩
  have hd' : g.slot? n = some d := hd
  simp only [setNotice, hm, Part.onRegister, hg, Option.map_some, hd']

/-! ## All items but the notice status -/

/-- A record without its notice status. -/
def Mark.bare (m : Mark) : Mark := { m with notice := none }

/-- The marked periods stand, and so does every record but for its notice status. -/
structure MarksFrame (p q : Part) : Prop where
  periods : q.reg.register.map (·.periods) = p.reg.register.map (·.periods)
  marks : ∀ j k, (q.mark? j k).map Mark.bare = (p.mark? j k).map Mark.bare

theorem MarksFrame.refl (p : Part) : MarksFrame p p := ⟨rfl, fun _ _ => rfl⟩

theorem MarksFrame.trans {p q r : Part} (a : MarksFrame p q) (b : MarksFrame q r) : MarksFrame p r :=
  ⟨b.periods.trans a.periods, fun j k => (b.marks j k).trans (a.marks j k)⟩

/-- Nothing of the register has changed. -/
theorem MarksFrame.of_reg {p q : Part} (h : q.reg = p.reg) : MarksFrame p q := by
  refine ⟨by rw [h], fun j k => ?_⟩
  simp only [Part.mark?, Part.register?, h]

/-- A notice status. -/
theorem setNotice_marks (n : Nat) (x : Reg) (st : NoticeStatus) (p : Part) : MarksFrame p (setNotice n x st p) := by
  cases hm : p.regMark? n x with
  | none => simp only [setNotice, hm]; exact .refl p
  | some m =>
    obtain ⟨g, d, hg, hk, hd, hq⟩ := setNotice_found st hm
    obtain ⟨g', d', hg', _, hd', hdm⟩ := regMark?_found hm
    rw [hg] at hg'; cases hg'
    rw [hd] at hd'; cases hd'
    refine ⟨by rw [hq, hg]; rfl, fun j k => ?_⟩
    rw [mark?_setMark (a := { m with notice := some st }) _ hg (by rw [hq]) hd rfl rfl]
    split_ifs with h
    · obtain ⟨rfl, rfl⟩ := h
      rw [mark?_some hg, hd]
      simp only [Option.bind_some, hdm]
      rfl
    · rfl

/-- The answer to a leaving. -/
theorem reportLeaving_marks (n : Nat) (x : Reg) (d f : Bool) (p : Part) : MarksFrame p (reportLeaving n x d f p) := by
  unfold reportLeaving
  split
  · exact .refl p
  · split
    · exact setNotice_marks _ _ _ _
    · exact .refl p

/-- The sweep is told of a leaving. -/
theorem sweepTold_marks (p : Part) : MarksFrame p (sweepTold p) := .of_reg rfl

/-- The reports that follow a leaving. -/
theorem afterLeaving_marks (c : Clock) (e : OutEntry) (p : Part) : MarksFrame p (afterLeaving c e p) := by
  unfold afterLeaving
  dsimp only
  refine MarksFrame.trans ?_ (sweepTold_marks _)
  have h1 : MarksFrame p (if e.failedCount = 0 then p else raise c (.undelivered e.id e.kind e.slot? e.failedCount) p) := by
    split
    · exact .refl p
    · exact .of_reg (raise_reg _ _ _)
  refine h1.trans ?_
  generalize (if e.failedCount = 0 then p else raise c (.undelivered e.id e.kind e.slot? e.failedCount) p) = q
  split
  · exact reportLeaving_marks _ _ _ _ _
  · exact .refl q

/-- An entry leaves. -/
theorem leave_marks (c : Clock) (e : OutEntry) (p : Part) : MarksFrame p (leave c e p) :=
  MarksFrame.trans (q := { p with pmu.outbox := p.pmu.outbox.filter (fun x => x.id != e.id) }) (.of_reg rfl)
    (afterLeaving_marks c e _)

/-- An entry's state follows. -/
theorem follow_marks (c : Clock) (id : Nat) (p : Part) : MarksFrame p (follow c id p) := by
  unfold follow
  split
  · exact .refl p
  · split
    · exact leave_marks _ _ _
    · exact .refl p

/-- A withdrawal by slot, kind and r. -/
theorem withdrawFor_marks (c : Clock) (k : OutKind) (n : Nat) (x : Reg) (p : Part) :
    MarksFrame p (withdrawFor c k n x p).1 := by
  unfold withdrawFor
  split
  · exact .refl p
  · rename_i e _
    unfold withdrawEntry
    dsimp only
    refine MarksFrame.trans (q := { onEntry e.id OutEntry.cancelled p with
      pmu.offer := (onEntry e.id OutEntry.cancelled p).pmu.offer.filter (fun o => o.handle.id != e.id) }) ?_ (follow_marks c e.id _)
    exact .of_reg rfl

/-- A creation, with its report. -/
theorem createOrReport_marks (c : Clock) (q : EntryRequest) (p : Part) : MarksFrame p (createOrReport c q p).1 := by
  have h : MarksFrame p (create c q p).1 := by
    unfold create
    split
    · exact .refl p
    · split
      · exact .of_reg rfl
      · split
        · exact .refl p
        · exact (leave_marks _ _ _).trans ((MarksFrame.of_reg (raise_reg _ _ _)).trans (.of_reg rfl))
  unfold createOrReport
  split <;> rename_i e <;> rw [e] at h
  · exact h.trans (.of_reg (raise_reg _ _ _))
  · exact h
  · exact h

/-- What follows a write. -/
theorem writeFollows_marks (c : Clock) (v : MarkValue) (n : Nat) (old : Mark) (p : Part) :
    MarksFrame p (writeFollows c v n old p) := by
  unfold writeFollows
  split
  · exact .refl p
  · rename_i x _
    have h1 : MarksFrame p (noticeFollows c v n x old p) := by
      unfold noticeFollows
      split
      · split
        · unfold arrivalFollows
          have hw := withdrawFor_marks c .absence n x p
          split
          rename_i q w e
          rw [e] at hw
          split
          · have hc := createOrReport_marks c (correctionRequest c q n x w.contacts) q
            split <;> rename_i e' <;> rw [e'] at hc <;> exact (hw.trans hc).trans (setNotice_marks _ _ _ _)
          · exact hw.trans (setNotice_marks _ _ _ _)
        · split
          · exact (withdrawFor_marks c .absence n x p).trans (setNotice_marks _ _ _ _)
          · exact .refl p
      · exact .refl p
    refine h1.trans ?_
    unfold lateFollows
    split
    · exact withdrawFor_marks _ _ _ _ _
    · exact .refl _

/-- The period of a record stands under a write. -/
theorem Write.result_period (c : Clock) (w : Write) (m : Mark) : (w.result c m).period = m.period := by
  unfold Write.result
  split <;> rfl

/-- A write, applied or skipped, on every record: the one named takes the write when precedence allows it, and every other
keeps all but its notice status. -/
theorem writeMark_marks (c : Clock) (w : Write) (n k : Nat) (p : Part) :
    (writeMark c w n k p).1.reg.register.map (·.periods) = p.reg.register.map (·.periods) ∧
      ∀ j i, ((writeMark c w n k p).1.mark? j i).map Mark.bare
        = (p.mark? j i).map (fun m => if j = n ∧ i = k ∧ w.allowed m then (w.result c m).bare else m.bare) := by
  have skip : ∀ q : Part, q = p → (∀ m, p.mark? n k = some m → w.allowed m = false) →
      q.reg.register.map (·.periods) = p.reg.register.map (·.periods) ∧
      ∀ j i, (q.mark? j i).map Mark.bare
        = (p.mark? j i).map (fun m => if j = n ∧ i = k ∧ w.allowed m then (w.result c m).bare else m.bare) := by
    rintro q rfl h
    refine ⟨rfl, fun j i => ?_⟩
    cases hm : q.mark? j i with
    | none => rfl
    | some m =>
      simp only [Option.map_some]
      rw [if_neg]
      rintro ⟨rfl, rfl, ha⟩
      rw [h m hm] at ha; exact absurd ha (by simp)
  unfold writeMark
  split
  · rename_i hr
    exact skip _ rfl (fun m hm => by simp [Part.mark?, hr] at hm)
  · rename_i g hg
    have hg : p.reg.register = some g := hg
    split
    · rename_i hd
      have hd : Table.get? g.slots n = none := hd
      exact skip _ rfl (fun m hm => by rw [mark?_some hg, hd] at hm; simp at hm)
    · rename_i d hd
      have hd : Table.get? g.slots n = some d := hd
      split
      · rename_i hm
        exact skip _ rfl (fun m h => by rw [mark?_some hg, hd] at h; simp [hm] at h)
      · rename_i m hm
        have hpm : p.mark? n k = some m := by rw [mark?_some hg, hd]; exact hm
        have hnum : m.period.number = k := by have := List.find?_some hm; simpa using this
        split
        · rename_i ha
          have hf := writeFollows_marks c w.value n m (p.onRegister (Register.apply c w n d m))
          refine ⟨hf.periods.trans (by simp [Part.onRegister, hg, Register.apply]), fun j i => ?_⟩
          refine (hf.marks j i).trans ?_
          rw [mark?_setMark (q := p.onRegister (Register.apply c w n d m)) (h := Register.apply c w n d m g)
            (a := w.result c m) _ hg (by simp [Part.onRegister, hg]) hd rfl rfl, Write.result_period, hnum]
          by_cases h : j = n ∧ i = k
          · obtain ⟨rfl, rfl⟩ := h
            rw [if_pos ⟨rfl, rfl⟩, hpm]
            simp [ha]
          · rw [if_neg h]
            cases p.mark? j i with
            | none => rfl
            | some y => simp only [Option.map_some]; rw [if_neg (fun hc => h ⟨hc.1, hc.2.1⟩)]
        · rename_i ha
          exact skip _ rfl (fun y hy => by rw [hpm] at hy; cases hy; simpa using ha)

/-! ## Cancellation writes -/

/-- A NOT_REQUIRED record written by SYSTEM, its notice status apart (R77, R92). -/
def notRequiredBare (c : Clock) (m : Mark) : Mark := ⟨m.period, .notRequired, some .system, none, some 0, c.second?, none, none⟩

/-- Cancellation writes to the periods of one slot: its records. -/
theorem cancelOne_marks (c : Clock) (n k : Nat) (w : Write) (hw : w = ⟨.system, .notRequired, none, 0, none⟩)
    (l : List Nat) : ∀ (p : Part) (m : Mark),
    (p.mark? n k).map Mark.bare = some m.bare →
    ((l.foldl (fun q i => (writeMark c w n i q).1) p).mark? n k).map Mark.bare
      = some (if k ∈ l ∧ m.source ≠ some .office then notRequiredBare c m else m.bare) := by
  subst hw
  induction l with
  | nil => intro p m h; simpa using h
  | cons i l ih =>
    intro p m h
    simp only [List.foldl_cons]
    obtain ⟨y, hy⟩ : ∃ y, p.mark? n k = some y := by
      cases hp : p.mark? n k with
      | none => rw [hp] at h; simp at h
      | some y => exact ⟨y, rfl⟩
    rw [hy] at h
    have hb : y.bare = m.bare := by simpa using h
    have hper : y.period = m.period := by have h := congrArg (fun a : Mark => a.period) hb; exact h
    have hsrc : y.source = m.source := by have h := congrArg (fun a : Mark => a.source) hb; exact h
    have h1 := (writeMark_marks c ⟨.system, .notRequired, none, 0, none⟩ n i p).2 n k
    rw [hy] at h1
    simp only [Option.map_some, true_and, Write.allowed] at h1
    by_cases hc : k = i ∧ m.source ≠ some .office
    · have h2 : (Write.result c ⟨.system, .notRequired, none, 0, none⟩ y).bare = notRequiredBare c m := by
        simp [Write.result, Mark.bare, notRequiredBare, Write.minutesLeft, Write.reasonLeft, Write.bandLeft, holdsMinutes, hper]
      rw [if_pos (by rw [hsrc]; simpa using hc), h2] at h1
      have := ih _ (notRequiredBare c m) (by rw [h1]; rfl)
      rw [this]
      have h3 : (notRequiredBare c m).bare = notRequiredBare c m := rfl
      have h4 : notRequiredBare c (notRequiredBare c m) = notRequiredBare c m := rfl
      simp [hc.1, hc.2, h3, h4]
    · rw [if_neg (by rw [hsrc]; simpa using hc), hb] at h1
      rw [ih _ m h1]
      by_cases ho : m.source = some .office
      · simp [ho]
      · have : k ≠ i := fun h => hc ⟨h, ho⟩
        simp [ho, this]

/-- Writes to the periods of one slot leave the records of another, notice status apart. -/
theorem writeFold_other (c : Clock) (w : Write) (j n k : Nat) (hj : j ≠ n) (l : List Nat) : ∀ (p : Part),
    ((l.foldl (fun q i => (writeMark c w j i q).1) p).mark? n k).map Mark.bare = (p.mark? n k).map Mark.bare := by
  induction l with
  | nil => intro p; rfl
  | cons i l ih =>
    intro p
    simp only [List.foldl_cons]
    rw [ih, (writeMark_marks c w j i p).2 n k]
    cases p.mark? n k with
    | none => rfl
    | some y => simp [Ne.symm hj]

/-- Cancellation writes to the periods of every slot: the records of one. -/
theorem cancelAll_marks (c : Clock) (f : Slot → List Nat) (n k : Nat) (w : Write)
    (hw : w = ⟨.system, .notRequired, none, 0, none⟩) (l : Table Slot) :
    l.Pairwise (fun a b => a.1 < b.1) → ∀ (p : Part) (m : Mark) , (p.mark? n k).map Mark.bare = some m.bare →
    ((l.foldl (fun q e => (f e.2).foldl (fun q i => (writeMark c w e.1 i q).1) q) p).mark? n k).map Mark.bare
      = some (if (∃ x, Table.get? l n = some x ∧ k ∈ f x) ∧ m.source ≠ some .office then notRequiredBare c m else m.bare) := by
  induction l with
  | nil => intro _ p m h; simpa [Table.get?] using h
  | cons e l ih =>
    intro hl p m h
    rw [List.pairwise_cons] at hl
    simp only [List.foldl_cons]
    by_cases he : e.1 = n
    · have h1 := cancelOne_marks c n k w hw (f e.2) p m h
      rw [he]
      have hnone : Table.get? l n = none := by
        have : ∀ (t : Table Slot), (∀ b ∈ t, n < b.1) → Table.get? t n = none := by
          intro t
          induction t with
          | nil => intro _; rfl
          | cons b t iht =>
            intro hb
            have := hb b (by simp)
            show (if b.1 = n then _ else _) = _
            rw [if_neg (by omega)]; exact iht (fun x hx => hb x (by simp [hx]))
        exact this l (fun b hb => he ▸ hl.1 b hb)
      have h5 : Table.get? (e :: l) n = some e.2 := by show (if e.1 = n then _ else _) = _; rw [if_pos he]
      by_cases hc : k ∈ f e.2 ∧ m.source ≠ some .office
      · rw [if_pos hc] at h1
        rw [ih hl.2 _ (notRequiredBare c m) (by rw [h1]; rfl), hnone]
        simp only [reduceCtorEq, false_and, exists_false, if_false]
        rw [if_pos ⟨⟨e.2, h5, hc.1⟩, hc.2⟩]; rfl
      · rw [if_neg hc] at h1
        rw [ih hl.2 _ m h1, hnone]
        simp only [reduceCtorEq, false_and, exists_false, if_false]
        rw [if_neg]
        rintro ⟨⟨x, hx, hk⟩, hs⟩
        rw [h5] at hx; cases hx; exact hc ⟨hk, hs⟩
    · have h5 : Table.get? (e :: l) n = Table.get? l n := by show (if e.1 = n then _ else _) = _; rw [if_neg he]
      rw [ih hl.2 _ m (by rw [writeFold_other c w e.1 n k he]; exact h), h5]

end Sys2Proof.Machine
end

