-- ==== Sys2Proof/Laws/Outbox.lean ====
section
/-!
SUPPORT. What the arbiter's picks and the withdrawals of the outbox can do: picking ends with an open offer or with nothing to
pick, and a withdrawal of many entries settles each of them.
-/

namespace Sys2Proof.Machine

/-! ## Places still open -/

/-- The places of an entry that a pick can still close: its WAITING positions, or an open broadcast. -/
def OutEntry.openPlaces (e : OutEntry) : Nat :=
  match e.target with
  | .slot _ ps => (ps.filter (fun x => x.state == .waiting)).length
  | .broadcast cur _ _ _ => if cur < 4096 then 1 else 0

/-- The places of an outbox that a pick can still close. -/
def openTotal (l : List OutEntry) : Nat := (l.map OutEntry.openPlaces).sum

theorem OutEntry.hasWaiting_iff (e : OutEntry) : e.hasWaiting = true ↔ 0 < e.openPlaces := by
  unfold OutEntry.hasWaiting OutEntry.openPlaces Config.contactCount
  cases e.target with
  | slot s ps => simp [List.length_pos_iff_exists_mem]
  | broadcast cur f x y => by_cases h : cur < 4096 <;> simp [h]

/-- Setting some positions to a state that is not WAITING opens none, and closes one that was WAITING. -/
theorem setPositions_open (ps : List Position) (i k : Nat) (d : Delivery) (hd : d ≠ .waiting) :
    let after := ((ps.zipIdx k).map (fun x => if x.2 = i then { x.1 with state := d } else x.1)).filter
      (fun x : Position => x.state == .waiting)
    after.length ≤ (ps.filter (fun x => x.state == .waiting)).length ∧
      ((∃ x, (x, i) ∈ ps.zipIdx k ∧ x.state = .waiting) → after.length < (ps.filter (fun x => x.state == .waiting)).length) := by
  induction ps generalizing k with
  | nil => simp
  | cons a t ih =>
    obtain ⟨h1, h2⟩ := ih (k + 1)
    simp only [List.zipIdx_cons, List.map_cons, List.filter_cons, List.mem_cons, Prod.mk.injEq] at h1 h2 ⊢
    have hd' : (d == Delivery.waiting) = false := by simpa using hd
    by_cases hk : k = i
    · simp only [hk, if_true, hd'] at h1 h2 ⊢
      by_cases ha : a.state = .waiting
      · simp only [ha, beq_self_eq_true, if_true, List.length_cons] at h1 ⊢
        exact ⟨by simp at h1 ⊢; omega, fun _ => by simp at h1 ⊢; omega⟩
      · have ha' : (a.state == Delivery.waiting) = false := by simpa using ha
        simp only [ha'] at h1 h2 ⊢
        refine ⟨by simpa using h1, ?_⟩
        rintro ⟨x, hx | hx, hw⟩
        · exact absurd (hx.1 ▸ hw) ha
        · simpa using h2 ⟨x, hx, hw⟩
    · simp only [hk, if_false] at h1 h2 ⊢
      have hx : ∀ x : Position, ((x = a ∧ i = k) ∨ (x, i) ∈ t.zipIdx (k + 1)) → (x, i) ∈ t.zipIdx (k + 1) := by
        rintro x (h | h)
        · exact absurd h.2.symm hk
        · exact h
      split_ifs
      · simp only [List.length_cons]
        exact ⟨by omega, fun ⟨x, h, hw⟩ => by have := h2 ⟨x, hx x h, hw⟩; omega⟩
      · exact ⟨h1, fun ⟨x, h, hw⟩ => h2 ⟨x, hx x h, hw⟩⟩

theorem OutEntry.openPlaces_failAll (e : OutEntry) : e.failAll.openPlaces = 0 := by
  unfold OutEntry.failAll OutEntry.openPlaces Config.contactCount
  cases e.target with
  | slot s ps =>
    simp only [List.length_eq_zero_iff, List.filter_eq_nil_iff, List.mem_map, beq_iff_eq]
    rintro x ⟨y, _, rfl⟩
    split_ifs with h
    · simp
    · exact h
  | broadcast cur f x y => simp

theorem OutEntry.openPlaces_setPosition (e : OutEntry) (i : Nat) (r : FailReason) :
    (e.setPosition i (.failed r)).openPlaces ≤ e.openPlaces := by
  unfold OutEntry.setPosition
  cases h : e.target with
  | slot s ps =>
    simp only [OutEntry.openPlaces, h]
    exact (setPositions_open ps i 1 (.failed r) (by simp)).1
  | broadcast cur f x y => exact le_refl _

theorem OutEntry.openPlaces_setCursor (e : OutEntry) : (e.setCursor 4096).openPlaces ≤ e.openPlaces := by
  unfold OutEntry.setCursor
  cases h : e.target with
  | slot s ps => exact le_refl _
  | broadcast cur f x y => simp [OutEntry.openPlaces]

/-! ## Picks -/

/-- A change of the entries with an id that opens no place, and closes one of an entry of the outbox, closes a place. -/
theorem openTotal_map_lt (l : List OutEntry) (e : OutEntry) (f : OutEntry → OutEntry) (he : e ∈ l)
    (hle : ∀ x, (f x).openPlaces ≤ x.openPlaces) (hlt : (f e).openPlaces < e.openPlaces) :
    openTotal (l.map (fun x => if x.id = e.id then f x else x)) < openTotal l := by
  have hle' : ∀ m : List OutEntry, openTotal (m.map (fun x => if x.id = e.id then f x else x)) ≤ openTotal m := by
    intro m
    unfold openTotal
    rw [List.map_map]
    refine List.sum_le_sum (fun x _ => ?_)
    simp only [Function.comp]
    split_ifs
    · exact hle x
    · exact le_refl _
  induction l with
  | nil => simp at he
  | cons a t ih =>
    simp only [openTotal, List.map_cons, List.sum_cons] at ih ⊢
    rcases List.mem_cons.1 he with rfl | he
    · rw [if_pos rfl]
      have := hle' t
      simp only [openTotal] at this
      omega
    · have := ih he
      have : (if a.id = e.id then f a else a).openPlaces ≤ a.openPlaces := by
        split_ifs
        · exact hle a
        · exact le_refl _
      omega

/-- What follows leaves the outbox, or takes the entries with one id out of it. -/
theorem follow_outbox (c : Clock) (id : Nat) (p : Part) :
    (follow c id p).pmu.outbox = p.pmu.outbox ∨ ∃ e, (follow c id p).pmu.outbox = p.pmu.outbox.filter (fun x => x.id != e) := by
  unfold follow
  cases p.entry? id with
  | none => exact .inl rfl
  | some e =>
    simp only
    split_ifs
    · exact .inr ⟨e.id, by rw [leave_pmu]⟩
    · exact .inl rfl

theorem openTotal_follow (c : Clock) (id : Nat) (p : Part) :
    openTotal (follow c id p).pmu.outbox ≤ openTotal p.pmu.outbox := by
  rcases follow_outbox c id p with h | ⟨e, h⟩
  · rw [h]
  · rw [h]
    exact (List.Sublist.map OutEntry.openPlaces List.filter_sublist).sum_le_sum (fun _ _ => Nat.zero_le _)

/-- A picked entry is in the outbox and has a waiting contact. -/
theorem pickEntry_mem {c : Clock} {p : Part} {e : OutEntry} (h : pickEntry c p = some e) :
    e ∈ p.pmu.outbox ∧ e.hasWaiting = true := by
  unfold pickEntry at h
  obtain ⟨r, _, h⟩ := List.exists_of_findSome?_eq_some h
  have h' := List.find?_some h
  simp only [Messages.sendable, Bool.and_eq_true] at h'
  exact ⟨List.mem_of_find?_eq_some h, h'.2.1⟩

/-- A pick that is followed by another has closed a place; any other has made an offer. -/
theorem pickOnce_spec {c : Clock} {p : Part} {e : OutEntry} (h : pickEntry c p = some e) :
    ((pickOnce c e p).2 = true → openTotal (pickOnce c e p).1.pmu.outbox < openTotal p.pmu.outbox) ∧
      ((pickOnce c e p).2 = false → (pickOnce c e p).1.pmu.offer ≠ none) := by
  obtain ⟨hm, hw⟩ := pickEntry_mem h
  have hpos := e.hasWaiting_iff.1 hw
  have hstep : ∀ f : OutEntry → OutEntry, (∀ x, (f x).openPlaces ≤ x.openPlaces) → (f e).openPlaces < e.openPlaces →
      openTotal (follow c e.id (onEntry e.id f p)).pmu.outbox < openTotal p.pmu.outbox := fun f h1 h2 =>
    lt_of_le_of_lt (openTotal_follow c e.id _) (openTotal_map_lt p.pmu.outbox e f hm h1 h2)
  unfold pickOnce
  cases messageOf p.work e with
  | none =>
    refine ⟨fun _ => hstep _ (fun x => ?_) ?_, fun h => by simp at h⟩
    · rw [OutEntry.openPlaces_failAll]; exact Nat.zero_le _
    · rw [OutEntry.openPlaces_failAll]; exact hpos
  | some m =>
    cases ht : e.target with
    | slot s ps =>
      simp only
      cases hf : firstWaiting ps with
      | none =>
        exfalso
        unfold firstWaiting at hf
        rw [List.find?_eq_none] at hf
        unfold OutEntry.hasWaiting at hw
        rw [ht] at hw
        obtain ⟨x, hx, hx'⟩ := List.any_eq_true.1 hw
        obtain ⟨i, hi, rfl⟩ := List.mem_iff_getElem.1 hx
        exact hf (ps[i], 1 + i) (List.mk_add_mem_zipIdx_iff_getElem?.2 (by simp [hi])) hx'
      | some x =>
        obtain ⟨x, i⟩ := x
        simp only
        cases (p.work.contact x.contact).unusable with
        | none => exact ⟨fun h => by simp at h, fun _ => by simp [sendTo, emit]⟩
        | some r =>
          refine ⟨fun _ => hstep _ (fun y => OutEntry.openPlaces_setPosition y i r) ?_, fun h => by simp at h⟩
          unfold firstWaiting at hf
          have h1 := List.mem_of_find?_eq_some hf
          have h2 := List.find?_some hf
          simp only [OutEntry.setPosition, OutEntry.openPlaces, ht]
          exact (setPositions_open ps i 1 (.failed r) (by simp)).2 ⟨x, h1, by simpa using h2⟩
    | broadcast cur f x y =>
      simp only
      cases scanContacts p.work f cur with
      | none =>
        refine ⟨fun _ => hstep _ OutEntry.openPlaces_setCursor ?_, fun h => by simp at h⟩
        have h0 : (e.setCursor Config.contactCount).openPlaces = 0 := by
          simp [OutEntry.setCursor, ht, OutEntry.openPlaces, Config.contactCount]
        show (e.setCursor Config.contactCount).openPlaces < _
        rw [h0]; exact hpos
      | some n => exact ⟨fun h => by simp at h, fun _ => by simp [sendTo, emit]⟩

/-- Picking with more picks than open places ends with an open offer or with nothing to pick. -/
theorem pickAll_ends (c : Clock) (k : Nat) (p : Part) (h : openTotal p.pmu.outbox < k) :
    (pickAll c k p).pmu.offer ≠ none ∨ pickEntry c (pickAll c k p) = none := by
  induction k generalizing p with
  | zero => omega
  | succ k ih =>
    unfold pickAll
    cases hp : pickEntry c p with
    | none => exact .inr hp
    | some e =>
      obtain ⟨h1, h2⟩ := pickOnce_spec hp
      simp only
      split_ifs with hx
      · exact ih _ (by have := h1 hx; omega)
      · exact .inl (h2 (by simpa using hx))

/-- The number of picks that a handover can make suffices. -/
theorem openTotal_lt_pickBound (l : List OutEntry) : openTotal l < pickBound l := by
  unfold openTotal pickBound
  refine Nat.lt_succ_of_le (List.sum_le_sum (fun e _ => ?_))
  unfold OutEntry.openPlaces
  cases e.target with
  | slot s ps => exact List.length_filter_le _ _
  | broadcast cur f x y => simp only; split_ifs <;> simp

/-! ## Withdrawals -/

@[simp] theorem OutEntry.cancelled_id (e : OutEntry) : e.cancelled.id = e.id := by
  unfold OutEntry.cancelled
  split <;> rfl

@[simp] theorem OutEntry.cancelled_hasWaiting (e : OutEntry) : e.cancelled.hasWaiting = false := by
  unfold OutEntry.cancelled OutEntry.hasWaiting
  cases e.target with
  | slot s ps =>
    simp only [List.any_eq_false, List.mem_map]
    rintro x ⟨y, _, rfl⟩
    split_ifs with h
    · simp
    · simpa using h
  | broadcast cur f x y => simp

@[simp] theorem Messages.hasFlight_cancelled (m : Messages) (e : OutEntry) : m.hasFlight e.cancelled = m.hasFlight e := by
  unfold OutEntry.cancelled Messages.hasFlight
  cases e.target with
  | slot s ps =>
    simp only [List.any_map, Function.comp_def]
    congr 1; funext x
    split_ifs with h <;> simp [h]
  | broadcast cur f x y => rfl

/-- What a withdrawal leaves of an entry: its WAITING contacts CANCELLED, and nothing without a contact IN_FLIGHT. -/
def Messages.withdrawn (m : Messages) (e : OutEntry) : Option OutEntry := if m.hasFlight e then some e.cancelled else none

/-- A withdrawal by id, where the ids differ. -/
theorem withdrawId_pmu (c : Clock) (id : Nat) (p : Part) (hn : (p.pmu.outbox.map (·.id)).Nodup)
    (hid : id ∈ p.pmu.outbox.map (·.id)) :
    (withdrawId c id p).1.pmu = { p.pmu with
      outbox := p.pmu.outbox.filterMap (fun e => if e.id = id then p.pmu.withdrawn e else some e)
      offer := p.pmu.offer.filter (fun o => o.handle.id != id) } := by
  obtain ⟨e, he, rfl⟩ := List.mem_map.1 hid
  have huniq : ∀ x ∈ p.pmu.outbox, x.id = e.id → x = e := fun x hx h => List.inj_on_of_nodup_map hn hx he h
  have hfind : ∀ (l : List OutEntry) (f : OutEntry → OutEntry), (∀ x, (f x).id = x.id) → e ∈ l →
      (∀ x ∈ l, x.id = e.id → x = e) → (l.map f).find? (fun x => x.id == e.id) = some (f e) := by
    intro l f hf hm hu
    induction l with
    | nil => simp at hm
    | cons a t ih =>
      rw [List.map_cons, List.find?_cons, hf]
      by_cases ha : a.id = e.id
      · rw [hu a (by simp) ha]; simp
      · have : (a.id == e.id) = false := by simpa using ha
        rw [this]
        exact ih ((List.mem_cons.1 hm).resolve_left (fun h => ha (by rw [h]))) (fun x hx => hu x (by simp [hx]))
  have h1 : p.entry? e.id = some e := by
    have := hfind p.pmu.outbox id (fun _ => rfl) he huniq
    simpa [Part.entry?] using this
  have h2 := hfind p.pmu.outbox (fun x => if x.id = e.id then x.cancelled else x) (fun x => by split_ifs <;> simp) he huniq
  rw [if_pos rfl] at h2
  unfold withdrawId
  rw [h1]
  simp only [withdrawEntry]
  obtain ⟨r, hr⟩ : ∃ r : Part, r = { onEntry e.id OutEntry.cancelled p with
      pmu.offer := (onEntry e.id OutEntry.cancelled p).pmu.offer.filter (fun o => o.handle.id != e.id) } := ⟨_, rfl⟩
  have hpmu : r.pmu = { p.pmu with
      outbox := p.pmu.outbox.map (fun x => if x.id = e.id then x.cancelled else x)
      offer := p.pmu.offer.filter (fun o => o.handle.id != e.id) } := by rw [hr]; rfl
  have h3 : r.entry? e.id = some e.cancelled := by unfold Part.entry?; rw [hpmu]; exact h2
  have h4 : r.pmu.finished e.cancelled = !p.pmu.hasFlight e := by
    rw [hpmu]
    simp only [Messages.finished, OutEntry.cancelled_hasWaiting, Bool.not_false, Bool.true_and, Messages.hasFlight_cancelled]
    rfl
  rw [← hr]
  unfold follow
  rw [h3]
  simp only [h4]
  cases hx : p.pmu.hasFlight e with
  | true =>
    have : p.pmu.outbox.map (fun x => if x.id = e.id then x.cancelled else x)
        = p.pmu.outbox.filterMap (fun x => if x.id = e.id then p.pmu.withdrawn x else some x) := by
      rw [← List.filterMap_eq_map]
      refine List.filterMap_congr (fun x hxm => ?_)
      simp only [Function.comp]
      split_ifs with h
      · rw [huniq x hxm h, Messages.withdrawn, hx]; simp
      · rfl
    simp only [Bool.not_true, Bool.false_eq_true, if_false]
    rw [hpmu, this]
  | false =>
    have : (p.pmu.outbox.map (fun x => if x.id = e.id then x.cancelled else x)).filter (fun x => x.id != e.id)
        = p.pmu.outbox.filterMap (fun x => if x.id = e.id then p.pmu.withdrawn x else some x) := by
      rw [← List.filterMap_eq_map, ← List.filterMap_eq_filter, List.filterMap_filterMap]
      refine List.filterMap_congr (fun x hxm => ?_)
      simp only [Function.comp, Option.bind_some]
      by_cases h : x.id = e.id
      · rw [if_pos h, if_pos h, huniq x hxm h, Messages.withdrawn, hx]
        simp [Option.guard]
      · rw [if_neg h, if_neg h]
        simp [Option.guard, h]
    simp only [Bool.not_false, if_true, leave_pmu, OutEntry.cancelled_id]
    rw [hpmu]
    simp only [this]

/-- A withdrawal of the entries that a test picks, where the ids differ. -/
theorem withdrawAll_pmu (c : Clock) (pick : OutEntry → Bool) (p : Part) (hn : (p.pmu.outbox.map (·.id)).Nodup) :
    (withdrawAll c pick p).pmu = { p.pmu with
      outbox := p.pmu.outbox.filterMap (fun e => if pick e then p.pmu.withdrawn e else some e)
      offer := p.pmu.offer.filter (fun o => !(p.pmu.outbox.any (fun e => pick e && e.id == o.handle.id))) } := by
  have key : ∀ (l : List Nat) (p : Part), (p.pmu.outbox.map (·.id)).Nodup → l.Nodup → (∀ i ∈ l, i ∈ p.pmu.outbox.map (·.id)) →
      (l.foldl (fun p id => (withdrawId c id p).1) p).pmu = { p.pmu with
        outbox := p.pmu.outbox.filterMap (fun e => if e.id ∈ l then p.pmu.withdrawn e else some e)
        offer := p.pmu.offer.filter (fun o => !(l.contains o.handle.id)) } := by
    intro l
    induction l with
    | nil =>
      intro p _ _ _
      have : p.pmu.offer.filter (fun _ => true) = p.pmu.offer := by cases p.pmu.offer <;> rfl
      simp [this]
    | cons i l ih =>
      intro p hp hl hm
      have hq := withdrawId_pmu c i p hp (hm i (by simp))
      have hids : ((withdrawId c i p).1.pmu.outbox.map (·.id)).Sublist (p.pmu.outbox.map (·.id)) := by
        rw [hq]
        simp only
        generalize p.pmu.outbox = m
        induction m with
        | nil => simp
        | cons a t iht =>
          rw [List.filterMap_cons]
          unfold Messages.withdrawn at iht ⊢
          split_ifs
          · simpa using iht
          · simpa using iht.cons _
          · simpa using iht
      rw [List.foldl_cons, ih _ (hids.nodup hp) (List.nodup_cons.1 hl).2 ?_, hq]
      · have hw : ∀ o b e, ({ p.pmu with outbox := b, offer := o } : Messages).withdrawn e = p.pmu.withdrawn e := fun _ _ _ => rfl
        simp only [hw]
        congr 1
        · rw [List.filterMap_filterMap]
          refine List.filterMap_congr (fun x _ => ?_)
          by_cases h : x.id = i
          · have hi : i ∉ l := (List.nodup_cons.1 hl).1
            simp only [h, if_true, List.mem_cons, true_or, Messages.withdrawn]
            split_ifs
            · simp [h, hi]
            · rfl
          · simp [h]
        · rw [Option.filter_filter]
          congr 1; funext o
          rw [Bool.eq_iff_iff]
          simp
      · intro j hj
        have hji : j ≠ i := fun h => (List.nodup_cons.1 hl).1 (h ▸ hj)
        obtain ⟨x, hx, rfl⟩ := List.mem_map.1 (hm j (by simp [hj]))
        rw [hq]
        exact List.mem_map.2 ⟨x, List.mem_filterMap.2 ⟨x, hx, by simp [hji]⟩, rfl⟩
  unfold withdrawAll
  rw [key _ p hn ((List.Sublist.map _ List.filter_sublist).nodup hn)
    (fun i hi => (List.Sublist.map _ List.filter_sublist).subset hi)]
  have huniq : ∀ x ∈ p.pmu.outbox, (x.id ∈ (p.pmu.outbox.filter pick).map (·.id) ↔ pick x = true) := by
    intro x hx
    refine ⟨fun h => ?_, fun h => List.mem_map.2 ⟨x, List.mem_filter.2 ⟨hx, h⟩, rfl⟩⟩
    obtain ⟨y, hy, he⟩ := List.mem_map.1 h
    rw [List.mem_filter] at hy
    exact List.inj_on_of_nodup_map hn hy.1 hx he ▸ hy.2
  have h1 : p.pmu.outbox.filterMap (fun e => if e.id ∈ (p.pmu.outbox.filter pick).map (·.id) then p.pmu.withdrawn e else some e)
      = p.pmu.outbox.filterMap (fun e => if pick e then p.pmu.withdrawn e else some e) :=
    List.filterMap_congr (fun x hx => by simp only [huniq x hx])
  have h2 : (fun o : Offer => !(((p.pmu.outbox.filter pick).map (·.id)).contains o.handle.id))
      = fun o => !(p.pmu.outbox.any (fun e => pick e && e.id == o.handle.id)) := by
    funext o
    rw [Bool.eq_iff_iff]
    simp
  simp only [h1, h2]

end Sys2Proof.Machine
end

