-- ==== Sys2Proof/Laws/Register.lean ====
section
/-!
SUPPORT. The rebuild of the register, and what withdrawals leave of it (R94, R96).
-/

namespace Sys2Proof.Machine

/-- A leaving report that finds no record is discarded (R86). -/
theorem reportLeaving_none (n : Nat) (x : Reg) (d f : Bool) (p : Part) (h : p.regMark? n x = none) :
    reportLeaving n x d f p = p := by
  unfold reportLeaving; rw [h]

@[simp] theorem OutEntry.cancelled_kind (e : OutEntry) : e.cancelled.kind = e.kind := by
  unfold OutEntry.cancelled; split <;> rfl
@[simp] theorem OutEntry.cancelled_reg (e : OutEntry) : e.cancelled.reg = e.reg := by
  unfold OutEntry.cancelled; split <;> rfl
@[simp] theorem OutEntry.cancelled_slot? (e : OutEntry) : e.cancelled.slot? = e.slot? := by
  unfold OutEntry.cancelled OutEntry.slot?; cases h : e.target <;> rfl

/-- Where the register marks no period r, no slot has a record of r. -/
theorem regMark?_none {p : Part} {x : Reg} (h : ∀ g, p.reg.register = some g → regNumber g.periods x = none) (n : Nat) :
    p.regMark? n x = none := by
  unfold Part.regMark? Part.register? Register.regNumber?
  cases hr : p.reg.register with
  | none => rfl
  | some g => simp [h g hr]

/-- The leaving of an entry of a period that the register does not mark leaves the register as it stands. -/
theorem leave_reg_unmarked (c : Clock) (e : OutEntry) (p : Part) (n : Nat) (x : Reg)
    (hk : e.slot? = some n) (hx : e.reg = some x)
    (h : ∀ g, p.reg.register = some g → regNumber g.periods x = none) : (leave c e p).reg = p.reg := by
  unfold leave afterLeaving
  have hq : ∀ q : Part, q.reg = p.reg → (reportLeaving n x e.anyDelivered (e.failedCount != 0) q) = q := by
    intro q hq
    exact reportLeaving_none _ _ _ _ _ (regMark?_none (by rw [hq]; exact h) n)
  rw [hk, hx]
  simp only [sweepTold]
  split
  · rename_i h1 h2
    cases h1; cases h2
    rw [hq] <;> (split <;> simp)
  · split <;> simp

/-- A withdrawal for a period that the register does not mark leaves the register as it stands. -/
theorem withdrawFor_reg_unmarked (c : Clock) (k : OutKind) (n : Nat) (x : Reg) (p : Part)
    (hn : (p.pmu.outbox.map (·.id)).Nodup) (h : ∀ g, p.reg.register = some g → regNumber g.periods x = none) :
    (withdrawFor c k n x p).1.reg = p.reg := by
  unfold withdrawFor
  split
  · rfl
  · rename_i e he
    unfold Part.entryFor? at he
    have hm := List.mem_of_find?_eq_some he
    have hp := List.find?_some he
    simp only [Bool.and_eq_true, beq_iff_eq] at hp
    unfold withdrawEntry follow Part.entry? onEntry
    simp only
    split
    · rfl
    · rename_i f hf
      have hfm := List.mem_of_find?_eq_some hf
      have hfi := List.find?_some hf
      simp only [beq_iff_eq] at hfi
      simp only [List.mem_map] at hfm
      obtain ⟨a, ha, rfl⟩ := hfm
      have hae : a = e := by
        by_cases hi : a.id = e.id
        · exact List.inj_on_of_nodup_map hn ha hm hi
        · rw [if_neg hi] at hfi; exact absurd hfi hi
      subst hae
      rw [if_pos rfl]
      split
      · exact leave_reg_unmarked c _ _ n x (by simp [hp]) (by simp [hp]) h
      · rfl

/-- A withdrawal keeps the ids of the outbox apart. -/
theorem withdrawFor_ids (c : Clock) (k : OutKind) (n : Nat) (x : Reg) (p : Part) (hn : (p.pmu.outbox.map (·.id)).Nodup) :
    ((withdrawFor c k n x p).1.pmu.outbox.map (·.id)).Nodup := by
  unfold withdrawFor
  split
  · exact hn
  · unfold withdrawEntry
    have hmap : ∀ (q : Part) i, ((onEntry i OutEntry.cancelled q).pmu.outbox.map (·.id)) = q.pmu.outbox.map (·.id) := by
      intro q i
      simp only [onEntry, List.map_map]
      exact List.map_congr_left (fun a _ => by simp only [Function.comp]; split <;> simp)
    simp only
    rcases follow_outbox c _ _ with h | ⟨i, h⟩
    · rw [h]; exact (hmap p _) ▸ hn
    · rw [h]
      exact ((hmap p _) ▸ hn : (_ : List Nat).Nodup).sublist (List.filter_sublist.map _)

/-- The register that PLAN TODAY leaves: the rebuilt one, which the withdrawals of dropped PM records do not touch (R94). -/
theorem registerAfterPlan_reg (c : Clock) (t : Today) (p : Part) (g : Register) (hg : p.reg.register = some g)
    (hn : (p.pmu.outbox.map (·.id)).Nodup) :
    (registerAfterPlan c t p).reg.register =
      some (g.renew p.work.slots t.plan.marked g.state (fun z old => t.plan.marked.map (carriedMark t z old))) := by
  unfold registerAfterPlan Part.register?
  rw [hg]
  simp only
  have h0 : ∀ m, (p.onRegister (fun r => r.renew p.work.slots t.plan.marked r.state m)).reg.register =
      some (g.renew p.work.slots t.plan.marked g.state m) := by
    intro m; simp [Part.onRegister, hg]
  split
  · rename_i hx
    have key : ∀ (l : List Nat) (q : Part) (r : Register), q.reg.register = some r → regNumber r.periods .pm = none →
        (q.pmu.outbox.map (·.id)).Nodup → (l.foldl (fun q n => (withdrawFor c .absence n .pm q).1) q).reg.register = some r := by
      intro l
      induction l with
      | nil => intro q r h _ _; exact h
      | cons a l ih =>
        intro q r h hr hq
        refine ih _ r ?_ hr (withdrawFor_ids _ _ _ _ _ hq)
        rw [withdrawFor_reg_unmarked c _ a .pm q hq (by rw [h]; rintro g ⟨⟩; exact hr)]
        exact h
    exact key _ _ _ (h0 _) (by simpa [Register.renew, Option.isNone_iff_eq_none] using hx) hn
  · exact h0 _

/-- The new records and the kept presence of a slot (R94, R96). -/
theorem renewSlots_get (mk : Nat → List Mark → List Mark) (old : Table SlotDay) (q : Nat) (l : Table Slot) (n : Nat) (x : Slot)
    (h : Table.get? l n = some x) :
    let d := (Table.get? old n).getD SlotDay.fresh
    (Table.get? (renewSlots mk old q l).1 n).map (fun e => (e.marks, e.presence)) = some (mk x.zone d.marks, d.presence) := by
  induction l generalizing q with
  | nil => simp [Table.get?] at h
  | cons a t ih =>
    obtain ⟨k, y⟩ := a
    simp only [Table.get?] at h
    simp only [renewSlots, Table.get?]
    split at h
    · rename_i hk; cases h; subst hk; simp
    · rename_i hk; rw [if_neg hk]; exact ih _ h

/-! ## Counts, the change sequence, and withdrawals under no PENDING status -/

/-- The change sequence advances by one and holds at its greatest value (R80). -/
theorem nextChange_min (n : Nat) : nextChange n = min (n + 1) 4294967295 := by
  unfold nextChange Config.changeMax; split_ifs <;> omega

/-- The rebuilt records of every non-vacant slot, and the advances of the change sequence (R94, R96). -/
theorem renewSlots_all (mk : Nat → List Mark → List Mark) (old : Table SlotDay) : ∀ (l : Table Slot) (q : Nat), q ≤ 4294967295 →
    let r := renewSlots mk old q l
    r.2 = min (q + l.length) 4294967295 ∧ r.1.length = l.length ∧
    ∀ (i n : Nat) x, l[i]? = some (n, x) → r.1[i]? = some (n, ⟨mk x.zone ((Table.get? old n).getD SlotDay.fresh).marks,
      ((Table.get? old n).getD SlotDay.fresh).presence, min (q + i + 1) 4294967295⟩) := by
  intro l
  induction l with
  | nil => intro q hq; refine ⟨by simp [renewSlots]; omega, rfl, by simp⟩
  | cons a l ih =>
    intro q hq
    obtain ⟨m, y⟩ := a
    obtain ⟨h1, h2, h3⟩ := ih (nextChange q) (by rw [nextChange_min]; omega)
    have hnx := nextChange_min q
    refine ⟨?_, ?_, ?_⟩
    · simp only [renewSlots, h1, List.length_cons]; omega
    · simp only [renewSlots, h2, List.length_cons]
    · intro i n x hi
      cases i with
      | zero =>
        simp only [List.getElem?_cons_zero, Option.some.injEq, Prod.mk.injEq] at hi
        obtain ⟨rfl, rfl⟩ := hi
        simp [renewSlots, nextChange_min]
      | succ i =>
        simp only [List.getElem?_cons_succ] at hi
        simp only [renewSlots, List.getElem?_cons_succ, h3 i n x hi]
        congr 3
        omega

/-- A change of a band count keeps the period and the value counts. -/
theorem Tally.onBand_keeps (t : Tally) (f : Nat → Nat) (b : Option Band) :
    (t.onBand f b).period = t.period ∧ ∀ v, (t.onBand f b).count v = t.count v := by
  cases b with
  | none => exact ⟨rfl, fun _ => rfl⟩
  | some b => cases b <;> exact ⟨rfl, fun v => by cases v <;> rfl⟩

/-- The count of a band. -/
def Tally.ofBand (t : Tally) (b : Band) : Nat :=
  match b with
  | .minor => t.minor
  | .major => t.major
  | .afterClose => t.afterClose

/-- A change of a value count keeps the period and the band counts. -/
theorem Tally.onValue_keeps (t : Tally) (f : Nat → Nat) (a : MarkValue) :
    (t.onValue f a).period = t.period ∧ ∀ b, (t.onValue f a).ofBand b = t.ofBand b := by
  cases a <;> exact ⟨rfl, fun b => by cases b <;> rfl⟩

/-- A change of one value count changes no other. -/
theorem Tally.onValue_count (t : Tally) (f : Nat → Nat) (a v : MarkValue) :
    (t.onValue f a).count v = if v = a then f (t.count v) else t.count v := by
  cases a <;> cases v <;> rfl

/-- A change of one band count changes no other. -/
theorem Tally.onBand_ofBand (t : Tally) (f : Nat → Nat) (a : Option Band) (b : Band) :
    (t.onBand f a).ofBand b = if some b = a then f (t.ofBand b) else t.ofBand b := by
  cases a with
  | none => rfl
  | some a => cases a <;> cases b <;> rfl

/-- Counting a record in keeps the period. -/
theorem Tally.add_period (t : Tally) (m : Mark) : (t.add m).period = t.period :=
  ((t.onValue _ _).onBand_keeps _ _).1.trans (t.onValue_keeps _ _).1

/-- Counting a record out keeps the period. -/
theorem Tally.remove_period (t : Tally) (m : Mark) : (t.remove m).period = t.period :=
  ((t.onValue _ _).onBand_keeps _ _).1.trans (t.onValue_keeps _ _).1

/-- Counting a record in raises the count of its value by one (R79). -/
theorem Tally.add_count (t : Tally) (m : Mark) (v : MarkValue) : (t.add m).count v = t.count v + if v = m.value then 1 else 0 := by
  unfold Tally.add
  rw [(Tally.onBand_keeps _ _ _).2, Tally.onValue_count]
  split_ifs <;> rfl

/-- Counting a record in raises the count of its band by one (R79). -/
theorem Tally.add_ofBand (t : Tally) (m : Mark) (b : Band) : (t.add m).ofBand b = t.ofBand b + if some b = m.band then 1 else 0 := by
  unfold Tally.add
  rw [Tally.onBand_ofBand, (Tally.onValue_keeps _ _ _).2]
  split_ifs <;> rfl

/-- A record counted out and another counted in. -/
theorem Tally.move_count (t : Tally) (a b : Mark) (v : MarkValue) (h : 1 ≤ t.count a.value) :
    ((t.remove a).add b).count v + (if v = a.value then 1 else 0) = t.count v + if v = b.value then 1 else 0 := by
  have hr : (t.remove a).count v + (if v = a.value then 1 else 0) = t.count v := by
    unfold Tally.remove
    rw [(Tally.onBand_keeps _ _ _).2, Tally.onValue_count]
    by_cases hv : v = a.value
    · subst hv; rw [if_pos rfl, if_pos rfl]; omega
    · rw [if_neg hv, if_neg hv, Nat.add_zero]
  rw [Tally.add_count]
  omega

/-- Records counted in, each under its own period. -/
theorem fold_onTally (f : Tally → Mark → Tally) (hf : ∀ t m, (f t m).period = t.period) (rec : MarkedPeriod → Mark)
    (hr : ∀ m, (rec m).period = m) :
    ∀ (ps : List MarkedPeriod) (l : List Tally), (ps.map (·.number)).Nodup →
    ((ps.map rec).foldl (fun l m => onTally m.period.number (fun t => f t m) l) l)
      = l.map (fun t => match ps.find? (fun m => m.number == t.period.number) with
          | some m => f t (rec m)
          | none => t) := by
  intro ps
  induction ps with
  | nil => intro l _; simp
  | cons a ps ih =>
    intro l hn
    rw [List.map_cons, List.nodup_cons] at hn
    simp only [List.map_cons, List.foldl_cons]
    rw [ih _ hn.2]
    simp only [onTally, List.map_map]
    apply List.map_congr_left
    intro t _
    simp only [Function.comp, hr, List.find?_cons]
    by_cases ht : t.period.number = a.number
    · have hnone : ps.find? (fun m => m.number == a.number) = none := by
        rw [List.find?_eq_none]
        intro x hx hxe
        exact hn.1 (List.mem_map.2 ⟨x, hx, by simpa using hxe⟩)
      simp [ht, hf, hnone]
    · have : (a.number == t.period.number) = false := by simpa using fun h => ht h.symm
      simp [ht, this]

/-- No registration record has notice status PENDING. -/
def NonePending (p : Part) : Prop := ∀ n x m, p.regMark? n x = some m → m.notice ≠ some .pending

/-- It is read from the register alone. -/
theorem NonePending.of_reg {p q : Part} (h : NonePending p) (e : q.reg = p.reg) : NonePending q := by
  intro n x m hm; refine h n x m ?_
  rw [← hm]; unfold Part.regMark? Part.mark? Part.register?; rw [e]

/-- A leaving report finds nothing to change. -/
theorem reportLeaving_idle {p : Part} (h : NonePending p) (n : Nat) (x : Reg) (d f : Bool) : reportLeaving n x d f p = p := by
  unfold reportLeaving
  split
  · rfl
  · rename_i m hm; rw [if_neg (h n x m hm)]

/-- An entry leaves, and the register stands. -/
theorem leave_reg_idle {p : Part} (h : NonePending p) (c : Clock) (e : OutEntry) : (leave c e p).reg = p.reg := by
  unfold leave afterLeaving
  have hq : ∀ q : Part, q.reg = p.reg → ∀ n x d f, reportLeaving n x d f q = q :=
    fun q hq n x d f => reportLeaving_idle (h.of_reg hq) n x d f
  simp only [sweepTold]
  split
  · rw [hq] <;> (split <;> simp)
  · split <;> simp

/-- A withdrawal leaves the register as it stands. -/
theorem withdrawId_reg_idle {p : Part} (h : NonePending p) (c : Clock) (id : Nat) : (withdrawId c id p).1.reg = p.reg := by
  unfold withdrawId
  split
  · rfl
  · rename_i e he
    unfold withdrawEntry follow
    simp only
    split
    · rfl
    · split
      · refine (leave_reg_idle ?_ c _).trans rfl
        exact h.of_reg rfl
      · rfl

/-- Withdrawals leave the register as it stands. -/
theorem withdrawAll_reg_idle {p : Part} (h : NonePending p) (c : Clock) (pick : OutEntry → Bool) :
    (withdrawAll c pick p).reg = p.reg := by
  unfold withdrawAll
  generalize (List.map _ _) = l
  suffices ∀ (l : List Nat) (q : Part), NonePending q → (l.foldl (fun p id => (withdrawId c id p).1) q).reg = q.reg from this l p h
  intro l
  induction l with
  | nil => intro q _; rfl
  | cons i l ih =>
    intro q hq
    have h1 := withdrawId_reg_idle hq c i
    rw [List.foldl_cons, ih _ (hq.of_reg h1), h1]

end Sys2Proof.Machine
end

