-- ==== Sys2Proof/Laws/Ring.lean ====
section
/-!
SUPPORT. What the making of ring entries can do: the next issue, and entries created in turn.
-/

namespace Sys2Proof.Machine

/-- The next issue does not depend on the order of the table. -/
theorem nextIssue_perm {l m : List RingEntry} (h : l.Perm m) (z k t) : nextIssue l z k t = nextIssue m z k t := by
  unfold nextIssue
  have hp := (h.filter (RingEntry.alike z k t)).map (·.issue)
  congr 2
  generalize (List.filter (RingEntry.alike z k t) l).map (·.issue) = a at *
  generalize (List.filter (RingEntry.alike z k t) m).map (·.issue) = b at *
  by_cases ha : a = []
  · subst ha; have := hp.nil_eq; rw [← this]
  · have hb : b ≠ [] := by rintro rfl; exact ha hp.eq_nil
    obtain ⟨x, x1, x2, x3⟩ := greatest_spec ha
    obtain ⟨y, y1, y2, y3⟩ := greatest_spec hb
    rw [x3, y3]; congr 1
    exact le_antisymm (y2 _ (hp.mem_iff.1 x1)) (x2 _ (hp.mem_iff.2 y1))

/-- A change that leaves zone, period, tone and issue leaves the next issue. -/
theorem nextIssue_map {f : RingEntry → RingEntry}
    (h : ∀ e, (f e).zone = e.zone ∧ (f e).period = e.period ∧ (f e).tone = e.tone ∧ (f e).issue = e.issue) (l z k t) :
    nextIssue (l.map f) z k t = nextIssue l z k t := by
  unfold nextIssue; congr 3
  induction l with
  | nil => rfl
  | cons a l ih =>
    have : RingEntry.alike z k t (f a) = RingEntry.alike z k t a := by unfold RingEntry.alike; simp [h]
    simp only [List.map_cons, List.filter_cons, this]; split_ifs <;> simp [ih, h]

/-- An entry that is not alike leaves the next issue. -/
theorem nextIssue_cons_ne (a : RingEntry) (l z k t) (h : RingEntry.alike z k t a = false) :
    nextIssue (a :: l) z k t = nextIssue l z k t := by
  unfold nextIssue; simp [h]


/-- An entry with an issue no greater than the next one raises the next issue by one at most. -/
theorem nextIssue_cons_le (a : RingEntry) (l z k t) (h : a.issue ≤ nextIssue l a.zone a.period a.tone) :
    nextIssue (a :: l) z k t ≤ nextIssue l z k t + 1 := by
  cases ha : RingEntry.alike z k t a with
  | false => rw [nextIssue_cons_ne _ _ _ _ _ ha]; omega
  | true =>
    have hz : a.zone = z ∧ a.period = k ∧ a.tone = t := by unfold RingEntry.alike at ha; simp at ha; tauto
    rw [hz.1, hz.2.1, hz.2.2] at h
    unfold nextIssue at *
    simp only [List.filter_cons, ha, if_true, List.map_cons]
    generalize (List.filter (RingEntry.alike z k t) l).map (·.issue) = m at *
    obtain ⟨x, x1, x2, x3⟩ := greatest_spec (l := a.issue :: m) (by simp)
    rw [x3]; simp at x1 ⊢
    rcases x1 with rfl | x1
    · omega
    · obtain ⟨y, y1, y2, y3⟩ := greatest_spec (l := m) (by rintro rfl; simp at x1)
      rw [y3]; have := y2 x x1; simp; omega

/-- What creating entries in turn can do: those with a place are in the table, the others are counted; with room for all of
them none is counted. -/
theorem Bells.foldl_tryAdd : ∀ (qs : List RingRequest) (b : Bells) (n : Nat),
    let r := qs.foldl Bells.tryAdd (b, n)
    ∃ made : List RingEntry, r.1.ring.Perm (b.ring ++ made) ∧ made.length + r.2 = n + qs.length ∧
      (∀ e ∈ made, ∃ q ∈ qs, 1 ≤ e.issue ∧ e = q.entry e.issue e.stamp) ∧
      (b.ring.length + qs.length ≤ 192 → (∀ q ∈ qs, nextIssue b.ring q.zone q.period q.tone + qs.length ≤ 256) → r.2 = n) ∧
      r.1.today = b.today ∧ r.1.pendingDelay = b.pendingDelay ∧ r.1.zoneStates = b.zoneStates := by
  intro qs
  induction qs with
  | nil => intro b n; exact ⟨[], by simp⟩
  | cons q qs ih =>
    intro b n
    simp only [List.foldl_cons]
    by_cases hp : b.hasPlace q = true
    · have hta : Bells.tryAdd (b, n) q = (b.add q, n) := by unfold Bells.tryAdd; simp [hp]
      rw [hta]
      obtain ⟨made, h1, h2, h3, h4, h5, h6, h7⟩ := ih (b.add q) n
      have hip : (b.add q).ring.Perm (q.entry (nextIssue b.ring q.zone q.period q.tone) b.nextStamp :: b.ring) := by
        unfold Bells.add; exact insertBy_perm _ _ _
      refine ⟨q.entry (nextIssue b.ring q.zone q.period q.tone) b.nextStamp :: made, ?_, ?_, ?_, ?_, h5, h6, h7⟩
      · refine h1.trans ((hip.append_right made).trans ?_); exact List.perm_middle.symm
      · simp; omega
      · intro e he; rcases List.mem_cons.1 he with rfl | he
        · exact ⟨q, by simp, by show 1 ≤ nextIssue _ _ _ _; unfold nextIssue; omega, rfl⟩
        · obtain ⟨a, ha, hb⟩ := h3 e he; exact ⟨a, by simp [ha], hb⟩
      · intro hl hi
        apply h4
        · rw [hip.length_eq]; simp at hl ⊢; omega
        · intro a ha
          rw [nextIssue_perm hip]
          have := nextIssue_cons_le (q.entry (nextIssue b.ring q.zone q.period q.tone) b.nextStamp) b.ring a.zone a.period
            a.tone (le_refl _)
          have := hi a (by simp [ha]); simp at this; omega
    · have hta : Bells.tryAdd (b, n) q = (b, n+1) := by unfold Bells.tryAdd; simp [hp]
      rw [hta]
      obtain ⟨made, h1, h2, h3, h4, h5, h6, h7⟩ := ih b (n+1)
      refine ⟨made, h1, by simp; omega, ?_, ?_, h5, h6, h7⟩
      · intro e he; obtain ⟨a, ha, hb⟩ := h3 e he; exact ⟨a, by simp [ha], hb⟩
      · intro hl hi; exfalso; apply hp; unfold Bells.hasPlace Config.ringMax Config.issueMax
        rw [Bool.and_eq_true, decide_eq_true_eq, decide_eq_true_eq]
        have := hi q (by simp); simp at this hl; omega

/-! ## What a restart reads of the table -/

/-- Two entries of one key agree in zone, period, tone and issue. -/
theorem RingEntry.key_beq (o e : RingEntry) : (o.key == e.key) = (o.zone == e.zone && o.period == e.period && o.tone == e.tone && o.issue == e.issue) := by
  rw [Bool.eq_iff_iff]; simp [RingEntry.key, and_assoc]

/-- An early close changes of the bells only the table, today's copy and the creation number. -/
theorem Bells.closeEarly_rest (t : Today) (x : Nat) (b : Bells) : (b.closeEarly t x).today = some t ∧
    (b.closeEarly t x).pendingDelay = b.pendingDelay ∧ (b.closeEarly t x).zoneStates = b.zoneStates := by
  unfold Bells.closeEarly
  have : ∀ (l : List Nat) (u : Bells × Nat), let v := l.foldl (fun y z => Bells.tryAdd y (closeEnd t x z)) u
      v.1.today = u.1.today ∧ v.1.pendingDelay = u.1.pendingDelay ∧ v.1.zoneStates = u.1.zoneStates := by
    intro l
    induction l with
    | nil => intro u; exact ⟨rfl, rfl, rfl⟩
    | cons z l ih =>
      intro u
      rw [List.foldl_cons]
      obtain ⟨i1, i2, i3⟩ := ih (Bells.tryAdd u (closeEnd t x z))
      have : (Bells.tryAdd u (closeEnd t x z)).1.today = u.1.today ∧
          (Bells.tryAdd u (closeEnd t x z)).1.pendingDelay = u.1.pendingDelay ∧
          (Bells.tryAdd u (closeEnd t x z)).1.zoneStates = u.1.zoneStates := by
        unfold Bells.tryAdd; split_ifs <;> exact ⟨rfl, rfl, rfl⟩
      exact ⟨i1.trans this.1, i2.trans this.2.1, i3.trans this.2.2⟩
  exact this _ _

end Sys2Proof.Machine
end

