-- ==== Sys2Proof/Laws/Scores.lean ====
section
/-!
SUPPORT. What the score update of one slot does to the working copies (R128 to R131).
-/

namespace Sys2Proof.Machine

/-- The score update of a slot writes its score and level, and nothing else of the working copies. -/
theorem scoreSlot_work (c : Clock) (n : Nat) (x : Slot) (d : SlotDay) (p : Part) :
    (scoreSlot c n x d p).work =
      (p.setSlot n { x with score := newScore p.work.policy.d x.score d.lateness
                            level := p.work.policy.level x.level (newScore p.work.policy.d x.score d.lateness) }).work := by
  simp only [scoreSlot]
  split
  · exact (createOrReport_frame _ _ _).work
  · split
    · exact raise_work _ _ _
    · rfl

/-- A slot without records has a lateness of 0 (R127). -/
@[simp] theorem SlotDay.fresh_lateness : SlotDay.fresh.lateness = 0 := rfl

end Sys2Proof.Machine
end

