-- ==== Sys2Proof/WellFormed.lean ====
section
/-!
DEFINITION. Which commands can come from the world: the operands that a line, an answer or the store can spell. A command
outside this check has its meaning too; the check says only that no line and no device would bring it.
-/

namespace Sys2Proof

/-! ## Operands of lines -/

/-- A text that a quoted field can hold: printable, and no double quote (R188). -/
def Text.quotable (l : Text) : Bool :=
  decide (l.length ≤ Config.lineMax) && l.all (fun ch => Machine.printable ch && ch != 34)

/-- A bare field that a line can hold: some characters, printable, no space and no double quote (R188). -/
def Text.bare (l : Text) : Bool := !l.isEmpty && Text.quotable l && !l.contains Machine.space

/-- A date of four and two digits (R188). -/
def DateField.wf (d : DateField) : Bool := decide (d.year ≤ 9999) && decide (d.month ≤ 99) && decide (d.day ≤ 99)

/-- A time hh:mm of two digits each (R188). -/
def MinuteField.wf (m : MinuteField) : Bool := decide (m.hour ≤ 99) && decide (m.minute ≤ 99)

/-- A time hh:mm or hh:mm:ss of two digits each (R188). -/
def TimeField.wf (t : TimeField) : Bool :=
  decide (t.hour ≤ 99) && decide (t.minute ≤ 99) && decide (t.second.getD 0 ≤ 99)

/-- A list with at least one element, as a list field is written (R188). -/
def someOf {α : Type} (l : List α) : Bool := !l.isEmpty

/-- The zones field of RING. -/
def ZonesField.wf : ZonesField → Bool
  | .all => true
  | .list l => someOf l

/-- The periods field of EXPORT. -/
def PeriodsField.wf : PeriodsField → Bool
  | .all => true
  | .list l => someOf l

/-- The target of SEND. -/
def SendTarget.wf : SendTarget → Bool
  | .pupil _ => true
  | .all => true
  | .years l => someOf l

/-- The source of SEND. -/
def Source.wf : Source → Bool
  | .template _ => true
  | .host l => Text.quotable l

/-! ## Operands of devices and of the store -/

/-- A station address, 0..3 (R98). -/
def stationOk (n : Nat) : Bool := decide (n ≤ 3)

/-- A driver address, 1..15 (R22). -/
def addressOk (n : Nat) : Bool := decide (1 ≤ n) && decide (n ≤ 15)

/-- A number of 1..9 digits as a station offers it (R102). -/
def entryNumberOk (l : Text) : Bool := Machine.allDigits l && decide (l.length ≤ 9)

/-- A pupil of a list is what its characters spell (R58, R83). -/
def WrittenPupil.wf (x : WrittenPupil) : Bool := Machine.readPupil x.written == some x.ref

/-- A handle: an id, and a position 1..3 or a contact index 0..4095 (R165). -/
def Handle.wf (h : Handle) : Bool := decide (1 ≤ h.id) && decide (h.id ≤ 65535) && decide (h.position ≤ 4095)

/-- An item that the store holds (R62). -/
def StoreItem.wf : StoreItem → Bool
  | .plan n => decide (n < 8)
  | .zone n => decide (n < 6)
  | .template n => decide (n < 32)
  | .slot n => decide (n < Config.slotCount)
  | .contact n => decide (n < Config.contactCount)
  | .excuse n => decide (n < Config.excuseMax)
  | .weekdays => true | .exceptions => true | .rota => true | .stations => true | .templateMap => true
  | .school => true | .gateway => true | .policy => true | .excuses => true

/-- A line that HOST_LINE_INVALID speaks of (R188, R189). -/
def invalidLine (l : Text) : Bool := match Machine.readLine l with
  | .empty => true | .rejected => true | .syntaxError _ => true | .checkError => true
  | .unknown _ => false | .request _ => false

/-- A line that UNKNOWN_REQUEST speaks of (R190). -/
def unknownLine (l : Text) : Bool := match Machine.readLine l with
  | .unknown _ => true
  | _ => false

/-! ## Commands -/

/-- A command that the world can bring. -/
def Instr.wf : Instr → Bool
  | .coldStart bad => bad.all StoreItem.wf
  | .warmRestart bad _ => bad.all StoreItem.wf
  | .timeSet _ d t _ _ => d.wf && t.wf
  | .exceptPut _ d _ _ => d.wf
  | .exceptDel _ d _ => d.wf
  | .rotaSet _ _ plans _ _ => someOf plans
  | .planPut _ _ name _ _ _ _ periods _ => Text.quotable name && someOf periods && periods.all (fun k => k.start.wf)
  | .ring _ zones _ _ => zones.wf
  | .statusAnswer a _ => addressOk a
  | .staleWaitEnd e => decide (e.zone < 6) && decide (e.issue ≤ Config.issueMax)
  | .templatePut _ _ l _ => Text.quotable l
  | .schoolSet _ l _ => Text.quotable l
  | .pupilPut _ _ _ name _ _ contacts _ _ _ => Text.quotable name && someOf contacts
  | .contactPut _ _ number _ _ => Text.bare number
  | .markBatch _ _ _ _ _ _ pupils => someOf pupils && pupils.all WrittenPupil.wf
  | .exportStart _ _ _ _ periods _ _ => periods.wf
  | .stationIdle n => stationOk n
  | .stationEntry n tag _ number reason => stationOk n && decide (tag ≤ 255) && entryNumberOk number && decide (reason ≤ 7)
  | .stationCall n => stationOk n
  | .stationFaultAnswer n _ => stationOk n
  | .excusePut _ _ _ _ d _ => d.wf
  | .excuseDel _ _ _ d _ => d.wf
  | .recv number l _ => !number.isEmpty && decide (l.length ≤ Config.messageMax)
  | .taken h => h.wf
  | .reject h => h.wf
  | .delivered h => h.wf
  | .failed h _ _ => h.wf
  | .resultTimeout h => h.wf
  | .send _ target source => target.wf && source.wf
  | .gatewaySet _ _ a b _ _ _ => a.wf && b.wf
  | .hostLineInvalid l => invalidLine l
  | .unknownRequest l => unknownLine l
  | .wakeSet _ _ t => (t.map MinuteField.wf).getD true
  | _ => true

end Sys2Proof
end

