-- ==== Sys2Proof/Tests/Slice0.lean ====
section
/-!
SUPPORT. Small checks of the model: the well-formedness check refuses an ill-formed command of each kind, worked examples of
the spec, and for every statement of Obligations.lean a state and operands that meet its hypotheses, clause by clause.
-/

open Sys2Proof Sys2Proof.Machine

namespace Sys2Proof.Tests

set_option maxRecDepth 20000

/-! ## The well-formedness check refuses -/

theorem test_wf_store_item : (Instr.coldStart [.slot 3072]).wf = false := by decide
theorem test_wf_restart_item : (Instr.warmRestart [.zone 6] []).wf = false := by decide
theorem test_wf_date : (Instr.timeSet false ⟨2025, 100, 1⟩ ⟨8, 0, none⟩ false []).wf = false := by decide
theorem test_wf_time : (Instr.timeSet false ⟨2025, 3, 5⟩ ⟨8, 0, some 100⟩ false []).wf = false := by decide
theorem test_wf_exception_dates :
    (Instr.exceptPut false ⟨10000, 1, 1⟩ .noSchool []).wf = false ∧ (Instr.exceptDel false ⟨10000, 1, 1⟩ []).wf = false := by decide
theorem test_wf_rota_list : (Instr.rotaSet false 1 [] 0 []).wf = false := by decide
theorem test_wf_plan_name : (Instr.planPut false 0 [34] 60 60 120 20 [⟨some .lesson, ⟨9, 0⟩, 60, true, true⟩] []).wf = false := by decide
theorem test_wf_plan_periods : (Instr.planPut false 0 (text "A") 60 60 120 20 [] []).wf = false := by decide
theorem test_wf_period_start :
    (Instr.planPut false 0 (text "A") 60 60 120 20 [⟨none, ⟨100, 0⟩, 60, true, true⟩] []).wf = false := by decide
theorem test_wf_ring_zones : (Instr.ring false (.list []) none 5).wf = false := by decide
theorem test_wf_driver_address : (Instr.statusAnswer 16 .ready).wf = false ∧ (Instr.statusAnswer 0 .ready).wf = false := by decide
theorem test_wf_ring_key : (Instr.staleWaitEnd ⟨6, none, .test, 1⟩).wf = false := by decide
theorem test_wf_template_text : (Instr.templatePut false 0 [34] []).wf = false := by decide
theorem test_wf_school_name : (Instr.schoolSet false [10] []).wf = false := by decide
theorem test_wf_pupil : (Instr.pupilPut false 0 1 (text "A") 7 0 [] false false []).wf = false := by decide
theorem test_wf_contact_number : (Instr.contactPut false 0 [] none []).wf = false := by decide
theorem test_wf_batch_list : (Instr.markBatch false (.reg .am) none none 0 none []).wf = false := by decide
theorem test_wf_batch_pupil :
    (Instr.markBatch false (.reg .am) none none 0 none [⟨.number 7, text "8"⟩]).wf = false
      ∧ (Instr.markBatch false (.reg .am) none none 0 none [⟨.number 7, text "P007"⟩]).wf = true := by decide
theorem test_wf_export_periods : (Instr.exportStart false 0 1 (some .up) (.list []) 1 (some .once)).wf = false := by decide
theorem test_wf_station :
    (Instr.stationIdle 4).wf = false ∧ (Instr.stationCall 4).wf = false ∧ (Instr.stationFaultAnswer 4 .reader).wf = false := by decide
theorem test_wf_entry :
    (Instr.stationEntry 0 256 .signIn (text "1") 0).wf = false ∧ (Instr.stationEntry 0 1 .signIn (text "x") 0).wf = false
      ∧ (Instr.stationEntry 0 1 .signIn (text "1") 8).wf = false := by decide
theorem test_wf_excuse_dates : (Instr.excusePut false (.slot 0) none none ⟨2025, 100, 1⟩ []).wf = false
    ∧ (Instr.excuseDel false (.slot 0) none ⟨2025, 100, 1⟩ []).wf = false := by decide
theorem test_wf_sender : (Instr.recv [] (text "ABSENT") []).wf = false := by decide
theorem test_wf_handles : (Instr.taken ⟨0, 1⟩).wf = false ∧ (Instr.reject ⟨65536, 1⟩).wf = false
    ∧ (Instr.delivered ⟨1, 4096⟩).wf = false ∧ (Instr.failed ⟨0, 1⟩ .invalid []).wf = false
    ∧ (Instr.resultTimeout ⟨0, 1⟩).wf = false := by decide
theorem test_wf_send : (Instr.send false (.years []) (.template 0)).wf = false ∧ (Instr.send false .all (.host [34])).wf = false := by decide
theorem test_wf_window : (Instr.gatewaySet false 2 ⟨100, 0⟩ ⟨20, 0⟩ 10 10 []).wf = false := by decide
theorem test_wf_good_line_is_not_invalid : (Instr.hostLineInvalid (text "TIME GET")).wf = false := by decide
theorem test_wf_known_request_is_not_unknown : (Instr.unknownRequest (text "TIME GET")).wf = false := by decide
theorem test_wf_wake_time : (Instr.wakeSet false [] (some ⟨100, 0⟩)).wf = false := by decide

/-! ## Worked examples of the spec -/

theorem test_crc_of_the_nine_digits : crc16 (text "123456789") = 0x29B1 := by decide
theorem test_first_date_is_a_saturday : weekdayOf 0 = .sat ∧ dateOf ⟨2000, 1, 1⟩ = some 0 ∧ dateOf ⟨2099, 12, 31⟩ = some 36524 := by decide
theorem test_date_of_the_examples : (dateOf ⟨2025, 3, 5⟩).map weekdayOf = some .wed := by decide
theorem test_leap_day : dateOf ⟨2024, 2, 29⟩ ≠ none ∧ dateOf ⟨2025, 2, 29⟩ = none := by decide
theorem test_civil_inverts : (dateOf ⟨2024, 2, 29⟩).map civil = some ⟨2024, 2, 29⟩ := by decide
theorem test_slew_example : clockError ⟨9195, 29660, 5⟩ 29700 = 635 := by decide
theorem test_minutes_round_up : minutesLate 31501 31500 = 1 ∧ minutesLate 31560 31500 = 1 ∧ minutesLate 31561 31500 = 2 := by decide
theorem test_middle_of_a_lesson_is_late : halfPeriod 32400 36000 34200 false = (.late, some 30) := by decide
theorem test_past_the_middle_is_absent : halfPeriod 32400 36000 34201 false = (.absent, none) := by decide
theorem test_key_is_the_last_ten_digits : numberKey (text "+44 7700 900123") = text "7700900123" := by decide
theorem test_known_line_is_read : readLine (text "TIME GET") = .request (.timeGet false) := by decide
theorem test_unknown_line : readLine (text "FOO BAR") = .unknown false := by decide
theorem test_tilde_outside_quotes_is_malformed :
    readLine (text "RING 0 ~1 5") = .syntaxError false ∧ readLine (text "FOO ~12 X") = .syntaxError false := by decide
theorem test_tilde_inside_quotes_is_text :
    readLine (text "SCHOOL SET \"A ~1\"") = .request (.schoolSet false (text "A ~1") []) := by decide
theorem test_batch_keeps_pupils_as_written :
    readLine (text "MARK BATCH AM PRESENT 0 OFFICE 007,P7") = .request (.markBatch false (.reg .am) (some .present) none 0
      (some .office) [⟨.slot 7, text "007"⟩, ⟨.number 7, text "P7"⟩]) := by decide
theorem test_export_words_outside_their_table :
    readLine (text "EXPORT 0 1 LEFT ALL 1 TWICE") = .request (.exportStart false 0 1 none .all 1 none) := by decide
theorem test_empty_line : readLine [13] = .empty := by decide
theorem test_step_runs_version : ∃ t, step { State.reset with pending := [.version false] } = .next t ∧ t.pending = [] :=
  ⟨_, rfl, rfl⟩

/-! ## Small states -/

/-- An enrolled pupil with one contact. -/
def pupil : Slot := ⟨.enrolled, 7, text "ANNA B", 7, 0, [0], true, false, 0, 0⟩

/-- A pupil who has left. -/
def leaver : Slot := ⟨.left, 8, text "BEN C", 8, 0, [0], true, false, 0, 0⟩

/-- Two pupils, two contacts. -/
def img : Image :=
  { Image.fresh with slots := [(0, pupil), (1, leaver)]
                     contacts := [(0, ⟨some (text "441234567890"), .sms, false⟩), (1, ⟨some (text "441234567891"), .sms, true⟩)]
                     exceptions := [⟨9196, .noSchool⟩], excuses := [⟨0, .absenceDay, none, 9195, .office, ⟨9195, 30000⟩, none, false⟩] }

/-- A clock that shows 2025-03-05 and a second. -/
def clockAt (sec : Nat) : Clock := ⟨16, some ⟨9195, sec, 0⟩, 0⟩

/-- A part over that image, awake, with no day. -/
def closed (sec : Nat) : State := ⟨clockAt sec, Part.reset img img 0, []⟩

/-- Today's copy of plan 0. -/
def today : Today := makeToday img 0 0 none 31440

/-- The record of an open day. -/
def openRecord : DayRecord := ⟨9195, .school, some 0, .opened, false⟩

/-- A sweep that waits for its cutoff. -/
def waiting : Sweep := ⟨.waiting, some 32700, 0, 0, 0, 0, none, none⟩

/-- The AM record of the open day. -/
def amMark : Mark := Mark.unset ⟨0, some .am⟩ (some .none)

/-- The part on an open day. -/
def openPart (sec : Nat) : Part :=
  { Part.reset img img 0 with day := some openRecord, bells.today := some today, hl.activity := .active
                              reg.register := some (makeRegister (clockAt sec) img today), sweeps.am := some waiting }

/-- The machine on an open day. -/
def opened (sec : Nat) : State := ⟨clockAt sec, openPart sec, []⟩

/-- The same with its reply still being sent. -/
def replying : State := { closed 40000 with part.hl.reply := some (ok []) }

/-- A sleeping part. -/
def asleep : State := { closed 40000 with part.hl.activity := .dormant }

/-- A LOCKDOWN. -/
def lockdown : Alert := ⟨.lockdown, .host, none, none, none⟩

/-- An evacuation with one pupil on the roll. -/
def evacuation : Alert := ⟨.evacuate, .host, none, none, some [⟨0, 7, 0, text "ANNA B", false, none⟩]⟩

/-- A ring entry of zone 0. -/
def bell (st : RingState) (since : Option Nat) : RingEntry := ⟨0, some 0, .ring, 1, 31500, none, st, none, since, false, 0⟩

/-- An outbox entry for slot 0. -/
def letter (st : Delivery) : OutEntry :=
  ⟨1, .absence, .slot 0 [⟨0, st⟩], some .am, .template 0, none, none, none, none, none, true⟩

/-- A state with one outbox entry, its gateway ready. -/
def posting (st : Delivery) (off : Option Offer) : State :=
  { closed 40000 with part.pmu.outbox := [letter st], part.pmu.gateway := .ready, part.pmu.offer := off }

/-! ## Every statement has hypotheses that a state meets -/

theorem test_meets_StepRunsTheFrontCommand :
    ({ State.reset with pending := [.broadcast] } : State).pending = .broadcast :: [] ∧ State.reset.pending = [] := by decide

theorem test_meets_EveryCommandAnswersNextAndThreeMoveTheClock : movesClock .broadcast = false := by decide

theorem test_meets_RequestMeetsReplyOrSleep :
    requestSuffix (.status true) = some true ∧ replying.part.hl.reply ≠ none ∧ replying.part.hl.activity ≠ .dormant
      ∧ asleep.part.hl.activity = .dormant := by decide

theorem test_meets_QueriesAnswerAndChangeNothing : (queryReply (.status false)).isSome ∧ Listening State.reset := by decide

theorem test_meets_FailedStoreWriteChangesNothing :
    Listening (closed 0) ∧ [false].headD true = false ∧ allKnown [some Weekday.mon] = some [.mon] ∧ noRepeat [Weekday.mon] = true
      ∧ rotaOk 1 [7] 0 = true ∧ (List.replicate 40 space).length ≤ 40 ∧ templateOk (text "A") = true
      ∧ allDigits (text "1") = true ∧ policyOk ⟨1, 2, 3, 4095, 255⟩ = true ∧ zoneOk 5 (Zone.fresh 5) = true
      ∧ (closed 0).part.work.addressTaken 5 6 = false ∧ pupilInRange (.number 7) = true
      ∧ (closed 0).part.work.pupil (.number 7) = some (0, pupil)
      ∧ (closed 0).part.work.exceptions.any (fun e => e.date == 9196) = true ∧ dateOf ⟨2025, 3, 6⟩ = some 9196
      ∧ readPeriods [⟨some .registration, ⟨9, 0⟩, 15, true, true⟩] = some [⟨.registration, 540, 15, true, true⟩]
      ∧ planItemsOk 7 (text "A") 60 60 120 20 = true ∧ periodsOk [⟨.registration, 540, 15, true, true⟩] = true
      ∧ (closed 0).part.work.template 7 ≠ none ∧ pupilFieldsOk 1 8 (text "A") 13 5 [0] = true
      ∧ (closed 0).part.slot? 1 = some leaver ∧ (∀ e ∈ img.slots, e.1 ≠ 1 → e.2.number ≠ 8)
      ∧ allKnown [some 3] = some [3] ∧ noRepeat [3] = true ∧ minuteOf ⟨0, 0⟩ = some 0 ∧ minuteOf ⟨23, 59⟩ = some 1439
      ∧ (closed 0).part.work.enrolledPupil (.slot 0) = some (0, pupil) ∧ (closed 0).part.day = none
      ∧ (img.dayKind 9195).1 = .school ∧ img.holdsExcuse 0 .absenceDay 9195 = true ∧ img.slotNamed (.slot 0) = some 0 := by
  decide

theorem test_meets_SavedWriteCarriesUnsavedItems :
    StoreItem.school ∈ [StoreItem.school] ++ [.slot 3] ∧ StoreItem.slot 3 ∈ [StoreItem.school] ++ [.slot 3]
      ∧ (∀ i ∈ [StoreItem.weekdays, .exceptions, .stations, .templateMap, .gateway, .policy, .plan 7, .zone 5, .template 31], i ∈ [i] ++ [.slot 3])
      ∧ StoreItem.plan 7 ∉ [StoreItem.plan 6] ++ []
      ∧ StoreItem.slot 4 ∉ [StoreItem.school] ++ [.slot 3] := by decide

theorem test_meets_own_write :
    (met State.reset [false]).roster.answers.headD true = false ∧ (met State.reset []).roster.answers.headD true = true := by decide

theorem test_midnight_reaches_no_wake_time :
    (afterTick (clockAt 0) .midnight { openPart 0 with day := none, hl.wakeTime := some 0 }).hl.flags
      = (openPart 0).hl.flags := by decide

theorem test_meets_TickAdvancesTheClock :
    State.reset.clock.reading = none ∧ (closed 86399).clock.reading = some ⟨9195, 86399, 0⟩ ∧ 14 + 1 < 16 ∧ 16 ≤ 15 + 1
      ∧ 86399 + 1 < 86401 ∧ (opened 32000).part.openDay = some openRecord ∧ (opened 32000).part.ac.alert = none
      ∧ (closed 0).part.openDay = none ∧ (img.evaluate 9195).kind = .school ∧ (img.evaluate 9195).phase = .closed
      ∧ (img.evaluate 9195).plan = some 0 ∧ openTime img 0 (img.plan 0) = 27900
      ∧ openTime img 0 (img.plan 0) ≤ 27900 ∧ 27899 < openTime img 0 (img.plan 0) ∧ today.closeTime = 39600
      ∧ today.lastPeriod 0 = some 1 ∧ today.effective 1 0 = some (32400, 36000)
      ∧ ({ today with early := some 1 } : Today).lastPeriod 0 = none
      ∧ (opened 32700).part.sweeps.get? .am = some waiting ∧ waiting.cutoff = some 32700
      ∧ ({ (openPart 32000) with ac.alert := some lockdown } : Part).ac.alert ≠ none := by decide

theorem test_meets_TimeSetByRangeAndFromUnset :
    Listening State.reset ∧ State.reset.clock.reading = none ∧ 1999 < 2000 ∧ 2099 < 2100 ∧ (monthLengths 2025).getD 1 0 < 29
      ∧ 23 < 24 ∧ 59 < 60 ∧ dateOf ⟨2099, 12, 31⟩ = some 36524 ∧ secondOf ⟨23, 59, some 59⟩ = some 86399 := by decide

theorem test_meets_SameDateSettingSlewsOrSteps :
    Listening (closed 29660) ∧ dateOf ⟨2025, 3, 5⟩ = some 9195 ∧ clockError ⟨9195, 29660, 0⟩ 29780 = 1920
      ∧ clockError ⟨9195, 29660, 0⟩ 29540 = -1920 ∧ clockError ⟨9195, 29660, 0⟩ 29781 = 1936 ∧ 29540 ≤ 29660 ∧ 29660 < 29781
      ∧ skipped 31499 31501 (bell .pending none) = true ∧ skipped 31500 31501 (bell .pending none) = false := by decide

theorem test_meets_DateChangeFollowsPhaseAndAlert :
    Listening (closed 0) ∧ dateOf ⟨2025, 3, 6⟩ = some 9196 ∧ (closed 0).part.openDay = none
      ∧ (opened 32000).part.openDay = some openRecord ∧ (opened 32000).part.ac.alert = none ∧ (9195 : Nat) ≠ 9196 := by decide

theorem test_meets_TimeGetShowsTheClock :
    State.reset.clock.reading = none ∧ (closed 0).clock.reading = some ⟨9195, 0, 0⟩ := by decide

theorem test_meets_CalendarRequestsAreTakenOrRefused :
    Kept [] ∧ (closed 0).part.work.exceptions.any (fun e => e.date == 9196) = true ∧ (closed 0).part.work.exceptions.length < 64
      ∧ [7].length = 1 ∧ (∀ q ∈ [7], q ≤ 7) ∧ none ∈ [none, some Weekday.mon] ∧ ¬ [some Weekday.mon, some .mon].Nodup
      ∧ dateOf ⟨2025, 2, 29⟩ = none ∧ (∀ e ∈ (closed 0).part.work.exceptions, e.date ≠ 9195)
      ∧ 64 ≤ (List.replicate 64 (⟨1, .noSchool⟩ : Exception)).length ∧ (∀ e ∈ List.replicate 64 (⟨1, .noSchool⟩ : Exception), e.date ≠ 2)
      ∧ 20 < 21 ∧ [8].length = 1 ∧ (∃ q ∈ [8], 7 < q) := by decide

theorem test_meets_DayKindIsDecidedInOrder :
    img.exceptions.find? (fun e => e.date == 9196) = some ⟨9196, .noSchool⟩
      ∧ img.exceptions.find? (fun e => e.date == 9195) = none ∧ weekdayOf 9195 ∈ img.weekdays ∧ weekdayOf 9198 ∉ img.weekdays := by decide

theorem test_meets_DayOpenAndDayClose :
    (openPart 0).hl.notices.length < 32 ∧ (openPart 0).hl.activity = .active ∧ (openPart 0).reg.register.isSome
      ∧ Table.wf (openPart 0).work.slots = true ∧ today.reg? .am = some 0 ∧ today.reg? .pm = none ∧ today.cutoff 0 = some 32700
      ∧ ({ today with early := some 1 } : Today).cutoff 0 = none ∧ (makeRegister (clockAt 32701) img today).state = .recovery
      ∧ (makeRegister (clockAt 31500) img today).state = .normal ∧ (clockAt 32700).dayNow openRecord = 32700
      ∧ ((posting .waiting none).part.pmu.outbox.map (·.id)).Nodup ∧ (letter .waiting).isStale = true
      ∧ (letter .inFlight).isStale = false := by decide

/-- Today's copy under an early close at 00:01, which cancels every period. -/
def cutShort : Today := { today with early := some 1 }

theorem test_meets_register_made :
    today.plan.periods[0]?.isSome ∧ ({ today with plan.periods := [] } : Today).reg? .am = none
      ∧ today.effective 0 0 ≠ none ∧ cutShort.effective 0 0 = none
      ∧ countTallies today.plan.marked (makeRegister (clockAt 0) img today).slots ≠ [] := by decide

theorem test_meets_PlanPutReplacesOnePlan :
    readPeriods [⟨some .lesson, ⟨9, 0⟩, 60, true, true⟩] = some [⟨.lesson, 540, 60, true, true⟩]
      ∧ readPeriods [⟨none, ⟨9, 0⟩, 60, true, true⟩] = none ∧ planItemsOk 8 (text "A") 60 60 120 20 = false
      ∧ planItemsOk 7 (text "A") 60 60 120 20 = true ∧ periodsOk Plan.defaultPeriods = true ∧ periodsOk [] = false := by decide

theorem test_meets_ZonePutReplacesOneZone :
    zoneOk 6 (Zone.fresh 0) = false ∧ zoneOk 5 { Zone.fresh 5 with present := true, address := 1 } = true
      ∧ img.addressTaken 5 1 = true ∧ img.addressTaken 5 15 = false ∧ (img.zone 0).present = true ∧ (img.zone 5).present = false := by decide

theorem test_meets_ZoneArmByZoneAndAlert :
    Listening (closed 0) ∧ (closed 0).part.zoneState 0 = some (.up .armed) ∧ (closed 0).part.zoneState 5 = none
      ∧ ((closed 0).part.setZoneState 5 (some (.up .silenced))).zoneState 5 = some (.up .silenced)
      ∧ ((closed 0).part.setZoneState 5 (some (.faulted .silenced))).zoneState 5 = some (.faulted .silenced)
      ∧ ({ (closed 0).part with ac.alert := some lockdown } : Part).ac.alert ≠ none := by decide

theorem test_meets_DelayActsOnPendingOrToday :
    Listening (opened 31480) ∧ (closed 0).part.openDay = none ∧ (closed 0).clock.reading ≠ none ∧ State.reset.clock.reading = none
      ∧ (opened 31480).part.openDay = some openRecord ∧ (opened 31480).part.bells.today = some today
      ∧ delayInTime 31480 today (openPart 31480).bells = true ∧ delayInTime 31500 today { (openPart 31500).bells with ring := [bell .rung none] } = false
      ∧ delayInTime 31480 { today with delayTotal := 120 } (openPart 31480).bells = true ∧ today.delayTotal < 120
      ∧ (∃ q ∈ today.plan.periods, q.kind = .registration ∧ q.ring = true) ∧ today.reg? .am = some 0
      ∧ (∀ q ∈ [(⟨.registration, 525, 15, false, false⟩ : Period)], q.kind = .registration → q.ring = false)
      ∧ today.lastPeriod 0 = some 1 ∧ ({ today with early := some 1 } : Today).lastPeriod 0 = none
      ∧ (bell .pending none).tone = .ring
      ∧ (freshWarn 31000 today [{ bell .rung none with tone := .warn }] (bell .pending none)).length = 1 := by decide

theorem test_meets_changed_times :
    (openPart 0).reg.register.isSome ∧ Table.wf (openPart 0).work.slots = true ∧ (openPart 0).slot? 0 = some pupil
      ∧ (openPart 0).mark? 0 0 = some amMark ∧ amMark.source ≠ some .office
      ∧ (0 ∈ today.plan.marked.map (·.number) ∧ today.effective 0 0 ≠ none ∧ cutShort.effective 0 0 = none)
      ∧ (openPart 0).sweeps.get? .am = some waiting ∧ cutShort.cutoffOf .am = none ∧ today.cutoffOf .am = some 32700
      ∧ waiting.state = .waiting ∧ ({ waiting with state := .done } : Sweep).state = .done ∧ (openPart 0).openDay = some openRecord
      ∧ (clockAt 32700).reading = some ⟨openRecord.date, 32700, 0⟩ ∧ ¬ 32700 ≤ 32699 := by decide

theorem test_meets_EarlyCloseInOrder :
    Listening (opened 32000) ∧ (closed 0).part.openDay = none ∧ (opened 32000).clock.dayNow openRecord < 1439 * 60
      ∧ 533 * 60 ≤ (opened 32000).clock.dayNow openRecord ∧ today.zones.length ≤ (openPart 32000).bells.free
      ∧ (openPart 32000).bells.issuesFree { today with early := some 600 } 600 = true
      ∧ ({ (openPart 0).bells with ring := [{ bell .rung none with period := some 1, tone := .endBell, issue := 255 }] } : Bells).issuesFree
          { today with early := some 599 } 599 = false
      ∧ (today.zones.map (·.zone)).Nodup ∧ ({ today with early := some 570 } : Today).inProgress 570 0 = some 1
      ∧ ({ today with early := some 600 } : Today).inProgress 600 0 = none
      ∧ ({ today with early := some 600 } : Today).early = some 600
      ∧ ({ (openPart 0).bells with ring := List.replicate 192 (bell .rung none) } : Bells).free < today.zones.length := by decide

theorem test_meets_PlanTodayByTheDayRecord :
    Listening (closed 0) ∧ (closed 0).part.day = none ∧ (img.evaluate 9195).phase = .closed ∧ (img.evaluate 9195).kind = .school
      ∧ (img.evaluate 9195).done = false ∧ (img.evaluate 9196).kind = .noSchool ∧ (opened 0).part.day = some openRecord
      ∧ (∀ e ∈ [bell .pending none], e.state = .pending) ∧ (∃ e ∈ [bell .rung none], e.state ≠ .pending)
      ∧ (today.cancelled 0 0 = false ∧ (opened 0).part.reg.register ≠ none ∧ ((opened 0).part.pmu.outbox.map (·.id)).Nodup
        ∧ (opened 0).part.slot? 0 = some pupil)
      ∧ ([amMark].find? (fun o => o.period.reg == some .am) = some amMark ∧ ∀ o ∈ [amMark], o.period.reg ≠ some .pm)
      ∧ ({ today with delayTotal := 900 } : Today).cancelled 0 0 = true := by decide

theorem test_cancelled_period_is_remade_as_at_day_open :
    carriedMark { today with delayTotal := 900 } 0
        [⟨⟨0, some .am⟩, .absent, some .sweep, none, some 0, some 33000, none, some .pending⟩] ⟨0, some .am⟩
      = ⟨⟨0, some .am⟩, .notRequired, some .system, none, some 0, some 31440, none, some .none⟩ := by decide

theorem test_meets_RingMakesManualEntries :
    ringZones (opened 32000).part .all = [0] ∧ noRepeat [0, 0] = false ∧ (∃ z ∈ [6], 5 < z) ∧ (∀ z ∈ [0], z ≤ 5)
      ∧ (∀ z ∈ [0], (opened 32000).part.zoneState z ≠ none) ∧ (opened 32000).part.openDay ≠ none ∧ (opened 32000).part.ac.alert = none
      ∧ (∃ z ∈ [5], (opened 32000).part.zoneState z = none) ∧ [0].length ≤ (opened 32000).part.bells.free
      ∧ (∀ z ∈ [0], nextIssue (opened 32000).part.bells.ring z none .test ≤ 255)
      ∧ ({ (openPart 0).bells with ring := List.replicate 192 (bell .rung none) } : Bells).free < [0].length := by decide

theorem test_meets_EffectiveTimesOfAPeriod :
    today.periodTimes ⟨.lesson, 540, 60, true, true⟩ 0 = some (32400, 36000) ∧ 86399 < 1380 * 60 + 60 * 60
      ∧ ({ today with early := some 570 } : Today).periodTimes ⟨.lesson, 540, 60, true, true⟩ 0 = some (32400, 34200)
      ∧ ({ today with early := some 540 } : Today).periodTimes ⟨.lesson, 540, 60, true, true⟩ 0 = none
      ∧ ({ today with early := some 600 } : Today).periodTimes ⟨.lesson, 540, 60, true, true⟩ 0 = some (32400, 36000) := by decide

/-- A broadcast of zone 0 issued at crystal 0. -/
def sounding : Broadcast := ⟨.bell .ring, [⟨0, 1⟩], 6, none, 0, 0⟩

theorem test_meets_BroadcastSoundsTheHighestToneThenFetches :
    (closed 0).part.zbus.bus = .idle ∧ dueTone [bell .due none] = some .ring ∧ dueTone [bell .pending none] = none
      ∧ sounding.issuedAt + (sounding.duration + 1) * 16 ≤ 112 ∧ 111 < sounding.issuedAt + (sounding.duration + 1) * 16
      ∧ sounding.members = ⟨0, 1⟩ :: [] ∧ ({ sounding with members := [] } : Broadcast).members = [] := by decide

theorem test_meets_FetchOutcomeSettlesTheMember : sounding.members[sounding.position]? = some ⟨0, 1⟩ ∧ (2 : Nat) ≠ 1 := by decide

theorem test_meets_ZoneFaultAndRecovery :
    (closed 0).part.zoneState 5 = none ∧ (closed 0).part.zoneState 0 = some (.up .armed)
      ∧ ((closed 0).part.setZoneState 0 (some (.faulted .armed))).zoneState 0 = some (.faulted .armed) := by decide

theorem test_meets_StatusPollAsksPresentZones :
    (closed 0).part.zbus.pollDue ≤ (closed 0).clock.crystal ∧ (closed 0).part.hl.activity ≠ .dormant
      ∧ (∀ e ∈ (closed 0).part.bells.ring, e.state ≠ .due) ∧ (closed 0).part.work.presentMembers = [⟨0, 1⟩]
      ∧ ({ img with zones := Vector.ofFn (fun i => { Zone.fresh i.val with present := false }) } : Image).presentMembers = []
      ∧ (⟨[⟨0, 1⟩], 0⟩ : Poll).members[0]? = some ⟨0, 1⟩ := by decide

theorem test_meets_StaleWaitPassesADueEntry :
    [bell .due (some 0)].find? (fun x => x.key == ⟨0, some 0, .ring, 1⟩) = some (bell .due (some 0))
      ∧ (∀ x ∈ [bell .due (some 0)], x.key = ⟨0, some 0, .ring, 1⟩ → x = bell .due (some 0)) ∧ 0 + 960 ≤ 960 ∧ 959 < 0 + 960
      ∧ (bell .sounding none).state ≠ .due := by decide

theorem test_meets_SettingsAreWrittenWhole :
    Listening (closed 0) ∧ Kept [true] ∧ templateOk (text "A") = true ∧ templateOk [] = false ∧ (closed 0).part.work.template 7 ≠ none
      ∧ (closed 0).part.work.template 8 = none ∧ allDigits (text "123456789012345") = true ∧ (text "123456789012345").length ≤ 15
      ∧ allDigits [] = false ∧ minuteOf ⟨0, 0⟩ = some 0 ∧ minuteOf ⟨23, 59⟩ = some 1439 ∧ minuteOf ⟨24, 0⟩ = none
      ∧ allKnown [some 0, some 3] = some [0, 3] ∧ (∀ n ∈ [0, 3], n ≤ 3) ∧ noRepeat [0, 3] = true
      ∧ ¬ [some 1, some 1].Nodup ∧ (∃ n ∈ [4], 3 < n) := by decide

theorem test_meets_PupilPutAndRemoveBySlotState :
    pupilFieldsOk 3071 999999 (text "A") 13 5 [0] = true ∧ pupilFieldsOk 3072 1 (text "A") 7 0 [0] = false
      ∧ (∀ i ∈ [0], ((closed 0).part.work.contact i).number ≠ none) ∧ ¬ (∀ i ∈ [2], ((closed 0).part.work.contact i).number ≠ none)
      ∧ (∀ e ∈ img.slots, e.1 ≠ 2 → e.2.number ≠ 9) ∧ ¬ (∀ e ∈ img.slots, e.1 ≠ 2 → e.2.number ≠ 7)
      ∧ (closed 0).part.slot? 2 = none ∧ (closed 0).part.slot? 0 = some pupil ∧ (closed 0).part.slot? 1 = some leaver
      ∧ (opened 0).part.openDay ≠ none ∧ pupilInRange (.number 0) = false ∧ img.pupil (.number 5) = none
      ∧ img.pupil (.slot 0) = some (0, pupil) ∧ img.pupil (.slot 1) = some (1, leaver) := by decide

/-- The open day with the AM sweep in a state. -/
def sweepingPart (st : SweepState) : Part := { openPart 0 with sweeps.am := some { waiting with state := st } }

theorem test_meets_open_day_records :
    (openPart 0).openDay = some openRecord ∧ (openPart 0).bells.today = some today
      ∧ (openPart 0).reg.register.map (fun g => (g.tallies.map (·.period), g.periods)) = some (today.plan.marked, today.plan.marked)
      ∧ (today.plan.marked.map (·.number)).Nodup ∧ today.plan.marked[0]? = some ⟨0, some .am⟩
      ∧ today.plan.marked[1]? = some ⟨1, none⟩ ∧ today.effective 1 0 = some (32400, 36000) ∧ today.effective 0 0 ≠ none
      ∧ cutShort.effective 1 0 = none ∧ (sweepingPart .done).sweeps.get? .am = some { waiting with state := .done }
      ∧ (openPart 0).reg.register.map (fun g => ((g.slot? 0).isSome, g.slot? 2)) = some (true, none)
      ∧ (closed 0).part.reg.register = none ∧ amMark.value = .unset
      ∧ reinstatedMark (clockAt 0) (sweepingPart .running) amMark ≠ amMark
      ∧ reinstatedMark (clockAt 0) (sweepingPart .waiting) amMark = amMark := by decide

theorem test_meets_PrecedenceOfTheSixWriters :
    (openPart 0).mark? 0 0 = some amMark ∧ (⟨.parent, .absentExcused, none, 0, none⟩ : Write).allowed amMark = false
      ∧ (⟨.sweep, .absent, none, 0, none⟩ : Write).allowed amMark = true
      ∧ (⟨.teacher, .present, none, 0, none⟩ : Write).allowed { amMark with value := .absent, source := some .office } = false
      ∧ readMark ⟨.reg .am, some .present, none, 0, some .teacher⟩ true (openPart 32000)
          = .ok ⟨0, ⟨.teacher, .present, none, 0, none⟩⟩ := by
  and_intros <;> rfl

theorem test_meets_AppliedWriteMovesRecordCountAndSequence :
    (⟨.station, .late, some 241, 0, some .major⟩ : Write).value ≠ .unset
      ∧ ((openPart 0).reg.register.bind (fun g => g.slot? 0)).bind (fun d => d.mark? 0) = some amMark
      ∧ ((openPart 0).reg.register.map (fun g => g.tallies.map (fun x => x.count .unset))) = some [2, 2] := by decide

/-- The open day with the AM record ABSENT from SWEEP, PENDING, and its entry in the outbox. -/
def absentPart (st : Delivery) : Part :=
  setNotice 0 .am .pending
    { (writeMark (clockAt 0) ⟨.sweep, .absent, none, 0, none⟩ 0 0 (openPart 0)).1 with pmu.outbox := [letter st] }

theorem test_meets_write_and_outbox :
    (⟨.office, .present, none, 0, none⟩ : Write).allowed amMark = true ∧ (Mark.unset ⟨1, none⟩ none).period.reg = none
      ∧ amMark.period.reg = some .am ∧ amMark.notice ≠ some .pending
      ∧ ((absentPart .waiting).regMark? 0 .am).bind (·.notice) = some .pending
      ∧ (withdrawFor (clockAt 0) .absence 0 .am (absentPart .waiting)).2.handed = false
      ∧ (withdrawFor (clockAt 0) .absence 0 .am (absentPart .inFlight)).2.handed = true
      ∧ (openPart 0).regMark? 0 .am = some amMark ∧ (openPart 0).regMark? 2 .am = none := by decide

theorem test_meets_MarkRequestsAreDecidedInOrder :
    readMark ⟨.reg .am, some .present, none, 0, some .teacher⟩ (pupilInRange (.slot 0)) (openPart 32000)
        = .ok ⟨0, ⟨.teacher, .present, none, 0, none⟩⟩
      ∧ readMark ⟨.reg .pm, some .present, none, 0, some .teacher⟩ true (openPart 32000) = .error .range
      ∧ readMark ⟨.reg .am, some .late, none, 0, some .teacher⟩ true (openPart 32000) = .error .malformed
      ∧ readMark ⟨.reg .am, some .late, some 0, 0, some .teacher⟩ true (openPart 32000) = .error .range
      ∧ readMark ⟨.number 13, some .late, some 1, 7, some .office⟩ true (closed 0).part = .error .state
      ∧ img.pupil (.slot 2) = none ∧ img.pupil (.slot 0) = some (0, pupil) ∧ (openPart 0).sweepBegun .am = false
      ∧ ({ openPart 0 with sweeps.am := some { waiting with state := .running } } : Part).sweepBegun .am = true
      ∧ pupilInRange (.slot 3072) = false ∧ (openPart 0).mark? 0 0 = some amMark := by
  and_intros <;> rfl

theorem test_meets_ExportVisitsSlotsInBlocks :
    exportPeriods today .all = some [0, 1] ∧ exportPeriods today (.list [.reg .pm]) = none
      ∧ (opened 0).part.reg.register.isSome ∧ (closed 0).part.reg.register = none ∧ (0 : Nat) < 3072 ∧ 1 ≤ 64
      ∧ bareListOk .all = true ∧ bareListOk (.list [.number 14]) = false ∧ bareListOk (.list [.reg .am, .reg .am]) = false
      ∧ Table.get? img.slots 0 = some pupil ∧ Table.get? img.slots 2 = none
      ∧ ((opened 0).part.reg.register.bind (fun g => g.slot? 0)).isSome := by decide

theorem test_meets_RegisterResumeEndsRecovery :
    ((opened 0).part.reg.register.map (·.state)) = some .normal ∧ ((opened 40000).part.reg.register.map (·.state)) = some .recovery
      ∧ (opened 40000).part.ac.alert = none ∧ (opened 40000).part.sweeps.resume = none
      ∧ (opened 40000).part.sweeps.get? .am = some waiting
      ∧ (waiting.cutoff.map (atOrPast (opened 32700).clock openRecord)).getD false = true := by decide

/-- A part in the middle of an exchange with station 0. -/
def asking (st : Station) : State :=
  { opened 32000 with part.desk.asking := some ⟨0, true, false⟩, part.desk.stations := Vector.ofFn (fun _ => st) }

theorem test_meets_PollCycleAndStationOutcomes :
    (opened 0).part.desk.cycleNext ≤ (opened 0).clock.crystal ∧ (opened 0).part.desk.toPoll = [] ∧ (opened 0).part.desk.asking = none
      ∧ (opened 0).part.work.stations = [0] ∧ (asking Station.fresh).part.desk.asking = some ⟨0, true, false⟩
      ∧ (setStations [1] (asking Station.fresh).part).desk.asking = some ⟨0, true, true⟩
      ∧ ((asking Station.fresh).part.station 0).state = .ready
      ∧ ((asking { Station.fresh with misses := 11 }).part.station 0).misses + 1 = 12
      ∧ ((asking { Station.fresh with state := .faulted }).part.station 0).state = .faulted
      ∧ (decide (8 ≤ min ((asking { Station.fresh with calls := 7 }).part.station 0 |>.calls |> (· + 1)) 255)) = true := by decide

theorem test_meets_EntryAnswerIsTakenHeldOrRepeated :
    (255 : Nat) ≤ 255 ∧ allDigits (text "123456789") = true ∧ (text "123456789").length ≤ 9 ∧ ¬ (256 : Nat) ≤ 255
      ∧ ((asking { Station.fresh with lastTag := some 5 }).part.station 0).lastTag = some 5
      ∧ ((asking Station.fresh).part.station 0).lastTag ≠ some 5 ∧ (asking Station.fresh).part.hl.activity ≠ .dormant
      ∧ (asking Station.fresh).part.desk.queue.length < 32
      ∧ 32 ≤ (List.replicate 32 (⟨0, 1, .signIn, [], 0, none⟩ : QueueEntry)).length := by decide

theorem test_meets_QueueHeadIsProcessedByCase :
    (opened 0).part.desk.queue = [] ∧ (opened 32000).part.openDay = some openRecord ∧ (closed 0).part.openDay = none
      ∧ (opened 32000).part.work.pupilOffered (text "7") = some (0, pupil) ∧ (opened 32000).part.work.pupilOffered (text "8") = none
      ∧ (opened 32000).part.alertState ≠ some .evacuate ∧ (opened 32000).part.presence 0 = .notArrived
      ∧ (movePresence 0 .onSite (opened 32000).part).presence 0 = .onSite
      ∧ (movePresence 0 .signedOut (opened 32000).part).presence 0 = .signedOut
      ∧ ({ (opened 0).part with ac.alert := some evacuation } : Part).alertState = some .evacuate := by decide

/-- An arrival of slot 0. -/
def arrival (t : Nat) : Arrival := ⟨t, 0, pupil, today, 10, 0⟩

theorem test_meets_ArrivalIsClassedAgainstItsPeriod :
    (arrival 31620).candidate .am = some ⟨.am, 0, 31500⟩ ∧ (arrival 31620).candidate .pm = none
      ∧ (arrival 31620).time ≤ 31500 + (arrival 31620).today.plan.grace
      ∧ 31500 + (arrival 31621).today.plan.grace < (arrival 31621).time
      ∧ ({ arrival 60000 with today := { today with plan := { today.plan with periods :=
            Plan.defaultPeriods ++ [⟨.registration, 780, 15, false, true⟩] } } } : Arrival).candidate .pm = some ⟨.pm, 2, 46800⟩ := by decide

theorem test_meets_HalfPeriodRuleDecidesALesson :
    32400 ≤ 34200 ∧ 34200 < 36000 ∧ 2 * (34200 - 32400) ≤ 36000 - 32400 ∧ 36000 - 32400 < 2 * (34201 - 32400) := by decide

theorem test_meets_ScoreAndLevelFollowTheDay :
    Policy.fresh.t1 < Policy.fresh.t2 ∧ Policy.fresh.t2 < Policy.fresh.t3 ∧ Policy.fresh.level 0 1920 = 2
      ∧ Policy.fresh.level 2 1600 = 2 ∧ Policy.fresh.threshold 2 ≤ 1600 + Policy.fresh.h ∧ Policy.fresh.level 2 1599 = 1 ∧ Policy.fresh.level 1 1000 = 1
      ∧ Table.wf (openPart 0).work.slots = true ∧ (openPart 0).slot? 0 = some pupil ∧ pupil.state = .enrolled
      ∧ (openPart 0).slot? 1 = some leaver ∧ leaver.state ≠ .enrolled := by decide

theorem test_pupil_without_records_decays :
    ((scoreAll (clockAt 0) { openPart 0 with
        work.slots := [(0, { pupil with score := 1000 }), (1, { leaver with score := 1000 })]
        reg.register := (openPart 0).reg.register.map (fun g => { g with slots := [] }) }).work.slots.map
      (fun e => e.2.score)) = [907, 1000] := by decide

theorem test_meets_SweepStartsAndSteps :
    Listening (opened 0) ∧ today.plan.marked = [⟨0, some .am⟩, ⟨1, none⟩] ∧ (closed 0).part.bells.today = none
      ∧ (img.evaluate 9195).plan = some 0 ∧ (opened 0).part.sweeps.get? .pm = none ∧ (opened 0).part.sweeps.get? .am = some waiting
      ∧ (opened 0).part.held = false ∧ (opened 40000).part.held = true ∧ (opened 0).part.enrolled? 0 = some pupil
      ∧ (opened 0).part.enrolled? 1 = none ∧ (opened 0).part.regMark? 0 .am = some amMark
      ∧ (opened 0).part.work.activeExcuse 0 .absenceDay 9195 ≠ none ∧ (opened 0).part.work.activeExcuse 0 .absenceDay 9196 = none
      ∧ (opened 0).part.presence 0 = .notArrived ∧ (3071 : Nat) + 1 = 3072
      ∧ (create (clockAt 0) (absenceRequest (openPart 0) 0 pupil .am) (openPart 0)).2 ≠ .refused := by decide

theorem test_meets_ExcuseRequestsWriteTheList :
    Listening (closed 0) ∧ dateOf ⟨2025, 3, 5⟩ = some 9195 ∧ (closed 0).part.work.enrolledPupil (.slot 0) = some (0, pupil)
      ∧ (closed 0).part.work.enrolledPupil (.slot 1) = none ∧ (closed 0).part.day = none ∧ (img.dayKind 9195).1 = .school
      ∧ (img.dayKind 9196).1 = .noSchool ∧ (opened 0).part.day.filter (fun g => g.date == 9195) = some openRecord
      ∧ img.excuses.any (fun e => e.slot == 0 && e.kind == .absenceDay && e.date == 9195) = true
      ∧ img.excuses.any (fun e => e.slot == 0 && e.kind == .lateAllowance && e.date == 9195) = false ∧ img.excuses.length < 256
      ∧ 256 ≤ (List.replicate 256 (⟨0, .absenceDay, none, 9195, .office, ⟨0, 0⟩, none, false⟩ : Excuse)).length
      ∧ img.slotNamed (.slot 0) = some 0 ∧ img.slotNamed (.number 5) = none ∧ img.holdsExcuse 0 .absenceDay 9195 = true
      ∧ img.holdsExcuse 0 .absenceDay 9196 = false := by decide

theorem test_meets_ParentTextIsReadOrReported :
    readText (clockAt 0) (closed 0).part (text "01234567890") (text "ABSENT ANNA")
        = .ok ⟨.absenceDay, none, 9197, [0], 0⟩
      ∧ readText State.reset.clock (closed 0).part (text "01234567890") (text "ABSENT") = .error .noClock
      ∧ readText (clockAt 0) (closed 0).part (text "999") (text "ABSENT") = .error .noContact
      ∧ readText (clockAt 0) (closed 0).part (text "1234567891") (text "ABSENT") = .error .noPupil
      ∧ readText (clockAt 0) (closed 0).part (text "1234567890") (text "HELLO") = .error .noKeyword
      ∧ readText (clockAt 0) (closed 0).part (text "1234567890") (text "ABSENT ZOE") = .error .noName
      ∧ readText (clockAt 0) (closed 0).part (text "1234567890") (text "ABSENT 31/13") = .error .noDay
      ∧ addedRecords (closed 0).part ⟨.absenceDay, none, 9195, [0], 0⟩ ≤ 256 - (closed 0).part.work.excuses.length
      ∧ 256 - 256 < addedRecords (closed 0).part ⟨.absenceDay, none, 9196, [0], 0⟩ := by
  and_intros <;> first | rfl | decide

/-- The open day with the AM record LATE from a station. -/
def latePart : Part := (writeMark (clockAt 0) ⟨.station, .late, some 5, 0, none⟩ 0 0 (openPart 0)).1

theorem test_meets_same_day_effect :
    (closed 0).part.openDay = none ∧ (openPart 0).openDay = some openRecord ∧ openRecord.date = 9195
      ∧ (openPart 0).presence 0 ≠ .onSite ∧ latePart.presence 0 = .onSite ∧ latePart.slot? 0 = some pupil
      ∧ (excuseLate (clockAt 0) .office 5 0 .am latePart).2 = true ∧ (excuseLate (clockAt 0) .office 4 0 .am latePart).2 = false := by
  decide

theorem test_meets_OutboxTakesRefusesOrDisplaces :
    alreadyHeld (absenceRequest (closed 0).part 0 pupil .am) (posting .waiting none).part = true
      ∧ alreadyHeld (absenceRequest (closed 0).part 0 pupil .pm) (posting .waiting none).part = false
      ∧ (posting .waiting none).part.pmu.candidate .alert = some (letter .waiting)
      ∧ (posting .inFlight none).part.pmu.candidate .alert = none
      ∧ 512 ≤ (List.replicate 512 (letter .waiting)).length
      ∧ sourceFormed (.host []) = false ∧ sourceFormed (.template 31) = true ∧ sendInRange .all (.template 32) = false
      ∧ sendInRange (.years [7, 13]) (.template 7) = true ∧ sendTarget img (.pupil (.slot 1)) = none
      ∧ sourceFound img (.template 8) = false ∧ sourceFound img (.template 7) = true
      ∧ (posting .waiting none).part.entry? 1 = some (letter .waiting) ∧ (posting .waiting none).part.entry? 65535 = none := by decide

/-- A request that a full outbox refuses. -/
def general (t : Target) : EntryRequest := ⟨.general, t, none, .template 0, none, none, none, 0⟩

/-- An outbox of 512 entries. -/
def full : Part := { (closed 0).part with pmu.outbox := List.replicate 512 (letter .inFlight) }

theorem test_meets_withdrawal_and_leaving :
    (create (clockAt 0) (general (.slot 0 [])) full).2 = .refused
      ∧ (create (clockAt 0) (general (.broadcast 0 .all 0 0)) full).2 = .refused
      ∧ (create (clockAt 0) (general (.slot 0 [])) (closed 0).part).2 ≠ .refused
      ∧ (posting .waiting none).part.entryFor? .absence 0 .am = some (letter .waiting)
      ∧ (posting .waiting none).part.entryFor? .late 0 .am = none
      ∧ (∀ y ∈ [(⟨0, .delivered⟩ : Position)], y.state ≠ .waiting ∧ y.state ≠ .inFlight)
      ∧ (posting .delivered none).part.entry? 1 = some (letter .delivered) ∧ (letter .delivered).slot? = some 0
      ∧ (letter .delivered).reg = some .am ∧ OutKind.general ≠ .absence := by decide

/-- The offer of the only contact, made at a crystal count. -/
def offerAt (n : Nat) : Offer := ⟨⟨1, 1⟩, n⟩

theorem test_meets_GatewayLinesSettleHandovers :
    (lineArrives (clockAt 0) (posting .waiting (some (offerAt 0))).part).pmu.offer = some (offerAt 0)
      ∧ (posting .waiting none).part.entry? 1 = some (letter .waiting) ∧ (letter .waiting).waitsAt 1 = true
      ∧ (letter .inFlight).waitsAt 1 = false ∧ 16 < (offerAt 0).sentAt + 80 ∧ (offerAt 0).sentAt + 80 ≤ 80
      ∧ (∃ f ∈ [(⟨⟨1, 1⟩, 0⟩ : Inflight)], f.handle = ⟨1, 1⟩ ∧ f.takenAt + 9600 ≤ 9600)
      ∧ (∀ f ∈ [(⟨⟨1, 1⟩, 1⟩ : Inflight)], f.handle = ⟨1, 1⟩ → 9600 < f.takenAt + 9600)
      ∧ (posting .inFlight none).part.contactOf ⟨1, 1⟩ = some 0 ∧ (posting .inFlight none).part.contactOf ⟨2, 1⟩ = none
      ∧ (∃ o, (posting .waiting (some (offerAt 0))).part.pmu.offer = some o ∧ o.handle = ⟨1, 1⟩) := by decide

theorem test_meets_HandoverSendsTheArbitersPick :
    dispatchReady (clockAt 40000) (posting .waiting none).part = true
      ∧ pickEntry (clockAt 40000) (posting .waiting none).part = some (letter .waiting)
      ∧ pickEntry (clockAt 40000) (posting .delivered none).part = none
      ∧ messageOf img { letter .waiting with source := .host (text "HI") } = some (text "HI")
      ∧ messageOf img { letter .waiting with source := .template 8 } = none
      ∧ firstWaiting [⟨0, .waiting⟩] = some (⟨0, .waiting⟩, 1) ∧ (img.contact 0).unusable = none
      ∧ (img.contact 1).unusable = some .barred ∧ (img.contact 2).unusable = some .empty
      ∧ scanContacts img .all 0 = some 0 ∧ scanContacts img .all 1 = none
      ∧ permittedRanks (clockAt 25199) (closed 0).part = [0] ∧ permittedRanks (clockAt 72000) (closed 0).part = [0]
      ∧ permittedRanks (clockAt 25200) (closed 0).part = [0, 1, 2, 3, 4]
      ∧ (posting .waiting none).part.pmu.offer = none ∧ (posting .waiting none).part.pmu.lastSend = none
      ∧ (posting .waiting none).part.hl.activity ≠ .dormant := by decide

theorem test_meets_PinQualifiesAtTwentySamples :
    State.reset.part.ac.pinCount ≤ 18 ∧ ({ State.reset.part with ac.pinCount := 19 } : Part).ac.pinCount = 19
      ∧ lockdown.kind = .lockdown := by decide

theorem test_meets_AlertRequestsByTheAlertState :
    Listening (closed 0) ∧ (closed 0).part.ac.alert = none ∧ 31 < 32 ∧ img.template 31 = none ∧ img.template 7 ≠ none
      ∧ evacuation.kind ≠ .lockdown ∧ evacuation.roll.isSome ∧ lockdown.roll = none
      ∧ (∃ e ∈ evacuation.roll.getD [], e.isFor (.number 7) = true) ∧ (∀ e ∈ evacuation.roll.getD [], e.isFor (.slot 1) = false)
      ∧ (create (clockAt 0) (alertRequest (closed 0).part .default) (closed 0).part).2 = .taken 1 := by decide

theorem test_meets_all_clear :
    (clockAt 0).second? = some 0 ∧ State.reset.clock.second? = none ∧ (closed 0).part.work.gateway.settle ≠ 0
      ∧ ({ (closed 0).part with work.gateway.settle := 0 } : Part).work.gateway.settle = 0
      ∧ ({ (closed 0).part with ac.alert := some lockdown } : Part).ac.alert ≠ none
      ∧ (openPart 40000).reg.register.map (·.state) = some .recovery ∧ (openPart 0).reg.register.map (·.state) = some .normal
      ∧ img.presentMembers ≠ [] := by decide

theorem test_meets_BrokenLinesAndBusyAnswers :
    cutSuffix (text "RING 0 ~1 5") = none ∧ cutSuffix (text "VERSION ~0000") = some (text "VERSION", 0) ∧ (126 : Chr) ∉ text "A"
      ∧ (∀ ch ∈ text "RING 0 ", ch ≠ 34) ∧ readLine [10] = .rejected ∧ readLine (text "VERSION ") = .syntaxError false ∧ readLine (text "VERSION ~0000") = .checkError
      ∧ readLine (text "FOO") = .unknown false ∧ readLine [] = .empty ∧ dropReturn (text "A") ≠ []
      ∧ 240 < (dropReturn (List.replicate 241 65)).length ∧ passesLine (text "A") = true ∧ passesLine [10] = false
      ∧ replying.part.hl.busy = none ∧ ({ replying.part with hl.busy := some true } : Part).hl.busy = some true := by decide

theorem test_meets_NoticesWakeSettingsAndRestart :
    State.reset.part.hl.notices.length < 32 ∧ 32 ≤ (List.replicate 32 (⟨.staleWithdrawn 1, none⟩ : Notice)).length
      ∧ State.reset.part.hl.notices = ⟨.start false 0, none⟩ :: [] ∧ none ∈ [some WakeEnable.call, none]
      ∧ ¬ [some WakeEnable.call, some .call].Nodup ∧ none ∉ [some WakeEnable.call] ∧ minuteOf ⟨23, 60⟩ = none := by decide

theorem test_meets_DormantIsAskedAndEntered :
    Listening (closed 0) ∧ (closed 0).part.ac.alert = none ∧ (closed 0).part.openDay = none ∧ (opened 0).part.openDay ≠ none
      ∧ Flags.clear.get .host = false ∧ (Flags.clear.set .call).get .call = true ∧ State.reset.part.hl.enables.wakes .call = true
      ∧ (⟨true, false, true⟩ : Enables).wakes .call = false ∧ State.reset.part.hl.activity = .quiet
      ∧ State.reset.part.hl.service = none ∧ 0 + 960 ≤ 960 ∧ 959 < 0 + 960 := by decide

theorem test_meets_ColdStartClearsWarmRestartKeeps :
    ({ (opened 0).part with hl.restartAsked := true } : Part).hl.restartAsked = true ∧ (opened 0).part.hl.reply = none
      ∧ (opened 0).part.hl.busy = none ∧ (load [] false img).defaulted = 0
      ∧ (load [] false img).work.slots = [(0, pupil)] := by decide

theorem test_meets_warm_restart_over_the_day :
    (closed 0).part.openDay = none ∧ (openPart 0).openDay = some openRecord ∧ (openPart 0).bells.today = some today
      ∧ (openPart 0).reg.register.map (·.periods) = some (copyAfresh img openRecord today).plan.marked
      ∧ some [⟨0, some .am⟩] ≠ some (copyAfresh img openRecord today).plan.marked
      ∧ ((openPart 0).pmu.outbox.map (·.id)).Nodup ∧ (openPart 0).reg.register.map (·.changes) = some 0
      ∧ (openPart 0).work.slots[0]? = some (0, pupil) ∧ today.reg? .pm = none ∧ today.reg? .am = some 0
      ∧ today.cutoff 0 = some 32700 ∧ cutShort.cutoff 0 = none ∧ (openPart 32700).now (clockAt 32700) = 32700
      ∧ (openPart 40000).reg.register.map (·.state) = some .recovery := by decide

theorem test_meets_ClockStaysSound : Clock.Sound State.reset.clock :=
  ⟨fun _ h => by simp [State.reset, Clock.reset] at h, fun _ h => by simp [State.reset, Clock.reset] at h,
   fun _ h => by simp [State.reset, Clock.reset] at h, by decide, fun _ => rfl⟩

theorem test_meets_AlertKeepsZonesSilent :
    ({ silenceZones (closed 0).part with ac.alert := some lockdown } : Part).ac.alert.isSome
      ∧ (∀ z ∈ [0, 1, 2, 3, 4, 5], (silenceZones (closed 0).part).zoneState z ≠ some (.up .armed)
          ∧ (silenceZones (closed 0).part).zoneState z ≠ some (.faulted .armed)) := by decide

theorem test_meets_ListsStayWithinTheirPlaces :
    NoticesBounded (closed 0).part ∧ InflightBounded (posting .waiting (some (offerAt 0))).part ∧ OutboxBounded (closed 0).part
      ∧ ExcusesBounded (closed 0).part ∧ ExceptionsBounded (closed 0).part ∧ RingBounded State.reset.part := by
  refine ⟨by unfold NoticesBounded; decide, by unfold InflightBounded; decide, by unfold OutboxBounded; decide,
    by unfold ExcusesBounded; decide, by unfold ExceptionsBounded; decide, ?_⟩
  have plans : Image.fresh.PlansBounded := by
    intro n
    unfold Image.plan Vector.getD Array.getD
    split <;> simp [Image.fresh, Plan.fresh, Plan.defaultPeriods]
  exact ⟨by decide, fun t (h : none = some t) => (nomatch h), fun t (h : none = some t) => (nomatch h), plans, plans⟩

theorem test_meets_TablesStayCanonical :
    Table.wf (opened 0).part.work.slots = true ∧ Table.wf (opened 0).part.work.contacts = true
      ∧ ((opened 0).part.reg.register.map (fun g => Table.wf g.slots)) = some true
      ∧ Table.wf (opened 0).part.desk.firstArrivals = true := by decide

end Sys2Proof.Tests
end

section
/-!
The clock as a request shows it (R1, R6): the word of the clock state, the reply of TIME GET, and the request itself.
-/

namespace Sys2Proof.Machine

/-- TIME GET runs as the query that replies with the clock. -/
theorem exec_timeGet (sfx : Bool) (s : State) : exec (.timeGet sfx) s = query sfx (fun c _ => timeReply c) s := rfl

/-- A clock with a reading is RUNNING without a remaining slew and SLEWING with one (R1). -/
theorem clockWord_state_of_reading {c : Clock} {x : Reading} (h : c.reading = some x) :
    clockWord c.state = if c.slew = 0 then "RUNNING" else "SLEWING" := by
  simp only [Clock.state, h]
  split <;> rfl

/-- An UNSET clock shows its state alone (R6). -/
theorem timeReply_of_unset {c : Clock} (h : c.reading = none) : timeReply c = ok [.word "UNSET"] := by
  simp only [timeReply, h]

/-- A clock with a reading shows its state, the reading and the remaining slew (R6). -/
theorem timeReply_of_reading {c : Clock} {x : Reading} (h : c.reading = some x) :
    timeReply c = ok [.word (if c.slew = 0 then "RUNNING" else "SLEWING"), .date x.date, .hms x.second, .num x.fraction,
      .num c.slew] := by
  rw [← clockWord_state_of_reading h]
  simp only [timeReply, h, nat]

/-- TIME GET in a listening part is answered with the clock, and the part is left as the request found it (R6). -/
theorem timeGet_listening {s : State} {sfx : Bool} (h : Listening s) :
    exec (.timeGet sfx) s = .next (replied s (heard s []) sfx (timeReply s.clock)) := by
  rw [exec_timeGet, query_listening h]

end Sys2Proof.Machine

open Sys2Proof.Machine

/-- Settles O12: the answer of a listening part to the query, by whether the clock has a reading. -/
theorem timeGetShowsTheClock : Obligations.TimeGetShowsTheClock := by
  intro s sfx listening
  rw [timeGet_listening listening]
  constructor
  · intro unset
    rw [timeReply_of_unset unset]
  · intro x reading
    rw [timeReply_of_reading reading]

end

section
/-!
The effective times of a period in a zone: the times of R26 first, then the table of an early close on them (R27).
-/

namespace Sys2Proof.Machine

/-- S of a period in seconds, from the plan's start, the offset of the zone and today's delay (R25, R26). -/
theorem Today.rawStart_eq (t : Today) (q : Period) (z : Nat) :
    t.rawStart q z = ((q.start : Int) * 60 + ((t.zone? z).map (·.offset)).getD 0 + (t.delayTotal : Int) * 60).toNat := by
  simp only [Today.rawStart, startSecond, Today.offset, Today.shift, Nat.cast_mul, Nat.cast_ofNat]

/-- A period that ends within the day has times under R26. -/
theorem Today.baseTimes_of_end_le {t : Today} {q : Period} {z : Nat} (h : t.rawStart q z + q.length * 60 ≤ 86399) :
    t.baseTimes q z = some (t.rawStart q z, t.rawStart q z + q.length * 60) :=
  if_pos h

/-- A period that ends past midnight is cancelled (R26). -/
theorem Today.baseTimes_of_lt_end {t : Today} {q : Period} {z : Nat} (h : 86399 < t.rawStart q z + q.length * 60) :
    t.baseTimes q z = none :=
  if_neg (Nat.not_le.mpr h)

/-- The first row of R27: a period over by the early close keeps its times. -/
theorem closedAt_of_end_le {x s e : Nat} (h : e ≤ x * 60) : closedAt x (s, e) = some (s, e) :=
  if_pos h

/-- The second row of R27: a period in progress at the early close ends there. -/
theorem closedAt_of_in_progress {x s e : Nat} (hs : s < x * 60) (he : x * 60 < e) :
    closedAt x (s, e) = some (s, x * 60) := by
  simp only [closedAt, if_neg (Nat.not_le.mpr he), if_pos hs]

/-- The third row of R27: a period that the early close finds not begun, or just beginning, is cancelled. -/
theorem closedAt_of_not_begun {x s e : Nat} (hs : x * 60 ≤ s) (he : x * 60 < e) : closedAt x (s, e) = none := by
  simp only [closedAt, if_neg (Nat.not_le.mpr he), if_neg (Nat.not_lt.mpr hs)]

/-- A period that R26 cancels stays cancelled, whatever the early close. -/
theorem Today.periodTimes_of_cancelled {t : Today} {q : Period} {z : Nat} (h : t.baseTimes q z = none) :
    t.periodTimes q z = none := by
  simp only [Today.periodTimes, h]

/-- Without an early close the effective times are those of R26. -/
theorem Today.periodTimes_of_no_early {t : Today} {q : Period} {z : Nat} {se : Nat × Nat}
    (h : t.baseTimes q z = some se) (early : t.early = none) : t.periodTimes q z = some se := by
  simp only [Today.periodTimes, h, early]

/-- With an early close the effective times are what the table of R27 makes of those of R26. -/
theorem Today.periodTimes_of_early {t : Today} {q : Period} {z x : Nat} {se : Nat × Nat}
    (h : t.baseTimes q z = some se) (early : t.early = some x) : t.periodTimes q z = closedAt x se := by
  simp only [Today.periodTimes, h, early]

end Sys2Proof.Machine

open Sys2Proof.Machine

/-- Settles O25: by whether the period ends within the day, then by today's early close and the row of R27. -/
theorem effectiveTimesOfAPeriod : Obligations.EffectiveTimesOfAPeriod := by
  intro t q z
  rw [← t.rawStart_eq q z]
  intro s e
  refine ⟨fun past => ?_, fun within noEarly => ?_, fun x within early => ?_⟩
  · exact Today.periodTimes_of_cancelled (Today.baseTimes_of_lt_end past)
  · exact Today.periodTimes_of_no_early (Today.baseTimes_of_end_le within) noEarly
  · rw [Today.periodTimes_of_early (Today.baseTimes_of_end_le within) early]
    exact ⟨closedAt_of_end_le, closedAt_of_in_progress, closedAt_of_not_begun⟩

end

section
/-!
The precedence of the six writers (R76): the row of each, then what a write and a MARK SET do with a record that its row gives.
-/

namespace Sys2Proof.Machine

/-! ## The rows of the table -/

/-- SWEEP writes over UNSET alone. -/
theorem Write.allowed_of_sweep {w : Write} (m : Mark) (h : w.writer = .sweep) :
    w.allowed m = true ↔ m.value = .unset := by
  simp only [Write.allowed, h, beq_iff_eq]

/-- STATION writes over UNSET, over what SWEEP, PARENT or a station wrote, and over a teacher's ABSENT. -/
theorem Write.allowed_of_station {w : Write} (m : Mark) (h : w.writer = .station) :
    w.allowed m = true ↔ m.value = .unset ∨ m.source = some .sweep ∨ m.source = some .parent
      ∨ m.source = some .station ∨ (m.value = .absent ∧ m.source = some .teacher) := by
  simp only [Write.allowed, h, Bool.or_eq_true, Bool.and_eq_true, beq_iff_eq, or_assoc]

/-- TEACHER writes over everything but OFFICE and SYSTEM. -/
theorem Write.allowed_of_teacher {w : Write} (m : Mark) (h : w.writer = .teacher) :
    w.allowed m = true ↔ m.source ≠ some .office ∧ m.source ≠ some .system := by
  simp only [Write.allowed, h, Bool.and_eq_true, bne_iff_ne]

/-- PARENT excuses the sweep's ABSENT and a station's LATE, each by its own value. -/
theorem Write.allowed_of_parent {w : Write} (m : Mark) (h : w.writer = .parent) :
    w.allowed m = true ↔ (m.value = .absent ∧ m.source = some .sweep ∧ w.value = .absentExcused)
      ∨ (m.value = .late ∧ m.source = some .station ∧ w.value = .lateExcused) := by
  simp only [Write.allowed, h, Bool.or_eq_true, Bool.and_eq_true, beq_iff_eq, and_assoc]

/-- OFFICE writes over everything. -/
theorem Write.allowed_of_office {w : Write} (m : Mark) (h : w.writer = .office) : w.allowed m = true := by
  simp only [Write.allowed, h]

/-- SYSTEM writes over everything but OFFICE. -/
theorem Write.allowed_of_system {w : Write} (m : Mark) (h : w.writer = .system) :
    w.allowed m = true ↔ m.source ≠ some .office := by
  simp only [Write.allowed, h, bne_iff_ne]

/-! ## Writes by the table -/

/-- A record stands in a slot's records in the register. -/
theorem mark?_eq_some_iff {p : Part} {n k : Nat} {m : Mark} :
    p.mark? n k = some m ↔ ∃ g d, p.register? = some g ∧ g.slot? n = some d ∧ d.mark? k = some m := by
  simp only [Part.mark?, Option.bind_eq_some_iff, exists_and_left]

/-- A write that precedence does not allow changes nothing. -/
theorem writeMark_of_not_allowed {p : Part} {n k : Nat} {m : Mark} {w : Write} (c : Clock) (hm : p.mark? n k = some m)
    (ha : w.allowed m = false) : writeMark c w n k p = (p, false) := by
  obtain ⟨g, d, hg, hd, hk⟩ := mark?_eq_some_iff.mp hm
  simp only [writeMark, hg, hd, hk, ha, Bool.false_eq_true, if_false]

/-- A write that precedence allows changes the register and what follows on the outbox. -/
theorem writeMark_of_allowed {p : Part} {n k : Nat} {g : Register} {d : SlotDay} {m : Mark} {w : Write} (c : Clock)
    (hg : p.register? = some g) (hd : g.slot? n = some d) (hk : d.mark? k = some m) (ha : w.allowed m = true) :
    writeMark c w n k p = (writeFollows c w.value n m (p.onRegister (Register.apply c w n d m)), true) := by
  simp only [writeMark, hg, hd, hk, ha, if_true]

/-- A host write that precedence does not allow changes nothing, whether or not R82 refuses it too. -/
theorem hostWrite_of_not_allowed {p : Part} {n k : Nat} {m : Mark} {w : Write} (c : Clock) (hm : p.mark? n k = some m)
    (ha : w.allowed m = false) : hostWrite c w n k p = (p, false) := by
  rw [hostWrite, writeMark_of_not_allowed c hm ha, ite_self]

/-- A MARK SET that passes the steps before its write, and that precedence does not allow, is refused with ERR STATE. -/
theorem markSet_of_not_allowed {p : Part} {r : PupilRef} {h : HostMark} {n : Nat} {x : Slot} {k : ReadyMark} {m : Mark}
    (c : Clock) (hr : readMark h (pupilInRange r) p = .ok k) (hp : p.work.pupil r = some (n, x))
    (hm : p.mark? n k.period = some m) (ha : k.write.allowed m = false) : markSet c r h p = refuse .state p := by
  simp only [markSet, hr, hp, hostWrite_of_not_allowed c hm ha]
  rfl

/-- MARK SET runs as the request that `markSet` decides. -/
theorem exec_markSet (sfx : Bool) (r : PupilRef) (h : HostMark) (s : State) :
    exec (.markSet sfx r h.period h.value h.minutes h.reason h.source) s = request sfx [] (fun c p => markSet c r h p) s := rfl

end Sys2Proof.Machine

open Sys2Proof.Machine

/-- Settles O33: the six rows of the table, then a write of either outcome, and a MARK SET whose write is not allowed. -/
theorem precedenceOfTheSixWriters : Obligations.PrecedenceOfTheSixWriters := by
  refine ⟨fun _ m => Write.allowed_of_sweep m, fun _ m => Write.allowed_of_station m, fun _ m => Write.allowed_of_teacher m,
    fun _ m => Write.allowed_of_parent m, fun _ m => Write.allowed_of_office m, fun _ m => Write.allowed_of_system m,
    fun c w n k p m => writeMark_of_not_allowed c, ?_, ?_⟩
  · intro c w n k p m hm ha
    obtain ⟨g, d, hg, hd, hk⟩ := mark?_eq_some_iff.mp hm
    rw [writeMark_of_allowed c hg hd hk ha]
  · intro s sfx r h n x k m listening inRange pupil ready record notAllowed
    have read : readMark h (pupilInRange r) (heard s []) = .ok k := by rw [inRange]; exact ready
    rw [exec_markSet, request_listening listening,
      markSet_of_not_allowed (p := heard s []) s.clock read pupil record notAllowed]
    rfl

end

section
/-!
REGISTER RESUME (R93): what the end of a hold (R137) and the start of due sweeps (R135) leave of each sweep record and of the
rest of the part, and the request itself.
-/

namespace Sys2Proof.Machine

/-- A record after every record has been changed. -/
@[simp] theorem Sweeps.get?_map (f : Reg → Sweep → Sweep) (s : Sweeps) (x : Reg) :
    (s.map f).get? x = (s.get? x).map (f x) := by
  cases x <;> rfl

/-- A change of every record leaves the resume time. -/
@[simp] theorem Sweeps.map_resume (f : Reg → Sweep → Sweep) (s : Sweeps) : (s.map f).resume = s.resume := rfl

/-! ## The end of a hold -/

/-- While a hold stands, nothing is released. -/
theorem releaseSweeps_of_held {p : Part} (h : p.held = true) : releaseSweeps p = p := if_pos h

/-- Without a hold every record is released. -/
theorem releaseSweeps_of_free {p : Part} (h : p.held = false) :
    releaseSweeps p = { p with sweeps := p.sweeps.map (fun _ y => y.release) } :=
  if_neg (by rw [h]; exact Bool.false_ne_true)

/-- A released SUSPENDED record runs. -/
theorem Sweep.release_of_suspended {y : Sweep} (h : y.state = .suspended) : y.release = { y with state := .running } := if_pos h

/-- The end of a hold leaves a record in any other state as it is. -/
theorem Sweep.release_of_ne {y : Sweep} (h : y.state ≠ .suspended) : y.release = y := if_neg h

/-- The end of a hold touches the sweep records alone, and no resume time. -/
theorem releaseSweeps_touches (p : Part) :
    ∃ w, releaseSweeps p = { p with sweeps := w } ∧ w.resume = p.sweeps.resume := by
  unfold releaseSweeps
  split
  · exact ⟨p.sweeps, rfl, rfl⟩
  · exact ⟨_, rfl, Sweeps.map_resume _ _⟩

/-! ## The start of due sweeps -/

/-- The start of due sweeps touches the sweep records alone, and no resume time. -/
theorem startDue_touches (c : Clock) (p : Part) :
    ∃ w, startDue c p = { p with sweeps := w } ∧ w.resume = p.sweeps.resume := by
  unfold startDue
  split
  · exact ⟨p.sweeps, rfl, rfl⟩
  · exact ⟨_, rfl, Sweeps.map_resume _ _⟩

/-- A record that is not WAITING does not start again. -/
theorem startDue_get?_of_ne {p : Part} {x : Reg} {y : Sweep} (c : Clock) (hy : p.sweeps.get? x = some y)
    (h : y.state ≠ .waiting) : (startDue c p).sweeps.get? x = some y := by
  unfold startDue
  split
  · exact hy
  · rw [Sweeps.get?_map, hy, Option.map_some, if_neg (fun due => h due.1)]

/-- A WAITING record whose cutoff the clock has reached starts, SUSPENDED while a hold stands. -/
theorem startDue_get?_of_due {p : Part} {r : DayRecord} {x : Reg} {y : Sweep} (c : Clock) (hy : p.sweeps.get? x = some y)
    (h : y.state = .waiting) (hr : p.openDay = some r) (due : (y.cutoff.map (atOrPast c r)).getD false = true) :
    (startDue c p).sweeps.get? x = some (y.start c p.held) := by
  simp only [startDue, hr, Sweeps.get?_map, hy, Option.map_some]
  rw [if_pos ⟨h, due⟩]

/-! ## The two together -/

/-- While some hold still stands, SUSPENDED records stay so, and due ones start SUSPENDED (R135, R137). -/
theorem startDue_release_of_held {p : Part} {x : Reg} {y : Sweep} (c : Clock) (held : p.held = true)
    (hy : p.sweeps.get? x = some y) :
    (y.state = .suspended → (startDue c (releaseSweeps p)).sweeps.get? x = some y) ∧
    (∀ r, y.state = .waiting → p.openDay = some r → (y.cutoff.map (atOrPast c r)).getD false = true →
      (startDue c (releaseSweeps p)).sweeps.get? x
        = some { y with state := .suspended, cursor := 0, startedAt := c.second? }) := by
  rw [releaseSweeps_of_held held]
  constructor
  · intro suspended
    exact startDue_get?_of_ne c hy (by rw [suspended]; decide)
  · intro r waiting opened due
    rw [startDue_get?_of_due c hy waiting opened due, held]
    rfl

/-- Once no hold stands, SUSPENDED records run on, and due ones start RUNNING (R135, R137). -/
theorem startDue_release_of_free {p : Part} {x : Reg} {y : Sweep} (c : Clock) (free : p.held = false)
    (hy : p.sweeps.get? x = some y) :
    (y.state = .suspended → (startDue c (releaseSweeps p)).sweeps.get? x = some { y with state := .running }) ∧
    (∀ r, y.state = .waiting → p.openDay = some r → (y.cutoff.map (atOrPast c r)).getD false = true →
      (startDue c (releaseSweeps p)).sweeps.get? x
        = some { y with state := .running, cursor := 0, startedAt := c.second? }) := by
  have released : (releaseSweeps p).sweeps.get? x = some y.release := by
    rw [releaseSweeps_of_free free, Sweeps.get?_map, hy, Option.map_some]
  constructor
  · intro suspended
    rw [Sweep.release_of_suspended suspended] at released
    exact startDue_get?_of_ne c released nofun
  · intro r waiting opened due
    rw [Sweep.release_of_ne (by rw [waiting]; decide)] at released
    have stillFree : (releaseSweeps p).held = false := by rw [releaseSweeps_of_free free]; exact free
    have stillOpen : (releaseSweeps p).openDay = some r := by rw [releaseSweeps_of_free free]; exact opened
    rw [startDue_get?_of_due c released waiting stillOpen due, stillFree]
    rfl

/-! ## REGISTER RESUME -/

/-- The part with its register in NORMAL. -/
def Part.toNormal (p : Part) : Part := p.onRegister (fun g => { g with state := .normal })

/-- A register in NORMAL brings no recovery hold, so the alert hold alone may stand (R137). -/
theorem Part.toNormal_held (p : Part) : p.toNormal.held = p.alertHold := by
  have noRecovery : p.toNormal.recoveryHold = false := by
    simp only [Part.recoveryHold, Part.register?, Part.toNormal, onRegister_register]
    cases p.reg.register <;> rfl
  rw [Part.held, noRecovery, Bool.false_or]
  rfl

/-- The alert hold stands during an alert and while a resume time is set (R137). -/
theorem Part.alertHold_iff (p : Part) : p.alertHold = true ↔ p.ac.alert ≠ none ∨ p.sweeps.resume ≠ none := by
  simp only [Part.alertHold, Part.noAlert, Bool.or_eq_true, Bool.not_eq_true', Option.isNone_eq_false_iff,
    Option.isSome_iff_ne_none]

/-- The alert hold does not stand without an alert and a resume time (R137). -/
theorem Part.alertHold_of_none {p : Part} (alert : p.ac.alert = none) (resume : p.sweeps.resume = none) :
    p.alertHold = false := by
  simp only [Part.alertHold, Part.noAlert, alert, resume]
  rfl

/-- REGISTER RESUME without a register is refused. -/
theorem registerResumeRequest_of_none {p : Part} (c : Clock) (h : p.register? = none) :
    registerResumeRequest c p = refuse .state p := by
  simp only [registerResumeRequest, h]

/-- REGISTER RESUME in NORMAL is refused. -/
theorem registerResumeRequest_of_normal {p : Part} {g : Register} (c : Clock) (h : p.register? = some g)
    (state : g.state = .normal) : registerResumeRequest c p = refuse .state p := by
  simp only [registerResumeRequest, h, state]

/-- REGISTER RESUME in RECOVERY moves the register to NORMAL, and the sweeps go on from there. -/
theorem registerResumeRequest_of_recovery {p : Part} {g : Register} (c : Clock) (h : p.register? = some g)
    (state : g.state = .recovery) : registerResumeRequest c p = (startDue c (releaseSweeps p.toNormal), ok []) := by
  simp only [registerResumeRequest, h, state, Part.toNormal]

/-- The part after a REGISTER RESUME in RECOVERY: the register in NORMAL and the sweep records changed, the resume time among
what stays. -/
theorem startDue_release_toNormal_touches {p : Part} {g : Register} (c : Clock) (h : p.register? = some g) :
    ∃ w, startDue c (releaseSweeps p.toNormal) = { p with reg.register := some { g with state := .normal }, sweeps := w } ∧
      w.resume = p.sweeps.resume := by
  have normal : p.toNormal = { p with reg.register := some { g with state := .normal } } := by
    simp only [Part.toNormal, Part.onRegister, show p.reg.register = some g from h, Option.map_some]
  obtain ⟨v, released, vResume⟩ := releaseSweeps_touches p.toNormal
  obtain ⟨w, started, wResume⟩ := startDue_touches c (releaseSweeps p.toNormal)
  refine ⟨w, ?_, ?_⟩
  · rw [started, released, normal]
  · rw [wResume, released]
    exact vResume

/-- REGISTER RESUME runs as the request that `registerResumeRequest` decides. -/
theorem exec_registerResume (sfx : Bool) (s : State) :
    exec (.registerResume sfx) s = request sfx [] registerResumeRequest s := rfl

end Sys2Proof.Machine

open Sys2Proof.Machine

/-- Settles O37: by the register and its state; in RECOVERY each sweep record by whether the alert hold stands. -/
theorem registerResumeEndsRecovery : Obligations.RegisterResumeEndsRecovery := by
  intro s sfx listening
  rw [exec_registerResume, request_listening listening]
  refine ⟨fun noRegister => ?_, fun g register => ⟨fun normal => ?_, fun recovery => ?_⟩⟩
  · rw [registerResumeRequest_of_none (p := heard s []) s.clock noRegister]
    rfl
  · rw [registerResumeRequest_of_normal (p := heard s []) s.clock register normal]
    rfl
  · rw [registerResumeRequest_of_recovery (p := heard s []) s.clock register recovery]
    obtain ⟨w, touched, resume⟩ := startDue_release_toNormal_touches (p := heard s []) s.clock register
    have sweeps : w = (startDue s.clock (releaseSweeps (heard s []).toNormal)).sweeps := by rw [touched]
    refine ⟨w, by rw [touched], resume, fun noAlert noResume x y hy => ?_, fun hold x y hy => ?_⟩
    · have free : (heard s []).toNormal.held = false :=
        (Part.toNormal_held _).trans (Part.alertHold_of_none noAlert noResume)
      rw [sweeps]
      exact startDue_release_of_free s.clock free hy
    · have held : (heard s []).toNormal.held = true :=
        (Part.toNormal_held _).trans ((Part.alertHold_iff _).mpr hold)
      rw [sweeps]
      exact startDue_release_of_held s.clock held hy

end

section
/-!
The half-period rule (R125): its two branches, the clamp of the minutes, and the arrivals and returns that apply it.
-/

namespace Sys2Proof.Machine

/-- Past the middle of the lesson the pupil is ABSENT, with no minutes. -/
theorem halfPeriod_of_past_middle {s e t : Nat} (excused : Bool) (h : e - s < 2 * (t - s)) :
    halfPeriod s e t excused = (if excused then .absentExcused else .absent, none) :=
  if_pos h

/-- Up to the middle of the lesson, the middle included, the pupil is LATE with the minutes clamped. -/
theorem halfPeriod_of_upto_middle {s e t : Nat} (excused : Bool) (h : 2 * (t - s) ≤ e - s) :
    halfPeriod s e t excused
      = (if excused then .lateExcused else .late, some (max 1 (min ((t - s + 59) / 60) 240))) :=
  if_neg (Nat.not_lt.mpr h)

/-- A pupil who comes as the lesson starts is LATE with 1 minute: the clamp raises the 0 of the quotient. -/
theorem halfPeriod_at_start (s e : Nat) : halfPeriod s e s false = (.late, some 1) := by
  have upto : 2 * (s - s) ≤ e - s := by omega
  rw [halfPeriod_of_upto_middle false upto, Nat.sub_self]
  rfl

/-- The first half of a lesson of at most 240 minutes is at most 120 minutes, so its late minutes are no more. -/
theorem clampedMinutes_le_of_upto_middle {m p : Nat} (short : p ≤ 14400) (upto : 2 * m ≤ p) :
    max 1 (min ((m + 59) / 60) 240) ≤ 120 := by
  have minutes : (m + 59) / 60 ≤ 120 := by omega
  exact max_le (by decide) ((min_le_left _ _).trans minutes)

/-- An arrival decides a lesson in progress by the half-period rule. -/
theorem lessonValue_of_in_progress {s e t : Nat} (excused : Bool) (begun : s ≤ t) (unfinished : t < e) :
    lessonValue s e t excused = some (halfPeriod s e t excused) := by
  simp only [lessonValue, if_neg (Nat.not_le.mpr unfinished), if_pos begun]

/-- A return decides an UNSET lesson in progress by the half-period rule, not excused. -/
theorem returnValue_of_unset_in_progress {s e t : Nat} {k : Mark} (p : Part) (begun : s ≤ t) (unfinished : t < e)
    (lesson : k.period.reg = none) (unset : k.value = .unset) :
    returnValue p k s e t = some (halfPeriod s e t false) := by
  have inProgress : t < e ∧ k.period.reg.isNone := ⟨unfinished, by rw [lesson]; rfl⟩
  have notOffsite : ¬ (k.value = .offsite ∧ k.source = some .station) := by
    rw [unset]
    exact fun ⟨offsite, _⟩ => nomatch offsite
  simp only [returnValue, if_neg (Nat.not_lt.mpr begun), if_pos inProgress, if_neg notOffsite, if_pos unset]

end Sys2Proof.Machine

open Sys2Proof.Machine

/-- Settles O42: by the half of the lesson that the time lies in; an arrival and a return both apply the rule. -/
theorem halfPeriodRuleDecidesALesson : Obligations.HalfPeriodRuleDecidesALesson := by
  intro s e t excused begun unfinished m p
  refine ⟨lessonValue_of_in_progress excused begun unfinished, halfPeriod_of_past_middle excused,
    halfPeriod_of_upto_middle excused, fun middle => ?_, fun atStart => ?_, clampedMinutes_le_of_upto_middle,
    fun q _ => returnValue_of_unset_in_progress q begun unfinished⟩
  · rw [halfPeriod_of_upto_middle false middle.le]
    rfl
  · rw [atStart]
    exact halfPeriod_at_start s e

end

section
/-!
The clock under a step (R1 to R5): which commands move it, and that the three that do keep it within the ranges of R1.
-/

namespace Sys2Proof.Machine

/-! ## A step -/

/-- A step idles, or runs a command on the state without the front of its queue. -/
theorem step_cases {s t : State} (e : step s = .next t) :
    t = s ∨ ∃ i rest, exec i { s with pending := rest } = .next t := by
  unfold step at e
  split at e
  case h_1 => exact .inl (Host.Outcome.next.inj e).symm
  case h_2 i rest _ => exact .inr ⟨i, rest, e⟩

/-! ## Every command answers a next state -/

/-- A command other than CLOCK_TICK, TIME_SET and COLD_START is an event or a request: it answers a next state in which the
part alone has moved. -/
theorem exec_part_only {i : Instr} (h : movesClock i = false) (s : State) :
    ∃ q, exec i s = .next { s with part := q } := by
  cases i with
  | coldStart | clockTick | timeSet => exact nomatch h
  | _ => exact ⟨_, rfl⟩

/-- The commands that move the clock are three. -/
theorem movesClock_cases {i : Instr} (h : movesClock i = true) :
    (∃ bad, i = .coldStart bad) ∨ (∃ ws, i = .clockTick ws) ∨ ∃ sfx d t force ws, i = .timeSet sfx d t force ws := by
  cases i with
  | coldStart bad => exact .inl ⟨bad, rfl⟩
  | clockTick ws => exact .inr (.inl ⟨ws, rfl⟩)
  | timeSet sfx d t force ws => exact .inr (.inr ⟨sfx, d, t, force, ws, rfl⟩)
  | _ => exact nomatch h

/-- CLOCK_TICK and COLD_START answer a next state with the queue as it was. -/
theorem exec_clockTick_next (ws : List Bool) (s : State) : ∃ c q, exec (.clockTick ws) s = .next ⟨c, q, s.pending⟩ :=
  ⟨_, _, rfl⟩

theorem exec_coldStart_next (bad : List StoreItem) (s : State) : ∃ q, exec (.coldStart bad) s = .next ⟨Clock.reset, q, s.pending⟩ :=
  ⟨_, rfl⟩

/-- TIME_SET during a reply leaves the clock; otherwise the clock is the one that `setTime` decides. -/
theorem exec_timeSet_next (sfx : Bool) (d : DateField) (t : TimeField) (force : Bool) (ws : List Bool) (s : State) :
    ∃ c q, exec (.timeSet sfx d t force ws) s = .next ⟨c, q, s.pending⟩ ∧
      (c = s.clock ∨ ∃ p, c = (setTime s.clock d t force p).1) := by
  show ∃ c q, execTimeSet sfx d t force ws s = _ ∧ _
  unfold execTimeSet
  dsimp only
  split
  · exact ⟨_, _, rfl, .inl rfl⟩
  · exact ⟨_, _, rfl, .inr ⟨_, rfl⟩⟩

/-! ## The ranges of R1 -/

/-- A clock set to a date and second in range is sound. -/
theorem Clock.sound_at (c : Clock) {d : Date} {s : Nat} (date : d < Config.dateCount) (second : s < Config.daySeconds) :
    (c.at d s).Sound where
  date := by rintro _ ⟨⟩; exact date
  second := by rintro _ ⟨⟩; exact second
  fraction := by rintro _ ⟨⟩; show 0 < 16; decide
  slew := by show (0 : Int).natAbs ≤ 1920; decide
  unset := fun _ => rfl

/-- The clock after a cold start is sound. -/
theorem Clock.sound_reset : Clock.reset.Sound where
  date := nofun
  second := nofun
  fraction := nofun
  slew := by decide
  unset := fun _ => rfl

/-- A time as written lies within the day (R3). -/
theorem secondOf_lt {t : TimeField} {s : Nat} (h : secondOf t = some s) : s < Config.daySeconds := by
  show s < 86400
  simp only [secondOf] at h
  split at h
  · rename_i inRange
    obtain ⟨hour, minute, second⟩ := inRange
    cases h
    omega
  · cases h

/-- An advance keeps date, second and fraction in range, for at most two sixteenths at a time (R2). -/
theorem Reading.advance_sound {x : Reading} {n : Nat} (date : x.date < Config.dateCount) (second : x.second < Config.daySeconds)
    (fraction : x.fraction < Config.sixteenths) (few : n ≤ 2) :
    (x.advance n).1.date < Config.dateCount ∧ (x.advance n).1.second < Config.daySeconds ∧
      (x.advance n).1.fraction < Config.sixteenths := by
  have fraction : x.fraction < 16 := fraction
  unfold Reading.advance
  split
  case isTrue within => exact ⟨date, second, within⟩
  case isFalse past =>
    have wrapped : x.fraction + n - 16 < 16 := by omega
    split
    case isTrue next => exact ⟨date, next, wrapped⟩
    case isFalse => exact ⟨nextDate_lt _, show 0 < 86400 by decide, wrapped⟩

/-- A slew step adds at most two sixteenths and moves the slew towards 0, if at all (R2). -/
theorem slewStep_bounds (crystal : Nat) (slew : Int) :
    (slewStep crystal slew).1 ≤ 2 ∧ (slewStep crystal slew).2.natAbs ≤ slew.natAbs := by
  unfold slewStep
  split
  · exact ⟨le_rfl, by dsimp only; omega⟩
  · split
    · exact ⟨Nat.zero_le 2, by dsimp only; omega⟩
    · exact ⟨Nat.le_succ 1, le_rfl⟩

/-- A sixteenth of a crystal second keeps the clock sound (R2). -/
theorem Clock.sound_tick {c : Clock} (h : c.Sound) : c.tick.1.Sound := by
  unfold Clock.tick
  split
  case h_1 unset => exact ⟨h.date, h.second, h.fraction, h.slew, h.unset⟩
  case h_2 x reading =>
    obtain ⟨few, nearer⟩ := slewStep_bounds (c.crystal + 1) c.slew
    obtain ⟨date, second, fraction⟩ :=
      Reading.advance_sound (h.date x reading) (h.second x reading) (h.fraction x reading) few
    exact ⟨by rintro _ ⟨⟩; exact date, by rintro _ ⟨⟩; exact second, by rintro _ ⟨⟩; exact fraction,
      nearer.trans h.slew, nofun⟩

/-- TIME SET keeps the clock sound: it is refused, slews within 1,920 sixteenths, or sets a reading in range (R3 to R5). -/
theorem setTime_sound {c : Clock} (h : c.Sound) (d : DateField) (t : TimeField) (force : Bool) (p : Part) :
    (setTime c d t force p).1.Sound := by
  unfold setTime
  split
  case h_2 => exact h
  case h_1 date sec dateEq secEq =>
    have inRange := c.sound_at (dateOf_lt d date dateEq) (secondOf_lt secEq)
    split
    case h_1 => exact inRange
    case h_2 x reading =>
      split
      case isTrue same =>
        unfold setSameDate
        dsimp only
        split
        case isTrue near => exact ⟨h.date, h.second, h.fraction, near, fun unset => by simp [reading] at unset⟩
        case isFalse => rw [same]; exact inRange
      case isFalse =>
        unfold setOtherDate
        split
        case h_1 => exact inRange
        case h_2 =>
          split
          · exact inRange
          · exact h

/-- A command leaves a sound clock sound. -/
theorem exec_clock_sound {i : Instr} {s t : State} (h : s.clock.Sound) (e : exec i s = .next t) : t.clock.Sound := by
  cases still : movesClock i with
  | false =>
    obtain ⟨q, hq⟩ := exec_part_only still s
    rw [hq] at e
    cases e
    exact h
  | true =>
    rcases movesClock_cases still with ⟨bad, rfl⟩ | ⟨ws, rfl⟩ | ⟨sfx, d, x, force, ws, rfl⟩
    · cases e; exact Clock.sound_reset
    · cases e; exact Clock.sound_tick h
    · obtain ⟨c, q, hq, moved⟩ := exec_timeSet_next sfx d x force ws s
      rw [hq] at e
      cases e
      rcases moved with rfl | ⟨p, rfl⟩
      · exact h
      · exact setTime_sound h d x force p

end Sys2Proof.Machine

open Sys2Proof.Machine

/-- Settles O3: the three commands that move the clock, each by its own frame; every other one moves the part alone. -/
theorem everyCommandAnswersNextAndThreeMoveTheClock : Obligations.EveryCommandAnswersNextAndThreeMoveTheClock := by
  intro i s
  cases still : movesClock i with
  | false =>
    obtain ⟨q, hq⟩ := exec_part_only still s
    exact ⟨_, hq, rfl, fun _ => rfl⟩
  | true =>
    rcases movesClock_cases still with ⟨bad, rfl⟩ | ⟨ws, rfl⟩ | ⟨sfx, d, x, force, ws, rfl⟩
    · obtain ⟨q, hq⟩ := exec_coldStart_next bad s
      exact ⟨_, hq, rfl, nofun⟩
    · obtain ⟨c, q, hq⟩ := exec_clockTick_next ws s
      exact ⟨_, hq, rfl, nofun⟩
    · obtain ⟨c, q, hq, _⟩ := exec_timeSet_next sfx d x force ws s
      exact ⟨_, hq, rfl, nofun⟩

/-- Settles O56: an idle step moves nothing, and a command leaves a sound clock sound. -/
theorem clockStaysSound : Obligations.ClockStaysSound := by
  intro s t sound e
  rcases step_cases e with rfl | ⟨i, rest, e⟩
  · exact sound
  · exact exec_clock_sound (s := { s with pending := rest }) sound e

/-- Settles O1: both by the definition of a step, on the queue as it stands. -/
theorem stepRunsTheFrontCommand : Obligations.StepRunsTheFrontCommand := by
  constructor
  · intro i rest s front
    simp only [step, front]
  · intro s empty
    simp only [step, empty]

end

section
/-!
What a kept write carries to the store (R62, R63): one item copied from an image to another, then a list of items.
-/

namespace Sys2Proof.Machine

/-! ## One item copied -/

/-- The weekday set of the image after one item has been copied. -/
theorem copyItem_weekdays (src dst : Image) (i : StoreItem) :
    (copyItem src dst i).weekdays = if i = .weekdays then src.weekdays else dst.weekdays := by
  cases i <;> rfl

/-- The exception list of the image after one item has been copied. -/
theorem copyItem_exceptions (src dst : Image) (i : StoreItem) :
    (copyItem src dst i).exceptions = if i = .exceptions then src.exceptions else dst.exceptions := by
  cases i <;> rfl

/-- The rota of the image after one item has been copied. -/
theorem copyItem_rota (src dst : Image) (i : StoreItem) :
    (copyItem src dst i).rota = if i = .rota then src.rota else dst.rota := by
  cases i <;> rfl

/-- The station list of the image after one item has been copied. -/
theorem copyItem_stations (src dst : Image) (i : StoreItem) :
    (copyItem src dst i).stations = if i = .stations then src.stations else dst.stations := by
  cases i <;> rfl

/-- The template map of the image after one item has been copied. -/
theorem copyItem_templateMap (src dst : Image) (i : StoreItem) :
    (copyItem src dst i).templateMap = if i = .templateMap then src.templateMap else dst.templateMap := by
  cases i <;> rfl

/-- The school name of the image after one item has been copied. -/
theorem copyItem_school (src dst : Image) (i : StoreItem) :
    (copyItem src dst i).school = if i = .school then src.school else dst.school := by
  cases i <;> rfl

/-- The gateway settings of the image after one item has been copied. -/
theorem copyItem_gateway (src dst : Image) (i : StoreItem) :
    (copyItem src dst i).gateway = if i = .gateway then src.gateway else dst.gateway := by
  cases i <;> rfl

/-- The tardy policy of the image after one item has been copied. -/
theorem copyItem_policy (src dst : Image) (i : StoreItem) :
    (copyItem src dst i).policy = if i = .policy then src.policy else dst.policy := by
  cases i <;> rfl

/-- The excuse list is copied whole or left: it is one item, and so is each of its records. -/
theorem copyItem_excuses (src dst : Image) (i : StoreItem) :
    (copyItem src dst i).excuses = src.excuses ∨ (copyItem src dst i).excuses = dst.excuses := by
  cases i with
  | excuses | excuse => exact .inl rfl
  | _ => exact .inr rfl

/-- A plan of the image after one item has been copied: the source's where that item is the plan. -/
theorem copyItem_plan (src dst : Image) (i : StoreItem) (n : Nat) :
    (copyItem src dst i).plan n = if i = .plan n then src.plan n else dst.plan n := by
  cases i with
  | plan m =>
    simp only [copyItem, Image.plan, StoreItem.plan.injEq, Vector.getD]
    by_cases same : m = n
    · subst same; by_cases bound : m < 8 <;> simp [bound]
    · simp [same]
  | _ => rfl

/-- A zone record of the image after one item has been copied. -/
theorem copyItem_zone (src dst : Image) (i : StoreItem) (n : Nat) :
    (copyItem src dst i).zone n = if i = .zone n then src.zone n else dst.zone n := by
  cases i with
  | zone m =>
    simp only [copyItem, Image.zone, StoreItem.zone.injEq, Vector.getD]
    by_cases same : m = n
    · subst same; by_cases bound : m < 6 <;> simp [bound]
    · simp [same]
  | _ => rfl

/-- A template of the image after one item has been copied. -/
theorem copyItem_template (src dst : Image) (i : StoreItem) (n : Nat) :
    (copyItem src dst i).template n = if i = .template n then src.template n else dst.template n := by
  cases i with
  | template m =>
    simp only [copyItem, Image.template, StoreItem.template.injEq, Vector.getD]
    by_cases same : m = n
    · subst same; by_cases bound : m < 32 <;> simp [bound]
    · simp [same]
  | _ => rfl

/-- The slot table of the image after one item has been copied. -/
theorem copyItem_slots (src dst : Image) (i : StoreItem) (n : Nat) :
    Table.get? (copyItem src dst i).slots n = if i = .slot n then Table.get? src.slots n else Table.get? dst.slots n := by
  cases i with
  | slot m =>
    by_cases same : m = n
    · subst same
      cases found : Table.get? src.slots m <;> simp [copyItem, found, Table.get?_put, Table.get?_erase]
    · have other := Ne.symm same
      cases found : Table.get? src.slots m <;>
        simp [copyItem, found, same, Table.get?_put_ne _ _ _ _ other, Table.get?_erase_ne _ _ _ other]
  | _ => rfl

/-- The contact table of the image after one item has been copied. -/
theorem copyItem_contacts (src dst : Image) (i : StoreItem) (n : Nat) :
    Table.get? (copyItem src dst i).contacts n
      = if i = .contact n then Table.get? src.contacts n else Table.get? dst.contacts n := by
  cases i with
  | contact m =>
    by_cases same : m = n
    · subst same
      cases found : Table.get? src.contacts m <;> simp [copyItem, found, Table.get?_put, Table.get?_erase]
    · have other := Ne.symm same
      cases found : Table.get? src.contacts m <;>
        simp [copyItem, found, same, Table.get?_put_ne _ _ _ _ other, Table.get?_erase_ne _ _ _ other]
  | _ => rfl

/-! ## A list of items copied -/

/-- What a list of copies takes from the source: an aspect of the image that one item of the list carries, and that every
copy either carries or leaves. -/
theorem foldl_copyItem_taken {β : Type} (aspect : Image → β) (src : Image) (i : StoreItem)
    (carries : ∀ dst, aspect (copyItem src dst i) = aspect src)
    (others : ∀ dst j, aspect (copyItem src dst j) = aspect src ∨ aspect (copyItem src dst j) = aspect dst)
    (l : List StoreItem) (listed : i ∈ l) (dst : Image) : aspect (l.foldl (copyItem src) dst) = aspect src := by
  have kept : ∀ (l : List StoreItem) (dst : Image), aspect dst = aspect src → aspect (l.foldl (copyItem src) dst) = aspect src := by
    intro l
    induction l with
    | nil => exact fun _ h => h
    | cons j l ih =>
      intro dst h
      refine ih _ ?_
      rcases others dst j with e | e
      · exact e
      · exact e.trans h
  induction l generalizing dst with
  | nil => exact absurd listed (by simp)
  | cons j l ih =>
    rcases List.mem_cons.mp listed with rfl | later
    · exact kept l _ (carries dst)
    · exact ih later _

/-- What a list of copies leaves: an aspect of the image that no item of the list carries. -/
theorem foldl_copyItem_left {β : Type} (aspect : Image → β) (src : Image) (l : List StoreItem)
    (leaves : ∀ dst, ∀ j ∈ l, aspect (copyItem src dst j) = aspect dst) (dst : Image) :
    aspect (l.foldl (copyItem src) dst) = aspect dst := by
  induction l generalizing dst with
  | nil => rfl
  | cons j l ih =>
    refine (ih (fun dst k hk => leaves dst k (List.mem_cons_of_mem _ hk)) _).trans ?_
    exact leaves dst j List.mem_cons_self

/-- An aspect that one item alone carries: a list of copies takes it when the item is listed, and leaves it otherwise. -/
theorem foldl_copyItem_aspect {β : Type} (aspect : Image → β) (src : Image) (i : StoreItem)
    (one : ∀ dst j, aspect (copyItem src dst j) = if j = i then aspect src else aspect dst) (l : List StoreItem) (dst : Image) :
    (i ∈ l → aspect (l.foldl (copyItem src) dst) = aspect src) ∧ (i ∉ l → aspect (l.foldl (copyItem src) dst) = aspect dst) := by
  refine ⟨fun listed => ?_, fun absent => ?_⟩
  · refine foldl_copyItem_taken aspect src i (fun dst => by rw [one, if_pos rfl]) (fun dst j => ?_) l listed dst
    rw [one]
    split
    · exact .inl rfl
    · exact .inr rfl
  · refine foldl_copyItem_left aspect src l (fun dst j hj => ?_) dst
    rw [one, if_neg (by rintro rfl; exact absent hj)]

/-- What a kept write leaves in the store of an aspect that one item alone carries: the working copy's where the item is
written or unsaved, and the old one otherwise (R62, R63). -/
theorem saved_store_aspect {β : Type} (aspect : Image → β) (i : StoreItem)
    (one : ∀ src dst j, aspect (copyItem src dst j) = if j = i then aspect src else aspect dst) (items : List StoreItem) (p : Part) :
    (i ∈ items ++ p.roster.unsaved → aspect (saved items p).store = aspect p.work) ∧
      (i ∉ items ++ p.roster.unsaved → aspect (saved items p).store = aspect p.store) :=
  foldl_copyItem_aspect aspect p.work i (one p.work) _ p.store

/-- A written or unsaved excuse list reaches the store. -/
theorem saved_store_excuses (items : List StoreItem) (p : Part) (listed : .excuses ∈ items ++ p.roster.unsaved) :
    (saved items p).store.excuses = p.work.excuses := by
  exact foldl_copyItem_taken (·.excuses) p.work .excuses (fun _ => rfl) (copyItem_excuses p.work) _ listed p.store

/-! ## Own writes -/

/-- The unsaved marks after some items have been marked, each once. -/
theorem mem_foldl_markEach (items l : List StoreItem) (i : StoreItem) :
    i ∈ items.foldl (fun l i => if i ∈ l then l else l ++ [i]) l ↔ i ∈ items ∨ i ∈ l := by
  induction items generalizing l with
  | nil => simp
  | cons j items ih =>
    have marked : i ∈ (if j ∈ l then l else l ++ [j]) ↔ i = j ∨ i ∈ l := by
      split
      · rename_i held
        exact ⟨.inr, fun h => h.elim (fun e => e ▸ held) id⟩
      · simp [or_comm]
    rw [List.foldl_cons, ih, marked, List.mem_cons, or_assoc, or_left_comm]

/-- An own write that the store keeps saves the items (R63). -/
theorem ownWrite_of_kept {items : List StoreItem} {p : Part} (h : storeAnswer p = true) :
    ownWrite items p = saved items (answered p) := if_pos h

/-- An own write that the store fails marks the items unsaved (R63). -/
theorem ownWrite_of_failed {items : List StoreItem} {p : Part} (h : storeAnswer p = false) :
    ownWrite items p = markUnsaved items (answered p) := if_neg (by rw [h]; exact Bool.false_ne_true)

end Sys2Proof.Machine

open Sys2Proof.Machine

/-- Settles O7: each aspect of the store by the items that carry it, then an own write by the store's answer. -/
theorem savedWriteCarriesUnsavedItems : Obligations.SavedWriteCarriesUnsavedItems := by
  refine ⟨fun items p => ?_, fun items p => ⟨fun kept => ownWrite_of_kept kept, fun failed => ?_⟩⟩
  · have plan := fun n => saved_store_aspect (·.plan n) (.plan n) (fun src dst i => copyItem_plan src dst i n) items p
    have zone := fun n => saved_store_aspect (·.zone n) (.zone n) (fun src dst i => copyItem_zone src dst i n) items p
    have template := fun n =>
      saved_store_aspect (·.template n) (.template n) (fun src dst i => copyItem_template src dst i n) items p
    have slot := fun n =>
      saved_store_aspect (fun img => Table.get? img.slots n) (.slot n) (fun src dst i => copyItem_slots src dst i n) items p
    have contact := fun n =>
      saved_store_aspect (fun img => Table.get? img.contacts n) (.contact n) (fun src dst i => copyItem_contacts src dst i n) items p
    exact ⟨rfl, rfl, (saved_store_aspect (·.school) .school copyItem_school items p).1,
      (saved_store_aspect (·.rota) .rota copyItem_rota items p).1, saved_store_excuses items p,
      (saved_store_aspect (·.weekdays) .weekdays copyItem_weekdays items p).1,
      (saved_store_aspect (·.exceptions) .exceptions copyItem_exceptions items p).1,
      (saved_store_aspect (·.stations) .stations copyItem_stations items p).1,
      (saved_store_aspect (·.templateMap) .templateMap copyItem_templateMap items p).1,
      (saved_store_aspect (·.gateway) .gateway copyItem_gateway items p).1,
      (saved_store_aspect (·.policy) .policy copyItem_policy items p).1,
      fun n => (plan n).1, fun n => (zone n).1, fun n => (template n).1, fun n => (plan n).2, fun n => (zone n).2,
      fun n => (template n).2, fun n => (contact n).2, fun n => (slot n).1, fun n => (contact n).1, fun n => (slot n).2⟩
  · refine ⟨_, ownWrite_of_failed failed, fun i => mem_foldl_markEach items _ i⟩

end

section
/-!
What a step keeps of the part (R7, R21, R29, R98, R103, R146, R159, R165, R182, R192), said once for every shared operation: the
alert's silence, the places of the lists, and the canonical form of the tables.
-/

-- One declaration after another: the text is compiled as one, and a declaration that waits for others holds a thread.
set_option Elab.async false

namespace Sys2Proof.Machine

/-! ## What is kept -/

/-- What stands in an image of the store is kept by a change of it. A field that the change leaves needs no proof. -/
structure ImageKeeps (a b : Image) : Prop where
  plans : a.PlansBounded → b.PlansBounded := by exact id
  excuses : a.excuses.length ≤ Config.excuseMax → b.excuses.length ≤ Config.excuseMax := by exact id
  exceptions : a.exceptions.length ≤ Config.exceptionMax → b.exceptions.length ≤ Config.exceptionMax := by exact id
  slots : Table.wf a.slots = true → Table.wf b.slots = true := by exact id
  contacts : Table.wf a.contacts = true → Table.wf b.contacts = true := by exact id

/-- Everything that a step keeps is kept from one part to another. A field that the change leaves needs no proof. -/
structure Keeps (p q : Part) : Prop where
  alert : AlertSilences p → AlertSilences q := by exact id
  notices : NoticesBounded p → NoticesBounded q := by exact id
  inflight : InflightBounded p → InflightBounded q := by exact id
  outbox : OutboxBounded p → OutboxBounded q := by exact id
  ring : RingBounded p → RingBounded q := by exact fun h => ⟨h.ring, h.zones, h.plan, h.work, h.store⟩
  queue : QueueBounded p → QueueBounded q := by exact id
  excuses : ExcusesBounded p → ExcusesBounded q := by exact id
  exceptions : ExceptionsBounded p → ExceptionsBounded q := by exact id
  tables : TablesCanonical p → TablesCanonical q := by
    exact fun h => ⟨h.slots, h.contacts, h.storedSlots, h.storedContacts, h.register, h.arrivals⟩

theorem Keeps.refl (p : Part) : Keeps p p := {}

theorem Keeps.trans {p q r : Part} (a : Keeps p q) (b : Keeps q r) : Keeps p r where
  alert := b.alert ∘ a.alert
  notices := b.notices ∘ a.notices
  inflight := b.inflight ∘ a.inflight
  outbox := b.outbox ∘ a.outbox
  ring := b.ring ∘ a.ring
  queue := b.queue ∘ a.queue
  excuses := b.excuses ∘ a.excuses
  exceptions := b.exceptions ∘ a.exceptions
  tables := b.tables ∘ a.tables

/-- A fold keeps what each of its steps keeps. -/
theorem Keeps.foldl {β : Type} {f : Part → β → Part} (h : ∀ p b, Keeps p (f p b)) (l : List β) (p : Part) :
    Keeps p (l.foldl f p) := by
  induction l generalizing p with
  | nil => exact .refl p
  | cons b l ih => exact (h p b).trans (ih _)

/-- One of two continuations: each keeps. -/
theorem Keeps.ite {p a b : Part} {φ : Prop} [Decidable φ] (yes : Keeps p a) (no : Keeps p b) : Keeps p (if φ then a else b) := by
  split
  · exact yes
  · exact no

/-- Whatever stays in the outbox frame is kept: the lists within their bounds, the register's table canonical. -/
theorem OutboxFrame.keeps {p q : Part} (h : OutboxFrame p q) : Keeps p q where
  alert := fun silent => by
    unfold AlertSilences Part.zoneState
    rw [h.ac, h.bells]
    exact silent
  notices := h.notices
  inflight := fun bound => by
    unfold InflightBounded Messages.offerCount at bound ⊢
    rw [h.inflight]
    rcases h.offer with same | closed
    · rw [same]; exact bound
    · rw [closed]; exact Nat.le_trans (Nat.le_add_right _ _) bound
  outbox := h.outbox
  ring := fun b => ⟨by rw [h.bells]; exact b.ring, by rw [h.bells]; exact b.zones, by rw [h.bells]; exact b.plan,
    by rw [h.work]; exact b.work, by rw [h.store]; exact b.store⟩
  queue := fun bound => by
    unfold QueueBounded Part.stationLoad Part.station
    rw [h.desk]
    exact bound
  excuses := fun bound => by
    unfold ExcusesBounded
    rw [h.work, h.store]
    exact bound
  exceptions := fun bound => by
    unfold ExceptionsBounded
    rw [h.work, h.store]
    exact bound
  tables := fun t => ⟨by rw [h.work]; exact t.slots, by rw [h.work]; exact t.contacts, by rw [h.store]; exact t.storedSlots,
    by rw [h.store]; exact t.storedContacts, h.slots t.register, by rw [h.desk]; exact t.arrivals⟩

theorem raise_keeps (c : Clock) (b : NoticeBody) (p : Part) : Keeps p (raise c b p) := (raise_frame c b p).keeps

/-! ## Images and the store -/

theorem ImageKeeps.trans {a b c : Image} (x : ImageKeeps a b) (y : ImageKeeps b c) : ImageKeeps a c where
  plans := y.plans ∘ x.plans
  excuses := y.excuses ∘ x.excuses
  exceptions := y.exceptions ∘ x.exceptions
  slots := y.slots ∘ x.slots
  contacts := y.contacts ∘ x.contacts

/-- A property of an image that each copy keeps is kept by a list of copies. -/
theorem foldl_copyItem_keeps {P : Image → Prop} {src : Image}
    (one : ∀ dst i, P dst → P (copyItem src dst i)) (l : List StoreItem) {dst : Image} (h : P dst) :
    P (l.foldl (copyItem src) dst) := by
  induction l generalizing dst with
  | nil => exact h
  | cons i l ih => exact ih (one dst i h)

theorem copyItem_plansBounded {src : Image} (source : src.PlansBounded) (dst : Image) (i : StoreItem) (h : dst.PlansBounded) :
    (copyItem src dst i).PlansBounded := by
  intro n
  rw [copyItem_plan]
  split
  · exact source n
  · exact h n

theorem copyItem_excuses_length {src : Image} {k : Nat} (source : src.excuses.length ≤ k) (dst : Image) (i : StoreItem)
    (h : dst.excuses.length ≤ k) : (copyItem src dst i).excuses.length ≤ k := by
  rcases copyItem_excuses src dst i with e | e <;> rw [e] <;> assumption

theorem copyItem_exceptions_length {src : Image} {k : Nat} (source : src.exceptions.length ≤ k) (dst : Image) (i : StoreItem)
    (h : dst.exceptions.length ≤ k) : (copyItem src dst i).exceptions.length ≤ k := by
  rw [copyItem_exceptions]
  split <;> assumption

theorem copyItem_slots_wf (src dst : Image) (i : StoreItem) (h : Table.wf dst.slots = true) :
    Table.wf (copyItem src dst i).slots = true := by
  cases i with
  | slot n =>
    unfold copyItem
    dsimp only
    split
    · exact Table.wf_put dst.slots n _ h
    · exact Table.wf_erase dst.slots n h
  | _ => exact h

theorem copyItem_contacts_wf (src dst : Image) (i : StoreItem) (h : Table.wf dst.contacts = true) :
    Table.wf (copyItem src dst i).contacts = true := by
  cases i with
  | contact n =>
    unfold copyItem
    dsimp only
    split
    · exact Table.wf_put dst.contacts n _ h
    · exact Table.wf_erase dst.contacts n h
  | _ => exact h

/-- A kept write keeps (R63): the store takes items of the working copy. -/
theorem saved_keeps (items : List StoreItem) (p : Part) : Keeps p (saved items p) where
  ring := fun h => ⟨h.ring, h.zones, h.plan, h.work, foldl_copyItem_keeps (copyItem_plansBounded h.work) _ h.store⟩
  excuses := fun h =>
    ⟨h.1, foldl_copyItem_keeps (P := fun img => img.excuses.length ≤ _) (copyItem_excuses_length h.1) _ h.2⟩
  exceptions := fun h =>
    ⟨h.1, foldl_copyItem_keeps (P := fun img => img.exceptions.length ≤ _) (copyItem_exceptions_length h.1) _ h.2⟩
  tables := fun h => ⟨h.slots, h.contacts,
    foldl_copyItem_keeps (P := fun img => Table.wf img.slots = true) (copyItem_slots_wf p.work) _ h.storedSlots,
    foldl_copyItem_keeps (P := fun img => Table.wf img.contacts = true) (copyItem_contacts_wf p.work) _ h.storedContacts,
    h.register, h.arrivals⟩

/-- A change of the working copy that keeps what stands in an image. -/
theorem Keeps.work {p : Part} {img : Image} (h : ImageKeeps p.work img) : Keeps p { p with work := img } where
  ring := fun b => ⟨b.ring, b.zones, b.plan, h.plans b.work, b.store⟩
  excuses := fun b => ⟨h.excuses b.1, b.2⟩
  exceptions := fun b => ⟨h.exceptions b.1, b.2⟩
  tables := fun t => ⟨h.slots t.slots, h.contacts t.contacts, t.storedSlots, t.storedContacts, t.register, t.arrivals⟩

/-- The part's own write keeps (R63). -/
theorem ownWrite_keeps (items : List StoreItem) (p : Part) : Keeps p (ownWrite items p) :=
  Keeps.ite ((show Keeps p (answered p) from {}).trans (saved_keeps items _)) {}

theorem ownWriteSome_keeps (items : List StoreItem) (p : Part) : Keeps p (ownWriteSome items p) :=
  Keeps.ite (.refl p) (ownWrite_keeps items p)

/-- A request's write and what it goes on with (R62). -/
theorem stored_keeps {items : List StoreItem} {f : Image → Image} {p : Part} {k : Part → Part × Reply}
    (change : ImageKeeps p.work (f p.work)) (rest : ∀ q, Keeps q (k q).1) : Keeps p (stored items f p k).1 := by
  unfold stored requestWrite
  split
  case h_1 taken =>
    split at taken
    · cases taken
      exact (show Keeps p (answered p) from {}).trans ((Keeps.work (p := answered p) change).trans
        ((saved_keeps items _).trans (rest _)))
    · cases taken
  case h_2 failed =>
    split at failed
    · cases failed
    · cases failed
      exact {}

theorem storedOk_keeps {items : List StoreItem} {f : Image → Image} {p : Part} (change : ImageKeeps p.work (f p.work)) :
    Keeps p (storedOk items f p).1 := stored_keeps change Keeps.refl

/-! ## The activity state and the wake flags -/

theorem setActivity_keeps (c : Clock) (a : Activity) (p : Part) : Keeps p (setActivity c a p) :=
  Keeps.ite (Keeps.ite (.refl p) {}) (Keeps.ite {} {})

theorem wakeBy_keeps (c : Clock) (f : WakeFlag) (p : Part) : Keeps p (wakeBy c f p) :=
  ((setActivity_keeps c .quiet p).trans {}).trans (raise_keeps c _ _)

theorem setFlag_keeps (c : Clock) (f : WakeFlag) (p : Part) : Keeps p (setFlag c f p) :=
  Keeps.ite (Keeps.ite ((show Keeps p { p with hl.flags := p.hl.flags.set f } from {}).trans (wakeBy_keeps c f _)) {}) {}

theorem requestLine_keeps (c : Clock) (p : Part) : Keeps p (requestLine c p) := Keeps.ite (setFlag_keeps c .host p) {}

theorem serviceEnds_keeps (c : Clock) (p : Part) : Keeps p (serviceEnds c p) :=
  (show Keeps p { p with hl.service := none } from {}).trans (setActivity_keeps c .dormant _)

theorem activityAtOpen_keeps (c : Clock) (p : Part) : Keeps p (activityAtOpen c p) :=
  (show Keeps p { p with hl.service := none } from {}).trans (setActivity_keeps c .active _)

theorem activityAtClose_keeps (c : Clock) (p : Part) : Keeps p (activityAtClose c p) :=
  Keeps.ite (setActivity_keeps c .quiet p) (.refl p)

/-! ## Sweeps -/

theorem releaseSweeps_keeps (p : Part) : Keeps p (releaseSweeps p) := Keeps.ite (.refl p) {}

theorem resumeReached_keeps (p : Part) : Keeps p (resumeReached p) :=
  (show Keeps p { p with sweeps.resume := none } from {}).trans (releaseSweeps_keeps _)

theorem startDue_keeps (c : Clock) (p : Part) : Keeps p (startDue c p) := by
  unfold startDue
  split
  · exact .refl p
  · exact {}

theorem sweepsAfterTimes_keeps (c : Clock) (t : Today) (p : Part) : Keeps p (sweepsAfterTimes c t p) :=
  (show Keeps p { p with sweeps := _ } from {}).trans (startDue_keeps c _)

theorem sweepsAfterPlan_keeps (c : Clock) (t : Today) (p : Part) : Keeps p (sweepsAfterPlan c t p) :=
  (show Keeps p { p with sweeps.am := _, sweeps.pm := _ } from {}).trans (startDue_keeps c _)

theorem resumeAtAllClear_keeps (c : Clock) (p : Part) : Keeps p (resumeAtAllClear c p) := by
  unfold resumeAtAllClear
  split
  · exact resumeReached_keeps p
  · exact Keeps.ite (resumeReached_keeps p) {}

/-! ## The outbox -/

theorem writeMark_keeps (c : Clock) (w : Write) (n k : Nat) (p : Part) : Keeps p (writeMark c w n k p).1 :=
  (writeMark_frame c w n k p).keeps

theorem createOrReport_keeps (c : Clock) (q : EntryRequest) (p : Part) : Keeps p (createOrReport c q p).1 :=
  (createOrReport_frame c q p).keeps

theorem create_keeps (c : Clock) (q : EntryRequest) (p : Part) : Keeps p (create c q p).1 := (create_frame c q p).keeps

theorem setNotice_keeps (n : Nat) (x : Reg) (st : NoticeStatus) (p : Part) : Keeps p (setNotice n x st p) :=
  (setNotice_frame n x st p).keeps

theorem movePresence_keeps (n : Nat) (moved : Presence) (p : Part) : Keeps p (movePresence n moved p) :=
  (movePresence_frame n moved p).keeps

theorem onEntry_keeps (id : Nat) (f : OutEntry → OutEntry) (p : Part) : Keeps p (onEntry id f p) := (onEntry_frame id f p).keeps

theorem follow_keeps (c : Clock) (id : Nat) (p : Part) : Keeps p (follow c id p) := (follow_frame c id p).keeps

theorem eligibleReached_keeps (c : Clock) (p : Part) : Keeps p (eligibleReached c p) := by
  refine (outbox_frame p _ ?_).keeps
  rw [List.length_map]

/-- A change of the register that keeps its table canonical. -/
theorem onRegister_keeps {f : Register → Register} (h : ∀ g, Table.wf g.slots = true → Table.wf (f g).slots = true) (p : Part) :
    Keeps p (p.onRegister f) := (onRegister_frame p f h).keeps

end Sys2Proof.Machine
end

section
/-!
What the ring table, the zones and the zone bus keep (R22, R29 to R41, R42 to R55).
-/

-- One declaration after another: the text is compiled as one, and a declaration that waits for others holds a thread.
set_option Elab.async false

namespace Sys2Proof.Machine

/-! ## The ring table -/

/-- Today's copy is within the places of R21 and R25. -/
structure Today.Fits (t : Today) : Prop where
  zones : t.zones.length ≤ 6
  plan : t.plan.periods.length ≤ 14

theorem RingBounded.fits {p : Part} (h : RingBounded p) {t : Today} (open' : p.bells.today = some t) : t.Fits :=
  ⟨h.zones t open', h.plan t open'⟩

/-- A bells record with the zone states of the old one, a ring table within its places and a copy of today that fits. -/
theorem Keeps.bells {p : Part} {b : Bells} (zones : b.zoneStates = p.bells.zoneStates)
    (ring : RingBounded p → b.ring.length ≤ Config.ringMax ∧ ∀ t, b.today = some t → t.Fits) : Keeps p { p with bells := b } where
  alert := fun silent => by
    unfold AlertSilences Part.zoneState
    rw [zones]
    exact silent
  ring := fun h => ⟨(ring h).1, fun t e => ((ring h).2 t e).zones, fun t e => ((ring h).2 t e).plan, h.work, h.store⟩

theorem onRing_keeps (f : RingEntry → RingEntry) (p : Part) : Keeps p (onRing f p) :=
  Keeps.bells rfl fun h => ⟨by rw [List.length_map]; exact h.ring, fun _ e => h.fits e⟩

theorem reachAt_keeps (c : Clock) (t : Nat) (p : Part) : Keeps p (reachAt c t p) := onRing_keeps _ p

theorem stepRing_keeps (c : Clock) (old new : Nat) (p : Part) : Keeps p (stepRing c old new p) :=
  Keeps.trans ((onRing_keeps _ p).trans (Keeps.ite (.refl _) (raise_keeps c _ _))) (reachAt_keeps c new _)

theorem passEarlier_keeps (c : Clock) (p : Part) : Keeps p (passEarlier c p) :=
  (onRing_keeps _ p).trans (Keeps.ite (.refl _) (raise_keeps c _ _))

/-- A request is given a place only where there is one (R29). -/
theorem Bells.tryAdd_ring_le {x : Bells × Nat} (q : RingRequest) (h : x.1.ring.length ≤ Config.ringMax) :
    (Bells.tryAdd x q).1.ring.length ≤ Config.ringMax := by
  unfold Bells.tryAdd
  split
  case isTrue place =>
    have room : x.1.ring.length < Config.ringMax := of_decide_eq_true (Bool.and_eq_true_iff.mp place).1
    exact ((insertBy_perm _ _ _).length_eq).trans_le room
  case isFalse => exact h

theorem Bells.foldl_tryAdd_ring_le (l : List RingRequest) {x : Bells × Nat} (h : x.1.ring.length ≤ Config.ringMax) :
    (l.foldl Bells.tryAdd x).1.ring.length ≤ Config.ringMax := by
  induction l generalizing x with
  | nil => exact h
  | cons q l ih => exact ih (Bells.tryAdd_ring_le q h)

/-- Requests given places leave today's copy and the zone states. -/
theorem Bells.foldl_tryAdd_rest (l : List RingRequest) (x : Bells × Nat) :
    (l.foldl Bells.tryAdd x).1.today = x.1.today ∧ (l.foldl Bells.tryAdd x).1.zoneStates = x.1.zoneStates := by
  obtain ⟨_, _, _, _, _, today, _, zones⟩ := Bells.foldl_tryAdd l x.1 x.2
  exact ⟨today, zones⟩

/-- At most two requests for each period of a zone (R30). -/
theorem buildPeriods_length (t : Today) (x : TodayZone) (limit : Nat) (ks : List Nat) (last : Option Nat) :
    (buildPeriods t x limit last ks).length ≤ 2 * ks.length := by
  induction ks generalizing last with
  | nil => exact Nat.zero_le _
  | cons k ks ih =>
    have step : ∀ last n, n ≤ 2 → n + (buildPeriods t x limit last ks).length ≤ 2 * (k :: ks).length := by
      intro last n few
      have := ih last
      simp only [List.length_cons]
      omega
    unfold buildPeriods
    split
    case h_1 q s _ _ _ =>
      split
      · have both := step (some s) 2 le_rfl
        have one := step (some s) 1 (by decide)
        rw [List.length_cons, List.length_append]
        split
        · rw [List.length_singleton]; omega
        · rw [List.length_nil]; omega
      · exact (Nat.zero_add _).symm.trans_le (step last 0 (by decide))
    case h_2 => exact (Nat.zero_add _).symm.trans_le (step last 0 (by decide))

/-- At most one END request for a zone (R30). -/
theorem buildEnd_length (t : Today) (z : Nat) : (buildEnd t z).length ≤ 1 := by
  unfold buildEnd
  split
  · exact Nat.zero_le 1
  · split
    · exact Nat.zero_le 1
    · exact le_rfl

/-- A table built from a copy that fits has places for all its requests: two for each of 14 periods and one, in six zones. -/
theorem buildRequests_length {t : Today} (h : t.Fits) (limit : Nat) : (buildRequests t limit).length ≤ Config.ringMax := by
  have zone : ∀ n ∈ t.zones.map (fun x => (buildPeriods t x limit none t.numbers ++ buildEnd t x.zone).length), n ≤ 29 := by
    intro n hn
    obtain ⟨x, _, rfl⟩ := List.mem_map.mp hn
    have rings := buildPeriods_length t x limit t.numbers none
    have ends := buildEnd_length t x.zone
    have plan := h.plan
    rw [Today.numbers, List.length_range] at rings
    rw [List.length_append, Today.numbers]
    omega
  have total := List.sum_le_card_nsmul _ 29 zone
  rw [List.length_map, smul_eq_mul] at total
  have zones := h.zones
  show _ ≤ 192
  unfold buildRequests
  rw [List.length_flatMap]
  omega

theorem Bells.built_ring_length {t : Today} (h : t.Fits) (b : Bells) (limit : Nat) : (b.built t limit).ring.length ≤ Config.ringMax := by
  unfold Bells.built
  dsimp only
  rw [(sortBy_perm _ _).length_eq, List.length_map, List.length_zipIdx]
  exact buildRequests_length h limit

/-- A table built keeps, where the copy it is built from fits (R30, R31). -/
theorem buildRing_keeps (c : Clock) {t : Today} (limit : Nat) {p : Part} (fits : RingBounded p → t.Fits) :
    Keeps p (buildRing c t limit p) :=
  ((Keeps.bells (b := p.bells.built t limit) rfl fun h => ⟨Bells.built_ring_length (fits h) _ limit, fun _ e => h.fits e⟩).trans
    (passEarlier_keeps c _)).trans (reachAt_keeps c c.second _)

/-- A delay keeps the table within its places (R35, R36). -/
theorem delay_keeps {p : Part} {before after : Today} (now a : Nat) (fits : RingBounded p → after.Fits) :
    Keeps p { p with bells := (p.bells.delay now before after a).1 } := by
  unfold Bells.delay
  dsimp only
  refine Keeps.bells ?_ fun h => ⟨?_, fun t e => ?_⟩
  · rw [(Bells.foldl_tryAdd_rest _ _).2, (Bells.foldl_tryAdd_rest _ _).2]
  · refine Bells.foldl_tryAdd_ring_le _ (Bells.foldl_tryAdd_ring_le _ ?_)
    dsimp only
    rw [(sortBy_perm _ _).length_eq, List.length_map, List.length_map]
    exact h.ring
  · rw [(Bells.foldl_tryAdd_rest _ _).1, (Bells.foldl_tryAdd_rest _ _).1] at e
    cases e
    exact fits h

theorem Bells.closeEarly_ring_length {b : Bells} (after : Today) (x : Nat) (h : b.ring.length ≤ Config.ringMax) :
    (b.closeEarly after x).ring.length ≤ Config.ringMax := by
  unfold Bells.closeEarly
  dsimp only
  rw [← List.foldl_map]
  refine Bells.foldl_tryAdd_ring_le _ ?_
  dsimp only
  rw [List.length_map]
  exact h

/-- An early close keeps the table within its places (R37). -/
theorem closeEarly_keeps {p : Part} {after : Today} (x : Nat) (fits : RingBounded p → after.Fits) :
    Keeps p { p with bells := p.bells.closeEarly after x } := by
  obtain ⟨today, _, zones⟩ := Bells.closeEarly_rest after x p.bells
  refine Keeps.bells zones fun h => ⟨Bells.closeEarly_ring_length after x h.ring, fun t e => ?_⟩
  rw [today] at e
  cases e
  exact fits h

/-- The manual entries of RING, one for each zone, with a place for each (R39). -/
theorem Bells.foldl_addManual (c : Clock) (tone : BellTone) (duration : Nat) (armed : Nat → Bool) (l : List Nat) (b : Bells) :
    (l.foldl (Bells.addManual c tone duration armed) b).ring.length = b.ring.length + l.length ∧
      (l.foldl (Bells.addManual c tone duration armed) b).today = b.today ∧
      (l.foldl (Bells.addManual c tone duration armed) b).zoneStates = b.zoneStates := by
  induction l generalizing b with
  | nil => exact ⟨rfl, rfl, rfl⟩
  | cons z l ih =>
    obtain ⟨ring, today, zones⟩ := ih (Bells.addManual c tone duration armed b z)
    refine ⟨ring.trans ?_, today, zones⟩
    have one : (Bells.addManual c tone duration armed b z).ring.length = b.ring.length + 1 := (insertBy_perm _ _ _).length_eq
    rw [one, List.length_cons]
    omega

theorem copyAfresh_fits {img : Image} (h : img.PlansBounded) (n d : Nat) (early : Option Nat) (open' : Nat) :
    (makeToday img n d early open').Fits where
  zones := by
    show (List.map _ _).length ≤ 6
    rw [List.length_map]
    exact List.length_filter_le _ _
  plan := h n

/-- Entries carried over have the places that the built ones leave (R41). -/
theorem carried_length {made : List RingEntry} (h : made.length ≤ Config.ringMax) (carried : List RingEntry) :
    (sortBy RingEntry.le (made ++ carried.take (Config.ringMax - made.length))).length ≤ Config.ringMax := by
  rw [(sortBy_perm _ _).length_eq, List.length_append, List.length_take]
  omega

/-- The bells after a rebuild of the table (R41). -/
theorem Bells.rebuilt_rest (c : Clock) (t : Today) (b : Bells) :
    (b.rebuilt c t).today = some t ∧ (b.rebuilt c t).zoneStates = b.zoneStates ∧
      (t.Fits → (b.rebuilt c t).ring.length ≤ Config.ringMax) := by
  have built : t.Fits → (b.built { t with early := none } t.openReading).ring.length ≤ Config.ringMax :=
    fun h => Bells.built_ring_length (t := { t with early := none }) ⟨h.zones, h.plan⟩ b _
  unfold Bells.rebuilt
  dsimp only
  cases t.early with
  | none => exact ⟨rfl, rfl, fun h => carried_length (by rw [List.length_map]; exact built h) _⟩
  | some x =>
    obtain ⟨today, _, zones⟩ := Bells.closeEarly_rest t x (b.built { t with early := none } t.openReading)
    exact ⟨today, zones, fun h =>
      carried_length (by rw [List.length_map]; exact Bells.closeEarly_ring_length t x (built h)) _⟩

/-- The table of a restart is within its places (R41). -/
theorem rebuildRing_keeps (c : Clock) {t : Today} {p : Part} (fits : RingBounded p → t.Fits) : Keeps p (rebuildRing c t p) := by
  obtain ⟨today, zones, ring⟩ := Bells.rebuilt_rest c t p.bells
  refine (Keeps.bells (b := p.bells.rebuilt c t) zones fun h => ⟨ring (fits h), fun u e => ?_⟩).trans
    ((onRing_keeps _ _).trans ((passEarlier_keeps c _).trans (reachAt_keeps c c.second _)))
  cases today.symm.trans e
  exact fits h

/-! ## Zone states -/

/-- The state of a zone after one state has been set. -/
theorem zoneState_setZoneState (p : Part) (z k : Nat) (x : Option ZoneState) :
    (p.setZoneState z x).zoneState k = if z = k ∧ k < 6 then x else p.zoneState k := by
  unfold Part.zoneState Part.setZoneState Vector.getD
  by_cases bound : k < 6
  · by_cases same : z = k
    · simp [same, bound]
    · simp [same, bound]
  · simp [bound]

/-- Only the six zones have a state (R22). -/
theorem zoneState_lt {p : Part} {z : Nat} {x : ZoneState} (h : p.zoneState z = some x) : z < 6 := by
  by_contra out
  have none' : p.zoneState z = none := by simp [Part.zoneState, Vector.getD, out]
  cases none'.symm.trans h

/-- A state set is kept silent where it is quiet under an alert (R182). -/
theorem setZoneState_keeps (z : Nat) {x : Option ZoneState} {p : Part} (h : AlertSilences p → p.ac.alert.isSome → Quiet x) :
    Keeps p (p.setZoneState z x) where
  alert := fun silent alert k bound => by
    rw [zoneState_setZoneState]
    split
    · exact h silent alert
    · exact silent alert k bound

/-- A quiet zone is SILENCED, or FAULTED remembering SILENCED; and so it is after a fault or a recovery. -/
theorem quiet_up_iff (s : ArmState) : Quiet (some (.up s)) ↔ Quiet (some (.faulted s)) := by cases s <;> simp [Quiet]

theorem quiet_newZoneState {p : Part} (h : p.ac.alert.isSome) : Quiet (some p.newZoneState) := by
  unfold Part.newZoneState Part.noAlert
  rw [if_neg (by cases alert : p.ac.alert <;> simp_all)]
  exact ⟨nofun, nofun⟩

theorem quiet_silenced (x : Option ZoneState) : Quiet (x.map ZoneState.silenced) := by
  rcases x with _ | ⟨_ | _⟩ | ⟨_ | _⟩ <;> exact ⟨nofun, nofun⟩

/-- After a silencing no zone is ARMED or remembers it (R182). -/
theorem silenceZones_silent (p : Part) : AlertSilences (silenceZones p) := by
  intro _ z bound
  have state : (silenceZones p).zoneState z = (p.zoneState z).map ZoneState.silenced := by
    simp [Part.zoneState, silenceZones, Vector.getD, bound]
  rw [state]
  exact quiet_silenced _

theorem silenceZones_keeps (p : Part) : Keeps p (silenceZones p) where
  alert := fun _ => silenceZones_silent p

theorem passDueOf_keeps (z : Nat) (p : Part) : Keeps p (passDueOf z p) := onRing_keeps _ p

theorem faultZone_keeps (c : Clock) (m : Member) (code : FaultCode) (p : Part) : Keeps p (faultZone c m code p) := by
  unfold faultZone
  dsimp only
  split
  case h_1 => exact .refl p
  case h_2 => exact {}
  case h_3 s state =>
    have quiet : AlertSilences p → p.ac.alert.isSome → Quiet (some (.faulted s)) := fun silent alert =>
      (quiet_up_iff s).mp (state ▸ silent alert m.zone (zoneState_lt state))
    exact (setZoneState_keeps m.zone quiet).trans (Keeps.trans {} ((raise_keeps c _ _).trans (passDueOf_keeps m.zone _)))

theorem recoverZone_keeps (c : Clock) (m : Member) (p : Part) : Keeps p (recoverZone c m p) := by
  unfold recoverZone
  split
  case h_1 s state =>
    have quiet : AlertSilences p → p.ac.alert.isSome → Quiet (some (.up s)) := fun silent alert =>
      (quiet_up_iff s).mpr (state ▸ silent alert m.zone (zoneState_lt state))
    exact (setZoneState_keeps m.zone quiet).trans (raise_keeps c _ _)
  case h_2 => exact .refl p
  case h_3 => exact .refl p

theorem presenceChange_keeps (z : Nat) (was isNow : Bool) (p : Part) : Keeps p (presenceChange z was isNow p) :=
  Keeps.ite (.refl p) (Keeps.ite ((setZoneState_keeps z fun _ alert => quiet_newZoneState alert).trans {})
    (((setZoneState_keeps z (x := none) fun _ _ => ⟨nofun, nofun⟩).trans {}).trans (passDueOf_keeps z _)))

/-! ## The zone bus -/

theorem sendSound_keeps (l : List Nat) (t : Tone) (n : Option Nat) (p : Part) : Keeps p (sendSound l t n p) := Keeps.ite (.refl p) {}

theorem sendStop_keeps (l : List Nat) (p : Part) : Keeps p (sendStop l p) := Keeps.ite (.refl p) {}

theorem issue_keeps (c : Clock) (t : Tone) (members : List Member) (d : Nat) (p : Part) : Keeps p (issue c t members d p) :=
  (show Keeps p { p with zbus := _ } from {}).trans (sendSound_keeps _ _ _ _)

theorem broadcastNow_keeps (c : Clock) (p : Part) : Keeps p (broadcastNow c p) := by
  unfold broadcastNow
  split
  · exact .refl p
  · exact Keeps.ite ((onRing_keeps _ p).trans (issue_keeps c _ _ _ _)) (.refl p)

theorem fetchAt_keeps (b : Broadcast) (i : Nat) (p : Part) : Keeps p (fetchAt b i p) := by
  unfold fetchAt
  split <;> exact {}

theorem soundingEnds_keeps (c : Clock) (p : Part) : Keeps p (soundingEnds c p) := by
  unfold soundingEnds
  split
  · exact .refl p
  · exact Keeps.ite (fetchAt_keeps _ 0 p) (.refl p)

theorem fetchOutcome_keeps (c : Clock) (b : Broadcast) (m : Member) (o : Option DriverAnswer) (p : Part) :
    Keeps p (fetchOutcome c b m o p) := by
  have settled : ∀ ok, Keeps p (settleZone m.zone ok (b.issueTime.getD 0) p) := fun ok => onRing_keeps _ p
  unfold fetchOutcome
  dsimp only
  split
  · exact (settled true).trans (recoverZone_keeps c m _)
  · exact ((settled true).trans (recoverZone_keeps c m _)).trans (sendStop_keeps _ _)
  · exact (settled false).trans (faultZone_keeps c m _ _)
  · exact (settled false).trans (faultZone_keeps c m _ _)

theorem pollAt_keeps (l : List Member) (i : Nat) (p : Part) : Keeps p (pollAt l i p) := by
  unfold pollAt
  split <;> exact {}

theorem pollBegins_keeps (c : Clock) (p : Part) : Keeps p (pollBegins c p) :=
  Keeps.ite ((show Keeps p { p with zbus := _ } from {}).trans (pollAt_keeps _ 0 _)) (.refl p)

theorem pollOutcome_keeps (c : Clock) (m : Member) (o : Option DriverAnswer) (p : Part) : Keeps p (pollOutcome c m o p) := by
  refine Keeps.ite (.refl p) ?_
  split
  · dsimp only
    split
    · exact recoverZone_keeps c m p
    · exact (recoverZone_keeps c m p).trans (sendSound_keeps _ _ _ _)
  · exact Keeps.ite ((recoverZone_keeps c m p).trans (sendStop_keeps _ _)) (recoverZone_keeps c m p)
  · exact faultZone_keeps c m _ p
  · exact faultZone_keeps c m _ p

theorem exchangeEnds_keeps (c : Clock) (address : Option Nat) (o : Option DriverAnswer) (p : Part) :
    Keeps p (exchangeEnds c address o p) := by
  have polled : ∀ l : Poll, Keeps p (match l.members[l.position]? with
      | none => p
      | some m => if address.getD m.address = m.address then pollAt l.members (l.position + 1) (pollOutcome c m o p) else p) := by
    intro l
    split
    · exact .refl p
    · exact Keeps.ite ((pollOutcome_keeps c _ o p).trans (pollAt_keeps _ _ _)) (.refl p)
  unfold exchangeEnds
  split
  · split
    · exact .refl p
    · exact Keeps.ite ((fetchOutcome_keeps c _ _ o p).trans (fetchAt_keeps _ _ _)) (.refl p)
  · exact polled _
  · exact polled _
  · exact .refl p

theorem staleEnds_keeps (c : Clock) (k : RingKey) (p : Part) : Keeps p (staleEnds c k p) := by
  unfold staleEnds
  split
  · exact .refl p
  · exact (onRing_keeps _ p).trans (raise_keeps c _ _)

theorem preempt_keeps (p : Part) : Keeps p (preempt p) := by
  refine Keeps.trans ?_ (onRing_keeps _ _)
  cases p.zbus.broadcast with
  | none => exact {}
  | some b => exact (sendStop_keeps (addresses b.members) p).trans {}

theorem busAtAlertStart_keeps (k : AlertKind) (p : Part) : Keeps p (busAtAlertStart k p) :=
  (preempt_keeps p).trans ((sendSound_keeps _ _ _ _).trans {})

theorem busAtChange_keeps (k : AlertKind) (p : Part) : Keeps p (busAtChange k p) :=
  (show Keeps p { p with zbus.poll := none } from {}).trans (sendSound_keeps _ _ _ _)

theorem busAtAllClear_keeps (c : Clock) (p : Part) : Keeps p (busAtAllClear c p) :=
  (show Keeps p { p with zbus.poll := none } from {}).trans ((sendStop_keeps _ _).trans (issue_keeps c _ _ _ _))

theorem busAtRestart_keeps (c : Clock) (p : Part) : Keeps p (busAtRestart c p) := by
  refine (show Keeps p { p with zbus.broadcast := none, zbus.poll := none, zbus.pollDue := c.crystal } from {}).trans ?_
  unfold busAtRestart
  dsimp only
  split
  · exact (sendStop_keeps _ _).trans {}
  · exact (sendSound_keeps _ _ _ _).trans {}

end Sys2Proof.Machine
end

section
/-!
What the events of the school day, the sweep, the excuses, an arrival and a restart keep (R11 to R18, R71, R95, R104 to R126, R132
to R158, R194).
-/

-- One declaration after another: the text is compiled as one, and a declaration that waits for others holds a thread.
set_option Elab.async false

namespace Sys2Proof.Machine

/-! ## Scores and the roster at day close -/

theorem setSlot_keeps (p : Part) (n : Nat) (x : Slot) : Keeps p (p.setSlot n x) :=
  Keeps.work { slots := Table.wf_put p.work.slots n x }

theorem scoreSlot_keeps (c : Clock) (n : Nat) (x : Slot) (d : SlotDay) (p : Part) : Keeps p (scoreSlot c n x d p) :=
  (setSlot_keeps p n _).trans (Keeps.ite (createOrReport_keeps c _ _) (Keeps.ite (raise_keeps c _ _) (.refl _)))

theorem scoreAll_keeps (c : Clock) (p : Part) : Keeps p (scoreAll c p) :=
  Keeps.foldl (fun q _ => Keeps.ite (scoreSlot_keeps c _ _ _ q) (.refl q)) _ p

theorem advanceRota_keeps (p : Part) : Keeps p (advanceRota p) := (Keeps.work {}).trans (ownWrite_keeps _ _)

theorem keepYesterday_keeps (r : DayRecord) (p : Part) : Keeps p (keepYesterday r p) := by
  unfold keepYesterday
  split
  · exact .refl p
  · exact {}

theorem rosterAtClose_keeps (p : Part) : Keeps p (rosterAtClose p) :=
  (ownWriteSome_keeps _ p).trans ((Keeps.work { slots := Table.wf_filter _ _ }).trans (ownWriteSome_keeps _ _))

theorem outboxAtClose_keeps (c : Clock) (p : Part) : Keeps p (outboxAtClose c p) :=
  (withdrawAll_frame c _ p).keeps.trans (Keeps.ite (.refl _) (raise_keeps c _ _))

theorem purgeExcuses_keeps (d : Date) (p : Part) : Keeps p (purgeExcuses d p) :=
  Keeps.ite (.refl p) ((Keeps.work { excuses := Nat.le_trans (List.length_filter_le _ _) }).trans (ownWrite_keeps _ _))

/-! ## Day open and day close -/

/-- The bells at day open take a copy of today, and the table is built from it (R25, R30). -/
def openBells (c : Clock) (t : Today) (p : Part) : Part :=
  buildRing c t c.second { p with bells.today := some t, bells.pendingDelay := 0 }

/-- The register made at day open (R74). -/
def openRegister (c : Clock) (t : Today) (p : Part) : Part := { p with reg.register := some (makeRegister c p.work t) }

/-- No slot has arrived yet (R110). -/
def forgetArrivals (p : Part) : Part := { p with desk.firstArrivals := [] }

/-- The register's end at day close (R95). -/
def dropRegister (p : Part) : Part := { p with reg.register := none }

/-- The end of the day's bells and first arrivals at day close (R25, R110). -/
def dropDay (p : Part) : Part := { p with bells.ring := [], bells.today := none, desk.firstArrivals := [] }

/-- Day open from today's copy on (R14). -/
def openWith (c : Clock) (t : Today) (p : Part) : Part :=
  activityAtOpen c (forgetArrivals (makeSweeps c t (openRegister c t (openBells c t p))))

/-- Day open as a chain of the blocks' responses. -/
theorem dayOpen_eq (c : Clock) (r : DayRecord) (n : Nat) (p : Part) :
    dayOpen c r n p = openWith c (copyToday c n (raise c (.dayOpen r.date n) { p with day := some { r with phase := .opened } }))
      (raise c (.dayOpen r.date n) { p with day := some { r with phase := .opened } }) := rfl

theorem openBells_keeps (c : Clock) {t : Today} {p : Part} (fits : RingBounded p → t.Fits) : Keeps p (openBells c t p) := by
  have copied : Keeps p { p with bells.today := some t, bells.pendingDelay := 0 } :=
    Keeps.bells (b := { p.bells with today := some t, pendingDelay := 0 }) rfl fun h =>
      ⟨h.ring, by rintro _ ⟨⟩; exact fits h⟩
  exact copied.trans (buildRing_keeps c _ fun h => h.fits rfl)

/-- The register made at day open has the keys of the slots. -/
theorem openRegister_keeps (c : Clock) (t : Today) (p : Part) : Keeps p (openRegister c t p) where
  tables := fun h => ⟨h.slots, h.contacts, h.storedSlots, h.storedContacts,
    by rintro _ ⟨⟩; exact Table.wf_map p.work.slots _ h.slots, h.arrivals⟩

theorem makeSweeps_keeps (c : Clock) (t : Today) (p : Part) : Keeps p (makeSweeps c t p) := {}

theorem forgetArrivals_keeps (p : Part) : Keeps p (forgetArrivals p) where
  tables := fun h => ⟨h.slots, h.contacts, h.storedSlots, h.storedContacts, h.register, rfl⟩

theorem openWith_keeps (c : Clock) {t : Today} {p : Part} (fits : RingBounded p → t.Fits) : Keeps p (openWith c t p) :=
  ((openBells_keeps c fits).trans ((openRegister_keeps c t _).trans (makeSweeps_keeps c t _))).trans
    ((forgetArrivals_keeps _).trans (activityAtOpen_keeps c _))

theorem dayOpen_keeps (c : Clock) (r : DayRecord) (n : Nat) (p : Part) : Keeps p (dayOpen c r n p) := by
  rw [dayOpen_eq]
  have told : Keeps p { p with day := some { r with phase := .opened } } := {}
  exact (told.trans (raise_keeps c _ _)).trans (openWith_keeps c fun h => copyAfresh_fits h.work _ _ _ _)

theorem tryOpen_keeps (c : Clock) (p : Part) : Keeps p (tryOpen c p) := by
  unfold tryOpen
  split
  · exact .refl p
  · split
    · exact Keeps.ite (dayOpen_keeps c _ _ p) (.refl p)
    · exact .refl p

theorem dropRegister_keeps (p : Part) : Keeps p (dropRegister p) where
  tables := fun h => ⟨h.slots, h.contacts, h.storedSlots, h.storedContacts, nofun, h.arrivals⟩

theorem dropDay_keeps (p : Part) : Keeps p (dropDay p) where
  ring := fun h => ⟨Nat.zero_le _, nofun, nofun, h.work, h.store⟩
  tables := fun h => ⟨h.slots, h.contacts, h.storedSlots, h.storedContacts, h.register, rfl⟩

theorem sweepsAtClose_keeps (p : Part) : Keeps p (sweepsAtClose p) := {}

theorem dayClose_keeps (c : Clock) (r : DayRecord) (p : Part) : Keeps p (dayClose c r p) := by
  unfold dayClose
  extract_lets p1 p2 p3 ended p4 p5 p6
  have told : Keeps p p2 := (show Keeps p p1 from {}).trans ((advanceRota_keeps p1).trans (raise_keeps c _ _))
  have scored : Keeps p2 p3 := (scoreAll_keeps c p2).trans (keepYesterday_keeps r _)
  have written : Keeps p3 p4 := (dropRegister_keeps p3).trans (rosterAtClose_keeps _)
  have purged : Keeps p4 p5 := (outboxAtClose_keeps c p4).trans (purgeExcuses_keeps r.date _)
  have swept : Keeps p5 p6 := sweepsAtClose_keeps p5
  exact ((told.trans scored).trans (written.trans (purged.trans swept))).trans
    ((dropDay_keeps p6).trans (activityAtClose_keeps c _))

theorem closeNow_keeps (c : Clock) (p : Part) : Keeps p (closeNow c p) := by
  unfold closeNow
  split
  · exact Keeps.ite (dayClose_keeps c _ p) (.refl p)
  · exact .refl p

theorem evaluateAndTest_keeps (c : Clock) (p : Part) : Keeps p (evaluateAndTest c p) := by
  unfold evaluateAndTest
  split
  · exact .refl p
  · exact (show Keeps p (evaluate _ p) from {}).trans ((tryOpen_keeps c _).trans (closeNow_keeps c _))

theorem tryClose_keeps (c : Clock) (p : Part) : Keeps p (tryClose c p) := by
  unfold tryClose
  split
  · exact .refl p
  · exact Keeps.ite ((dayClose_keeps c _ p).trans (evaluateAndTest_keeps c _)) (closeNow_keeps c p)

theorem dayTests_keeps (c : Clock) (p : Part) : Keeps p (dayTests c p) := (tryOpen_keeps c p).trans (tryClose_keeps c _)

theorem midnightDay_keeps (c : Clock) (p : Part) : Keeps p (midnightDay c p) := by
  unfold midnightDay
  split
  · exact evaluateAndTest_keeps c p
  · exact Keeps.ite ((dayClose_keeps c _ p).trans (evaluateAndTest_keeps c _)) (.refl p)

theorem midnight_keeps (c : Clock) (p : Part) : Keeps p (midnight c p) :=
  (midnightDay_keeps c p).trans (Keeps.ite (resumeReached_keeps _) (.refl _))

/-! ## Advances of the clock -/

theorem wakeTimeAmong_keeps (c : Clock) (a b : Nat) (p : Part) : Keeps p (wakeTimeAmong c a b p) := by
  unfold wakeTimeAmong
  split
  · exact .refl p
  · exact Keeps.ite (setFlag_keeps c .time p) (.refl p)

theorem resumeAmong_keeps (a b : Nat) (p : Part) : Keeps p (resumeAmong a b p) := by
  unfold resumeAmong
  split
  · exact .refl p
  · exact Keeps.ite (resumeReached_keeps p) (.refl p)

theorem reachSeconds_keeps (c : Clock) (a b : Nat) {ring : Part → Part} (h : ∀ q, Keeps q (ring q)) (p : Part) :
    Keeps p (reachSeconds c a b ring p) :=
  (tryOpen_keeps c p).trans ((h _).trans ((startDue_keeps c _).trans ((eligibleReached_keeps c _).trans
    ((resumeAmong_keeps a b _).trans ((wakeTimeAmong_keeps c a b _).trans (tryClose_keeps c _))))))

theorem stepped_keeps (c : Clock) (old new : Nat) (p : Part) : Keeps p (stepped c old new p) :=
  Keeps.ite (reachSeconds_keeps c _ _ (stepRing_keeps c old new) p) (dayTests_keeps c p)

theorem dateChanged_keeps (c : Clock) (forward : Bool) (p : Part) : Keeps p (dateChanged c forward p) :=
  Keeps.ite ((eligibleReached_keeps c p).trans (Keeps.ite (resumeReached_keeps _) (.refl _))) (.refl p)

theorem afterTick_keeps (c : Clock) (a : Advance) (p : Part) : Keeps p (afterTick c a p) := by
  cases a with
  | within => exact .refl p
  | second => exact reachSeconds_keeps c _ _ (reachAt_keeps c _) p
  | midnight => exact (midnight_keeps c p).trans (eligibleReached_keeps c _)

theorem changeDate_keeps (c : Clock) (x : Reading) (d : Date) (s : Nat) (p : Part) : Keeps p (changeDate c x d s p).2.1 := by
  have told : Keeps p (raise (c.at d s) (.clockStep ⟨x.date, x.second⟩ ⟨d, s⟩) p) := raise_keeps _ _ p
  exact (told.trans (dateChanged_keeps (c.at d s) (decide (x.date < d)) _)).trans (evaluateAndTest_keeps (c.at d s) _)

theorem setTime_keeps (c : Clock) (d : DateField) (t : TimeField) (force : Bool) (p : Part) :
    Keeps p (setTime c d t force p).2.1 := by
  unfold setTime
  split
  case h_2 => exact .refl p
  case h_1 date sec _ _ =>
    split
    case h_1 => exact evaluateAndTest_keeps (c.at date sec) p
    case h_2 x _ =>
      split
      · unfold setSameDate
        dsimp only
        split
        · exact .refl p
        · exact (raise_keeps _ _ p).trans (stepped_keeps _ _ _ _)
      · unfold setOtherDate
        split
        · exact changeDate_keeps c x date sec p
        · split
          · exact (dayClose_keeps c _ p).trans (changeDate_keeps c x date sec _)
          · exact .refl p

/-! ## The register's rebuilds and enrolments -/

/-- Rebuilt records stand under the keys of the slots (R94, R96). -/
theorem renewSlots_keys (mk : Nat → List Mark → List Mark) (old : Table SlotDay) (q : Nat) (l : Table Slot) :
    (renewSlots mk old q l).1.map (·.1) = l.map (·.1) := by
  induction l generalizing q with
  | nil => rfl
  | cons e l ih => exact congrArg (e.1 :: ·) (ih _)

/-- The canonical form is a matter of the keys alone. -/
theorem Table.wf_of_keys {α β : Type} {t : Table α} {u : Table β} (same : u.map (·.1) = t.map (·.1)) (h : Table.wf t = true) :
    Table.wf u = true := by
  rw [Table.wf_iff] at h ⊢
  have rising : (t.map (·.1)).Pairwise (· < ·) := List.pairwise_map.mpr h
  rw [← same] at rising
  exact List.pairwise_map.mp rising

/-- A rebuild of the register over the slots keeps: its table has their keys. -/
theorem renew_keeps (p : Part) (periods : List MarkedPeriod) (state : Register → RegisterState) (mk : Nat → List Mark → List Mark) :
    Keeps p (p.onRegister (fun g => g.renew p.work.slots periods (state g) mk)) where
  tables := fun h => by
    refine ⟨h.slots, h.contacts, h.storedSlots, h.storedContacts, fun g e => ?_, h.arrivals⟩
    obtain ⟨old, _, rfl⟩ := Option.map_eq_some_iff.mp e
    exact Table.wf_of_keys (renewSlots_keys mk _ _ _) h.slots

theorem registerAfterPlan_keeps (c : Clock) (t : Today) (p : Part) : Keeps p (registerAfterPlan c t p) := by
  unfold registerAfterPlan
  split
  · exact .refl p
  · dsimp only
    refine (renew_keeps p _ (·.state) _).trans (Keeps.ite ?_ (.refl _))
    exact Keeps.foldl (fun q n => (withdrawFor_frame c .absence n .pm q).keeps) _ _

theorem registerAfterRestart_keeps (c : Clock) (t : Today) (p : Part) : Keeps p (registerAfterRestart c t p) :=
  (renew_keeps p _ (fun _ => .recovery) _).trans (withdrawAll_frame c _ _).keeps

theorem forgetArrival_keeps (n : Nat) (p : Part) : Keeps p (forgetArrival n p) where
  tables := fun h => ⟨h.slots, h.contacts, h.storedSlots, h.storedContacts, h.register, Table.wf_erase _ n h.arrivals⟩

theorem enrolToday_keeps (c : Clock) (n z : Nat) (p : Part) : Keeps p (enrolToday c n z p) := by
  unfold enrolToday
  split
  · refine Keeps.trans (onRegister_keeps ?_ p) (forgetArrival_keeps n _)
    exact fun g h => Table.wf_put g.slots n _ h
  · exact .refl p

theorem reinstateToday_keeps (c : Clock) (n : Nat) (p : Part) : Keeps p (reinstateToday c n p) := by
  unfold reinstateToday
  split
  · exact .refl p
  · refine Keeps.ite (.refl p) (onRegister_keeps ?_ p)
    exact fun g h => Table.wf_put g.slots n _ h

theorem timesChanged_keeps (c : Clock) (before after : Today) (p : Part) : Keeps p (timesChanged c before after p) :=
  (cancellationWrites_frame c before after p).keeps.trans ((sweepsAfterTimes_keeps c after _).trans (tryClose_keeps c _))

/-! ## What leaves the desk's queue and stations -/

/-- Everything is kept, and the queue and the stations stand as they were. -/
structure DeskKeeps (p q : Part) : Prop extends Keeps p q where
  waiting : q.desk.queue = p.desk.queue := by exact rfl
  stations : q.desk.stations = p.desk.stations := by exact rfl

theorem DeskKeeps.refl (p : Part) : DeskKeeps p p := { Keeps.refl p with }

theorem DeskKeeps.trans {p q r : Part} (a : DeskKeeps p q) (b : DeskKeeps q r) : DeskKeeps p r :=
  { a.toKeeps.trans b.toKeeps with waiting := b.waiting.trans a.waiting, stations := b.stations.trans a.stations }

theorem DeskKeeps.foldl {β : Type} {f : Part → β → Part} (h : ∀ p b, DeskKeeps p (f p b)) (l : List β) (p : Part) :
    DeskKeeps p (l.foldl f p) := by
  induction l generalizing p with
  | nil => exact .refl p
  | cons b l ih => exact (h p b).trans (ih _)

theorem DeskKeeps.ite {p a b : Part} {φ : Prop} [Decidable φ] (yes : DeskKeeps p a) (no : DeskKeeps p b) :
    DeskKeeps p (if φ then a else b) := by
  split
  · exact yes
  · exact no

theorem OutboxFrame.deskKeeps {p q : Part} (h : OutboxFrame p q) : DeskKeeps p q :=
  { h.keeps with waiting := congrArg Desk.queue h.desk, stations := congrArg Desk.stations h.desk }

theorem ownWrite_desk (items : List StoreItem) (p : Part) : (ownWrite items p).desk = p.desk := by
  unfold ownWrite
  split <;> rfl

/-! ## Excuses -/

theorem useExcuse_keeps (n : Nat) (k : ExcuseKind) (d : Date) (p : Part) : DeskKeeps p (useExcuse n k d p) := by
  have marked : Keeps p { p with work.excuses := markUsed n k d p.work.excuses } :=
    Keeps.work { excuses := fun h => by unfold markUsed; rw [List.length_map]; exact h }
  exact { marked.trans (ownWrite_keeps _ _) with
    waiting := congrArg Desk.queue (ownWrite_desk _ _), stations := congrArg Desk.stations (ownWrite_desk _ _) }

theorem excuseAbsence_keeps (c : Clock) (w : Writer) (n : Nat) (x : Reg) (p : Part) : Keeps p (excuseAbsence c w n x p) := by
  unfold excuseAbsence
  split
  · exact .refl p
  · exact Keeps.ite (writeMark_keeps c _ _ _ p) (.refl p)

theorem noticeIfOnSite_keeps (c : Clock) (n : Nat) (p : Part) : Keeps p (noticeIfOnSite c n p) := by
  unfold noticeIfOnSite
  split
  · exact .refl p
  · exact Keeps.ite (raise_keeps c _ p) (.refl p)

theorem excuseLate_keeps (c : Clock) (w : Writer) (a n : Nat) (x : Reg) (p : Part) : Keeps p (excuseLate c w a n x p).1 := by
  unfold excuseLate
  split
  · exact .refl p
  · split
    · exact writeMark_keeps c _ _ _ p
    · exact .refl p

theorem sameDayEffect_keeps (c : Clock) (w : Writer) (e : Excuse) (p : Part) : Keeps p (sameDayEffect c w e p) := by
  unfold sameDayEffect
  split
  · exact .refl p
  · refine Keeps.ite ?_ (.refl p)
    split
    · exact (excuseAbsence_keeps c w _ .am p).trans ((excuseAbsence_keeps c w _ .pm _).trans (noticeIfOnSite_keeps c _ _))
    · exact ((excuseLate_keeps c w _ _ .am p).trans (excuseLate_keeps c w _ _ .pm _)).trans
        (Keeps.ite (useExcuse_keeps _ _ _ _).toKeeps (.refl _))

/-- A record put adds at most one place, and none where it replaces one (R146). -/
theorem putExcuse_length (e : Excuse) (l : List Excuse) :
    (putExcuse e l).length ≤ l.length + 1 ∧ (l.any (Excuse.isFor e.slot e.kind e.date) = true → (putExcuse e l).length ≤ l.length) := by
  unfold putExcuse
  rw [List.length_append, List.length_singleton]
  refine ⟨Nat.succ_le_succ (List.length_filter_le _ _), fun held => ?_⟩
  obtain ⟨a, mem, same⟩ := List.any_eq_true.mp held
  refine List.length_filter_lt_length_iff_exists.mpr ⟨a, mem, ?_⟩
  rw [same]
  exact Bool.false_ne_true

/-! ## The sweep -/

theorem completeSweep_keeps (c : Clock) (x : Reg) (p : Part) : Keeps p (completeSweep c x p) := by
  unfold completeSweep
  split
  · exact .refl p
  · exact (show Keeps p (onSweep x _ p) from {}).trans (raise_keeps c _ _)

theorem advanceCursor_keeps (c : Clock) (x : Reg) (p : Part) : Keeps p (advanceCursor c x p) := by
  unfold advanceCursor
  split
  · exact .refl p
  · exact (show Keeps p (onSweep x _ p) from {}).trans (Keeps.ite (completeSweep_keeps c x _) (.refl _))

theorem sweepUnset_keeps (c : Clock) (x : Reg) (n : Nat) (y : Slot) (k : Nat) (d : Date) (p : Part) :
    Keeps p (sweepUnset c x n y k d p) := by
  have notified : ∀ q, Keeps q (advanceCursor c x (sweepNotified c x n k q)) := fun q =>
    ((writeMark_keeps c _ n k q).trans (setNotice_keeps n x .pending _)).trans
      ((show Keeps _ (onSweep x _ _) from {}).trans (advanceCursor_keeps c x _))
  have asked := create_keeps c (absenceRequest p n y x) p
  unfold sweepUnset
  refine Keeps.ite ?_ (Keeps.ite ?_ ?_)
  · exact ((writeMark_keeps c _ n k p).trans (useExcuse_keeps n _ d _).toKeeps).trans
      ((show Keeps _ (onSweep x _ _) from {}).trans (advanceCursor_keeps c x _))
  · split
    case h_1 q e => rw [e] at asked; exact asked.trans {}
    case h_2 q _ e => rw [e] at asked; exact asked.trans (notified q)
    case h_3 q e => rw [e] at asked; exact asked.trans (notified q)
  · exact ((writeMark_keeps c _ n k p).trans (raise_keeps c _ _)).trans
      ((show Keeps _ (onSweep x _ _) from {}).trans (advanceCursor_keeps c x _))

theorem sweepOnce_keeps (c : Clock) (x : Reg) (p : Part) : Keeps p (sweepOnce c x p) := by
  unfold sweepOnce
  split
  · refine Keeps.ite ?_ (.refl p)
    unfold sweepTake
    split
    · exact Keeps.ite (sweepUnset_keeps c x _ _ _ _ p) (advanceCursor_keeps c x p)
    · exact advanceCursor_keeps c x p
  · exact .refl p

/-! ## An arrival -/

theorem absenceDayAtArrival_keeps (c : Clock) (a : Arrival) (d : Date) (p : Part) : DeskKeeps p (absenceDayAtArrival c a d p) := by
  unfold absenceDayAtArrival
  split
  · exact .refl p
  · exact (useExcuse_keeps a.slot .absenceDay d p).trans (raise_frame c _ _).deskKeeps

theorem excuseStage_keeps (c : Clock) (a : Arrival) (d : Date) (r : Classified) (p : Part) : DeskKeeps p (excuseStage c a d r p) :=
  (DeskKeeps.ite (φ := r.cls = .excused) (useExcuse_keeps a.slot .lateAllowance d p) (.refl p)).trans
    (absenceDayAtArrival_keeps c a d _)

theorem lessonStage_keeps (c : Clock) (a : Arrival) (excused : Bool) (x : Part × Bool) (m : MarkedPeriod) :
    DeskKeeps x.1 (lessonStage c a excused x m).1 := by
  unfold lessonStage
  split
  · exact .refl _
  · split
    · split
      · exact .refl _
      · split
        · exact (writeMark_frame c _ _ _ _).deskKeeps
        · exact .refl _
    · exact .refl _

theorem foldl_lessonStage_keeps (c : Clock) (a : Arrival) (excused : Bool) (l : List MarkedPeriod) (x : Part × Bool) :
    DeskKeeps x.1 (l.foldl (lessonStage c a excused) x).1 := by
  induction l generalizing x with
  | nil => exact .refl _
  | cons m l ih => exact (lessonStage_keeps c a excused x m).trans (ih _)

theorem lateStage_keeps (c : Clock) (a : Arrival) (r : Classified) (p : Part) : DeskKeeps p (lateStage c a r p) := by
  unfold lateStage
  split
  · exact DeskKeeps.ite (createOrReport_frame c _ p).deskKeeps (.refl p)
  · exact .refl p

theorem registrationStage_keeps (c : Clock) (a : Arrival) (q : Option Chosen) (r : Classified) (p : Part) :
    DeskKeeps p (registrationStage c a q r p).1 := by
  cases q with
  | none => exact .refl p
  | some q => exact (writeMark_frame c _ _ _ p).deskKeeps

theorem classify_keeps (c : Clock) (a : Arrival) (d : Date) (p : Part) : DeskKeeps p (classify c a d p).1 := by
  unfold classify
  exact (excuseStage_keeps c a d _ p).trans ((registrationStage_keeps c a _ _ _).trans ((foldl_lessonStage_keeps c a _ _ _).trans
    (DeskKeeps.ite (lateStage_keeps c a _ _) (.refl _))))

theorem rememberArrival_keeps (n t : Nat) (p : Part) :
    DeskKeeps p { p with desk.firstArrivals := Table.put p.desk.firstArrivals n t } where
  tables := fun h => ⟨h.slots, h.contacts, h.storedSlots, h.storedContacts, h.register, Table.wf_put _ n t h.arrivals⟩

theorem firstArrival_keeps (c : Clock) (a : Arrival) (d : Date) (p : Part) : DeskKeeps p (firstArrival c a d p).1 := by
  unfold firstArrival
  extract_lets x q
  have moved : DeskKeeps x.1 q := DeskKeeps.ite (movePresence_frame a.slot .onSite _).deskKeeps (.refl _)
  exact (classify_keeps c a d p).trans (moved.trans (rememberArrival_keeps a.slot a.time q))

theorem returnStage_keeps (c : Clock) (a : Arrival) (p : Part) (m : MarkedPeriod) : DeskKeeps p (returnStage c a p m) := by
  unfold returnStage
  split
  · split
    · exact .refl p
    · exact (writeMark_frame c _ _ _ p).deskKeeps
  · exact .refl p

theorem offsiteStage_keeps (c : Clock) (a : Arrival) (p : Part) (m : MarkedPeriod) : DeskKeeps p (offsiteStage c a p m) := by
  unfold offsiteStage
  split
  · exact DeskKeeps.ite (writeMark_frame c _ _ _ p).deskKeeps (.refl p)
  · exact .refl p

theorem processPupil_keeps (c : Clock) (e : QueueEntry) (a : Arrival) (d : Date) (p : Part) :
    DeskKeeps p (processPupil c e a d p).1 := by
  unfold processPupil
  split
  · exact firstArrival_keeps c a d p
  · exact .refl p
  · exact (movePresence_frame a.slot .onSite p).deskKeeps.trans (DeskKeeps.foldl (returnStage_keeps c a) _ _)
  · exact (movePresence_frame a.slot .signedOut p).deskKeeps.trans
      (DeskKeeps.ite (raise_frame c _ _).deskKeeps (DeskKeeps.foldl (offsiteStage_keeps c a) _ _))
  · exact .refl p
  · exact .refl p

theorem processEntry_keeps (c : Clock) (e : QueueEntry) (p : Part) : DeskKeeps p (processEntry c e p).1 := by
  unfold processEntry
  split
  · split
    · split
      · exact .refl p
      · unfold processKnown
        split
        · exact (raise_frame c _ p).deskKeeps
        · exact processPupil_keeps c e _ _ p
    · exact .refl p
  · exact .refl p

end Sys2Proof.Machine
end

section
/-!
What the desk, the store's load, a restart and the alerts keep (R72, R98 to R114, R158, R179 to R187, R194).
-/

-- One declaration after another: the text is compiled as one, and a declaration that waits for others holds a thread.
set_option Elab.async false

namespace Sys2Proof.Machine

/-! ## Stations -/

/-- Station k after station n has been changed. -/
theorem station_onStation (n k : Nat) (f : Station → Station) (p : Part) :
    (onStation n f p).station k = if n = k ∧ k < 4 then f (p.station n) else p.station k := by
  unfold onStation Part.station Vector.getD
  by_cases bound : k < 4
  · by_cases same : n = k
    · simp [same, bound]
    · simp [same, bound]
  · simp [bound]

/-- Stations with no more slips than before. -/
theorem Keeps.stations {p : Part} {v : Vector Station 4}
    (h : ∀ n, (v.getD n Station.absent).slips.length ≤ (p.station n).slips.length) : Keeps p { p with desk.stations := v } where
  queue := fun bound => ⟨bound.1, fun n => (Nat.add_le_add_left (h n) _).trans (bound.2 n)⟩

theorem onStation_keeps (n : Nat) {f : Station → Station} {p : Part}
    (h : (f (p.station n)).slips.length ≤ (p.station n).slips.length) : Keeps p (onStation n f p) := by
  refine Keeps.stations fun k => ?_
  have after := station_onStation n k f p
  unfold Part.station onStation at after
  rw [show Vector.getD _ k Station.absent = _ from after]
  split
  case isTrue same => rw [← same.1]; exact h
  case isFalse => exact le_rfl

/-- A table of stations made station by station, each with no more slips than before. -/
theorem stations_ofFn_keeps {p : Part} {f : Nat → Station → Station}
    (h : ∀ n, (f n (p.station n)).slips.length ≤ (p.station n).slips.length) :
    Keeps p { p with desk.stations := Vector.ofFn (fun i => f i.val (p.station i.val)) } := by
  refine Keeps.stations fun n => ?_
  by_cases bound : n < 4
  · simpa [Vector.getD, bound] using h n
  · simp [Vector.getD, bound, Station.absent]

theorem setStations_keeps (l : List Nat) (p : Part) : Keeps p (setStations l p) := by
  refine Keeps.trans (stations_ofFn_keeps (f := fun i s => Station.under (l.contains i) s) fun n => ?_) {}
  unfold Station.under
  split
  · split
    · exact Nat.zero_le _
    · exact le_rfl
  · exact Nat.zero_le _

theorem sendPoll_keeps (n : Nat) (rest : List Nat) (p : Part) : Keeps p (sendPoll n rest p) := by
  unfold sendPoll
  extract_lets s q q'
  have polled : Keeps p q := {}
  have acknowledged : Keeps q q' := onStation_keeps n le_rfl
  have asked : Keeps q' { q' with desk.toPoll := rest, desk.asking := some ⟨n, !s.slips.isEmpty, s.isAbsent⟩ } := {}
  exact (polled.trans acknowledged).trans asked

theorem nextExchange_keeps (p : Part) : Keeps p (nextExchange p) := by
  unfold nextExchange
  split
  · exact {}
  · exact sendPoll_keeps _ _ p

theorem cycleBegins_keeps (c : Clock) (p : Part) : Keeps p (cycleBegins c p) :=
  Keeps.ite ((show Keeps p { p with desk.cycleStart := _, desk.cycleNext := _, desk.toPoll := _ } from {}).trans
    (nextExchange_keeps _)) (.refl p)

theorem exchangeWith_keeps (n : Nat) {f : Exchange → Part → Part} (h : ∀ x q, Keeps q (f x q)) (p : Part) :
    Keeps p (exchangeWith n f p) := by
  unfold exchangeWith
  split
  · exact .refl p
  · exact Keeps.ite ((Keeps.ite (.refl p) (h _ p)).trans (nextExchange_keeps _)) (.refl p)

theorem noCall_keeps (n : Nat) (p : Part) : Keeps p (noCall n p) := onStation_keeps n le_rfl

theorem missOutcome_keeps (c : Clock) (n : Nat) (p : Part) : Keeps p (missOutcome c n p) := by
  unfold missOutcome
  extract_lets s quiet
  have q : Keeps p quiet := onStation_keeps n le_rfl
  split
  · exact Keeps.ite (q.trans (onStation_keeps n le_rfl)) (q.trans ((onStation_keeps n le_rfl).trans (raise_keeps c _ _)))
  · exact q
  · exact q

theorem anyAnswer_keeps (c : Clock) (n : Nat) (p : Part) : Keeps p (anyAnswer c n p) :=
  (onStation_keeps n le_rfl).trans (Keeps.ite (raise_keeps c _ _) (.refl _))

theorem goodAnswer_keeps (c : Clock) (n : Nat) (x : Exchange) (p : Part) : Keeps p (goodAnswer c n x p) := by
  refine (anyAnswer_keeps c n p).trans (Keeps.trans (onStation_keeps n ?_) (Keeps.ite (raise_keeps c _ _) (.refl _)))
  dsimp only
  split
  · rw [List.length_tail]; exact Nat.sub_le _ _
  · exact le_rfl

theorem faultAnswer_keeps (c : Clock) (n : Nat) (f : StationFault) (p : Part) : Keeps p (faultAnswer c n f p) :=
  ((anyAnswer_keeps c n p).trans (noCall_keeps n _)).trans
    ((onStation_keeps n le_rfl).trans (Keeps.ite (.refl _) (raise_keeps c _ _)))

theorem callAnswer_keeps (c : Clock) (n : Nat) (p : Part) : Keeps p (callAnswer c n p) :=
  Keeps.trans (onStation_keeps n le_rfl) (Keeps.ite
    (((onStation_keeps n le_rfl).trans (raise_keeps c _ _)).trans (setFlag_keeps c .call _)) (.refl _))

/-! ## Entries and slips -/

/-- An entry taken finds a place in the queue and among its station's (R103). -/
theorem entryAnswer_keeps (c : Clock) (n tag : Nat) (kind : EntryKind) (number : Text) (reason : Nat) (p : Part) :
    Keeps p (entryAnswer n tag ⟨n, tag, kind, number, reason, c.stamp⟩ p) := by
  unfold entryAnswer
  refine Keeps.ite (onStation_keeps n le_rfl) (Keeps.ite (.refl p) ?_)
  split
  case isTrue => exact .refl p
  case isFalse room =>
    obtain ⟨place, share⟩ := not_or.mp room
    have place : p.desk.queue.length < 32 := Nat.not_le.mp place
    have share : p.stationLoad n < 8 := Nat.not_le.mp share
    refine Keeps.trans { queue := fun bound => ⟨?_, fun k => ?_⟩ } (onStation_keeps n le_rfl)
    · show (p.desk.queue ++ [_]).length ≤ 32
      rw [List.length_append, List.length_singleton]
      exact place
    · have held : p.stationLoad k ≤ 8 := bound.2 k
      unfold Part.stationLoad at held share
      show (List.filter _ (p.desk.queue ++ [_])).length + (p.station k).slips.length ≤ 8
      rw [List.filter_append, List.length_append, List.filter_singleton]
      by_cases same : n = k
      · subst same
        simp only [beq_self_eq_true, cond_true, List.length_singleton]
        omega
      · rw [beq_eq_false_iff_ne.mpr same]
        exact held

/-- A slip given takes the place of the entry it is for (R103, R104). -/
theorem processHead_keeps (c : Clock) (p : Part) : Keeps p (processHead c p) := by
  unfold processHead
  split
  case h_1 => exact .refl p
  case h_2 e rest front =>
    extract_lets desk q x
    have processed : DeskKeeps q x.1 := processEntry_keeps c e q
    have shorter : rest.Sublist p.desk.queue := front ▸ List.sublist_cons_self e rest
    have before : Keeps p q := {
      queue := fun bound => ⟨shorter.length_le.trans bound.1,
        fun n => (Nat.add_le_add_right (shorter.filter _).length_le _).trans (bound.2 n)⟩ }
    have all := before.trans processed.toKeeps
    unfold giveSlip
    split
    · exact all
    · refine { alert := all.alert, notices := all.notices, inflight := all.inflight, outbox := all.outbox
               ring := fun h => ?_, queue := fun bound => ⟨?_, fun n => ?_⟩, excuses := all.excuses
               exceptions := all.exceptions, tables := fun h => ?_ }
      · exact ⟨(all.ring h).ring, (all.ring h).zones, (all.ring h).plan, (all.ring h).work, (all.ring h).store⟩
      · exact (all.queue bound).1
      · have loaded := (all.queue bound).2 n
        have held := bound.2 n
        unfold Part.stationLoad at loaded held ⊢
        rw [station_onStation]
        split
        case isTrue here =>
          obtain ⟨rfl, _⟩ := here
          have slips : (x.1.station e.station).slips = (p.station e.station).slips := by
            unfold Part.station
            rw [processed.stations]
          show (x.1.desk.queue.filter (fun a => a.station == e.station)).length
            + ((x.1.station e.station).slips ++ [slipOf c q e x.2]).length ≤ 8
          rw [processed.waiting, List.length_append, slips, List.length_singleton]
          rw [front, List.filter_cons, if_pos (beq_self_eq_true _), List.length_cons] at held
          exact (Nat.succ_add_eq_add_succ _ _).symm.trans_le held
        case isFalse => exact loaded
      · have t := all.tables h
        exact ⟨t.slots, t.contacts, t.storedSlots, t.storedContacts, t.register, t.arrivals⟩

/-! ## Loading -/

theorem fresh_plansBounded : Image.fresh.PlansBounded := by
  intro n
  have plan : Image.fresh.plan n = Plan.fresh n := by
    by_cases bound : n < 8
    · simp [Image.plan, Image.fresh, Vector.getD, bound]
    · simp [Image.plan, Image.fresh, Vector.getD, bound]
  rw [plan]
  show 2 ≤ 14
  decide

theorem goodExcuses_length (bad : List StoreItem) (l : List Excuse) : (goodExcuses bad l).length ≤ l.length := by
  unfold goodExcuses
  rw [List.length_map]
  exact (List.length_filter_le _ _).trans_eq List.length_zipIdx

theorem lastOfEach_sublist (l : List Excuse) : (lastOfEach l).Sublist l := by
  induction l with
  | nil => exact .slnil
  | cons e l ih =>
    unfold lastOfEach
    split
    · exact ih.cons e
    · exact ih.cons_cons e

theorem dropRepeated_sublist (seen : List Nat) (l : Table Slot) : (dropRepeated seen l).Sublist l := by
  induction l generalizing seen with
  | nil => exact .slnil
  | cons e l ih =>
    unfold dropRepeated
    split
    · exact (ih _).cons e
    · exact (ih _).cons_cons e

theorem vacateLeft_sublist (keep : Bool) (l : Table Slot) : (vacateLeft keep l).Sublist l := by
  unfold vacateLeft
  split
  · exact .refl l
  · exact List.filter_sublist

/-- The defaults of a load keep what stands in the image (R72). -/
theorem defaulted_keeps (bad : List StoreItem) (img : Image) : ImageKeeps img (defaulted bad img) where
  plans := fun h => foldl_copyItem_keeps (copyItem_plansBounded fresh_plansBounded) _ h
  excuses := fun h => (goodExcuses_length bad img.excuses).trans h
  exceptions := fun h => foldl_copyItem_keeps (P := fun i => i.exceptions.length ≤ _) (copyItem_exceptions_length (Nat.zero_le _)) _ h
  slots := fun h => foldl_copyItem_keeps (P := fun i => Table.wf i.slots = true) (copyItem_slots_wf Image.fresh) _ h
  contacts := fun h => foldl_copyItem_keeps (P := fun i => Table.wf i.contacts = true) (copyItem_contacts_wf Image.fresh) _ h

theorem load_store_keeps (bad : List StoreItem) (keep : Bool) (store : Image) : ImageKeeps store (load bad keep store).store :=
  (defaulted_keeps _ store).trans { slots := Table.wf_sublist (vacateLeft_sublist keep _) }

theorem load_work_keeps (bad : List StoreItem) (keep : Bool) (store : Image) : ImageKeeps store (load bad keep store).work :=
  (defaulted_keeps _ store).trans {
    excuses := Nat.le_trans ((lastOfEach_sublist _).length_le.trans (List.length_filter_le _ _))
    slots := Table.wf_sublist ((vacateLeft_sublist keep _).trans (dropRepeated_sublist [] _)) }

/-! ## Cold start -/

/-- After a cold start no entry and no slip waits (R98, R103). -/
theorem reset_queueBounded (store work : Image) (d : Nat) : QueueBounded (Part.reset store work d) := by
  refine ⟨Nat.zero_le _, fun n => ?_⟩
  have slips : ((Part.reset store work d).station n).slips = [] := by
    by_cases bound : n < 4
    · simp only [Part.reset, Part.station, Desk.reset, stationsReset, Vector.getD]
      by_cases listed : n ∈ work.stations <;> simp [listed, bound, Station.fresh, Station.absent]
    · simp [Part.reset, Part.station, Desk.reset, Vector.getD, bound, Station.absent]
  unfold Part.stationLoad
  rw [slips]
  exact Nat.zero_le _

/-- Whatever the images hold stands after a cold start: every list is empty or holds one notice, and no alert stands. -/
theorem reset_keeps {p : Part} {store work : Image} (d : Nat) (s : ImageKeeps p.store store) (w : ImageKeeps p.store work) :
    Keeps p (Part.reset store work d) where
  alert := fun _ => nofun
  notices := fun _ => show 1 ≤ 32 by decide
  inflight := fun _ => Nat.zero_le _
  outbox := fun _ => Nat.zero_le _
  ring := fun h => ⟨Nat.zero_le _, nofun, nofun, w.plans h.store, s.plans h.store⟩
  queue := fun _ => reset_queueBounded store work d
  excuses := fun h => ⟨w.excuses h.2, s.excuses h.2⟩
  exceptions := fun h => ⟨w.exceptions h.2, s.exceptions h.2⟩
  tables := fun h => ⟨w.slots h.storedSlots, w.contacts h.storedContacts, s.slots h.storedSlots, s.contacts h.storedContacts,
    nofun, rfl⟩

/-! ## Warm restart -/

theorem reload_keeps (c : Clock) (bad : List StoreItem) (p : Part) : Keeps p (reload c bad p) := by
  have w := load_work_keeps bad p.isOpen p.store
  have s := load_store_keeps bad p.isOpen p.store
  refine Keeps.trans ?_ (raise_keeps c _ _)
  exact { ring := fun h => ⟨h.ring, h.zones, h.plan, w.plans h.store, s.plans h.store⟩
          excuses := fun h => ⟨w.excuses h.2, s.excuses h.2⟩
          exceptions := fun h => ⟨w.exceptions h.2, s.exceptions h.2⟩
          tables := fun h => ⟨w.slots h.storedSlots, w.contacts h.storedContacts, s.slots h.storedSlots,
            s.contacts h.storedContacts, h.register, h.arrivals⟩ }

theorem restartLink_keeps (c : Clock) (p : Part) : Keeps p (restartLink c p) := (setActivity_keeps c _ p).trans {}

theorem restartDesk_keeps (p : Part) : Keeps p (restartDesk p) := by
  have restarted := stations_ofFn_keeps (p := p) (f := fun i s => Station.restarted (p.work.stations.contains i) s) fun n => by
    unfold Station.restarted
    split
    · split <;> exact Nat.zero_le _
    · exact Nat.zero_le _
  exact restarted.trans
    { queue := fun bound => ⟨Nat.zero_le _, fun n => (Nat.add_le_add_right (Nat.zero_le _) _).trans (bound.2 n)⟩ }

theorem restartZones_keeps (p : Part) : Keeps p (restartZones p) where
  alert := fun silent alert z bound => by
    have state : (restartZones p).zoneState z = restartedZone p z := by
      simp [Part.zoneState, restartZones, Vector.getD, bound]
    rw [state]
    unfold restartedZone
    split
    · split
      case h_1 s held => exact held ▸ silent alert z bound
      case h_2 => exact quiet_newZoneState alert
    · exact ⟨nofun, nofun⟩

theorem restartRegister_keeps (c : Clock) (before after : Today) (p : Part) : Keeps p (restartRegister c before after p) := by
  have kept : Keeps p (p.onRegister (fun g => { g.keepSlots p.work.slots with exporting := none })) :=
    onRegister_keeps (fun g h => Table.wf_filter g.slots _ h) p
  refine kept.trans (Keeps.ite ?_ ?_)
  · exact (cancellationWrites_frame c before after _).keeps.trans (sweepsAfterTimes_keeps c after _)
  · exact (registerAfterRestart_keeps c after _).trans (makeSweeps_keeps c after _)

theorem restartDay_keeps (c : Clock) (p : Part) : Keeps p (restartDay c p) := by
  unfold restartDay
  split
  · exact (rebuildRing_keeps c fun h => copyAfresh_fits h.work _ _ _ _).trans (restartRegister_keeps c _ _ _)
  · exact .refl p

/-- The close of an offer frees its place (R165). -/
theorem closeOffer_keeps (p : Part) : Keeps p (closeOffer p) where
  inflight := fun bound => Nat.le_trans (Nat.le_add_right _ _) bound

theorem restartPart_keeps (c : Clock) (bad : List StoreItem) (p : Part) : Keeps p (restartPart c bad p) := by
  unfold restartPart
  extract_lets p1 pmu p2
  have loaded : Keeps p p1 := (reload_keeps c bad p).trans ((restartLink_keeps c _).trans
    ((restartDesk_keeps _).trans (restartZones_keeps _)))
  have closed : Keeps p1 { p1 with ac.pinCount := 0, pmu.offer := none } :=
    (show Keeps p1 { p1 with ac.pinCount := 0 } from {}).trans (closeOffer_keeps _)
  exact (loaded.trans closed).trans ((restartDay_keeps c _).trans ((busAtRestart_keeps c _).trans (dayTests_keeps c _)))

/-! ## Alerts -/

/-- The record of an alert changes, while one stands (R183, R186). -/
theorem alertRecord_keeps {p : Part} {a : Alert} (h : p.ac.alert.isSome) (b : Alert) (_ : p.ac.alert = some a) :
    Keeps p { p with ac.alert := some b } where
  alert := fun silent _ => silent h

/-- A hold begins, with no resume time (R182). -/
theorem suspendSweeps_keeps (p : Part) : Keeps p (suspendSweeps { p with sweeps.resume := none }) := {}

/-- A start silences every zone, and what follows leaves them so (R182). -/
theorem startAlert_keeps (c : Clock) (k : AlertKind) (src : AlertSource) (p : Part) : Keeps p (startAlert c k src p) := by
  unfold startAlert
  extract_lets record p1 p2
  have flagged := setFlag_keeps c .alert p1
  have sounded : Keeps (silenceZones (setFlag c .alert p1)) (suspendSweeps { p2 with sweeps.resume := none }) :=
    (busAtAlertStart_keeps k _).trans (suspendSweeps_keeps p2)
  have all := flagged.trans ((silenceZones_keeps _).trans sounded)
  exact { alert := fun _ => sounded.alert (silenceZones_silent _), notices := all.notices, inflight := all.inflight
          outbox := all.outbox, ring := fun h => all.ring ⟨h.ring, h.zones, h.plan, h.work, h.store⟩, queue := all.queue
          excuses := all.excuses, exceptions := all.exceptions
          tables := fun h => all.tables ⟨h.slots, h.contacts, h.storedSlots, h.storedContacts, h.register, h.arrivals⟩ }

theorem startMessage_keeps (c : Clock) (m : Option AlertMessage) (p : Part) : Keeps p (startMessage c m p).1 := by
  unfold startMessage
  split
  case h_1 => exact .refl p
  case h_2 m =>
    have asked := createOrReport_keeps c (alertRequest p m) p
    split
    all_goals
      rename_i e
      rw [e] at asked
      exact asked

theorem takeStart_keeps (c : Clock) (k : AlertKind) (src : AlertSource) (m : Option AlertMessage) (p : Part) :
    Keeps p (takeStart c k src m p).1 := by
  unfold takeStart
  split
  case h_1 => exact (startAlert_keeps c k src p).trans (startMessage_keeps c m _)
  case h_2 a stands =>
    split
    · exact .refl p
    · exact (alertRecord_keeps (by rw [stands]; rfl) _ stands).trans (busAtChange_keeps k _)

theorem pinSample_keeps (c : Clock) (low : Bool) (p : Part) : Keeps p (pinSample c low p) := by
  have counted : Keeps p { p with ac.pinCount := Config.pinQualifies } := {}
  have qualified : ∀ q, Keeps q (pinQualified c q) := fun q =>
    ((setFlag_keeps c .alert q).trans (raise_keeps c _ _)).trans (takeStart_keeps c _ _ _ _)
  unfold pinSample
  exact Keeps.ite (Keeps.ite {} (Keeps.ite (counted.trans (qualified _)) (.refl p))) {}

theorem allClear_keeps (c : Clock) (p : Part) : Keeps p (allClear c p) :=
  (show Keeps p { p with ac.alert := none } from { alert := fun _ => nofun }).trans
    ((busAtAllClear_keeps c _).trans ((resumeAtAllClear_keeps c _).trans (tryClose_keeps c _)))

end Sys2Proof.Machine
end

section
/-!
What every command keeps, request by request and event by event, and the statements of what every step keeps.
-/

-- One declaration after another: the text is compiled as one, and a declaration that waits for others holds a thread.
set_option Elab.async false

namespace Sys2Proof.Machine

/-! ## Requests that write the store -/

theorem Keeps.ite_fst {α : Type} {p : Part} {a b : Part × α} {φ : Prop} [Decidable φ] (yes : Keeps p a.1) (no : Keeps p b.1) :
    Keeps p (if φ then a else b).1 := by
  split
  · exact yes
  · exact no

theorem refuse_keeps (e : ErrCode) (p : Part) : Keeps p (refuse e p).1 := .refl p

theorem setCalendar_keeps (days : List (Option Weekday)) (p : Part) : Keeps p (setCalendar days p).1 := by
  unfold setCalendar
  split
  · exact refuse_keeps _ p
  · exact Keeps.ite_fst (storedOk_keeps {}) (refuse_keeps _ p)

/-- An entry put adds at most one place to the exception list, and none where it replaces one (R9). -/
theorem putException_length (e : Exception) (l : List Exception) :
    (putException e l).length ≤ l.length + 1 ∧ (l.any (fun a => a.date == e.date) = true → (putException e l).length ≤ l.length) := by
  unfold putException
  rw [(insertBy_perm _ _ _).length_eq, List.length_cons]
  refine ⟨Nat.succ_le_succ (List.length_filter_le _ _), fun held => ?_⟩
  obtain ⟨a, mem, same⟩ := List.any_eq_true.mp held
  refine List.length_filter_lt_length_iff_exists.mpr ⟨a, mem, ?_⟩
  simp only [bne, same, Bool.not_true, Bool.false_eq_true, not_false_eq_true]

theorem exceptionPut_keeps (d : DateField) (k : ExceptKind) (p : Part) : Keeps p (exceptionPut d k p).1 := by
  unfold exceptionPut
  split
  case h_1 => exact refuse_keeps _ p
  case h_2 date _ =>
    refine Keeps.ite_fst (refuse_keeps _ p) ?_
    split
    case isTrue room =>
      refine storedOk_keeps { exceptions := fun bound => ?_ }
      obtain ⟨one, none⟩ := putException_length ⟨date, k⟩ p.work.exceptions
      rcases (Bool.or_eq_true _ _).mp room with held | free
      · exact (none held).trans bound
      · exact one.trans (of_decide_eq_true free)
    case isFalse => exact refuse_keeps _ p

theorem exceptionDel_keeps (d : DateField) (p : Part) : Keeps p (exceptionDel d p).1 := by
  unfold exceptionDel
  split
  · exact refuse_keeps _ p
  · exact Keeps.ite_fst (storedOk_keeps { exceptions := Nat.le_trans (List.length_filter_le _ _) }) (refuse_keeps _ p)

theorem rotaPut_keeps (n : Nat) (l : List Nat) (i : Nat) (p : Part) : Keeps p (rotaPut n l i p).1 :=
  Keeps.ite_fst (storedOk_keeps {}) (refuse_keeps _ p)

/-- A plan written within its periods leaves every plan within them (R21). -/
theorem plansBounded_set {img : Image} (n : Nat) {x : Plan} (few : x.periods.length ≤ 14) (h : img.PlansBounded) :
    Image.PlansBounded { img with plans := img.plans.setIfInBounds n x } := by
  intro k
  have plan : Image.plan { img with plans := img.plans.setIfInBounds n x } k = if n = k ∧ k < 8 then x else img.plan k := by
    unfold Image.plan Vector.getD
    by_cases bound : k < 8
    · by_cases same : n = k
      · simp [same, bound]
      · simp [same, bound]
    · simp [bound]
  rw [plan]
  split
  · exact few
  · exact h k

theorem planPut_keeps (c : Clock) (n : Nat) (name : Text) (lead lag grace close : Nat) (l : List PeriodField) (p : Part) :
    Keeps p (planPut c n name lead lag grace close l p).1 := by
  unfold planPut
  split
  case h_1 => exact refuse_keeps _ p
  case h_2 periods _ =>
    split
    case isTrue fine =>
      have few : periods.length ≤ 14 := by
        unfold periodsOk at fine
        simp only [Bool.and_eq_true, decide_eq_true_eq] at fine
        exact fine.2.1.1.2
      exact stored_keeps { plans := plansBounded_set n few } (dayTests_keeps c)
    case isFalse => exact refuse_keeps _ p

theorem zonePut_keeps (c : Clock) (z : Nat) (r : Zone) (p : Part) : Keeps p (zonePut c z r p).1 :=
  Keeps.ite_fst (refuse_keeps _ p) (Keeps.ite_fst (refuse_keeps _ p)
    (stored_keeps {} fun q => (presenceChange_keeps z _ r.present q).trans (dayTests_keeps c _)))

theorem templatePut_keeps (t : Nat) (l : Text) (p : Part) : Keeps p (templatePut t l p).1 :=
  Keeps.ite_fst (storedOk_keeps {}) (refuse_keeps _ p)

theorem schoolSet_keeps (name : Text) (p : Part) : Keeps p (schoolSet name p).1 :=
  Keeps.ite_fst (storedOk_keeps {}) (refuse_keeps _ p)

theorem templateMapSet_keeps (e : Option MapEntry) (t : Nat) (p : Part) : Keeps p (templateMapSet e t p).1 := by
  unfold templateMapSet
  split
  · exact refuse_keeps _ p
  · exact Keeps.ite_fst (refuse_keeps _ p) (Keeps.ite_fst (refuse_keeps _ p) (storedOk_keeps {}))

theorem writePupil_keeps (c : Clock) (n : Nat) (x : Slot) (p : Part) : Keeps p (writePupil c n x p).1 := by
  have put : ∀ y, ImageKeeps p.work { p.work with slots := Table.put p.work.slots n y } := fun y =>
    { slots := Table.wf_put _ n y }
  unfold writePupil
  dsimp only
  split
  · exact stored_keeps (put _) (enrolToday_keeps c n x.zone)
  · split
    · exact storedOk_keeps (put _)
    · exact Keeps.ite_fst (stored_keeps (put _) (reinstateToday_keeps c n)) (refuse_keeps _ p)

theorem pupilPut_keeps (c : Clock) (n : Nat) (x : Slot) (p : Part) : Keeps p (pupilPut c n x p).1 :=
  Keeps.ite_fst (refuse_keeps _ p) (Keeps.ite_fst (refuse_keeps _ p) (Keeps.ite_fst (refuse_keeps _ p) (writePupil_keeps c n x p)))

theorem pupilRemove_keeps (c : Clock) (r : PupilRef) (p : Part) : Keeps p (pupilRemove c r p).1 := by
  unfold pupilRemove
  refine Keeps.ite_fst (refuse_keeps _ p) ?_
  split
  case h_1 => exact refuse_keeps _ p
  case h_2 n x _ =>
    refine Keeps.ite_fst (.refl p) (stored_keeps ?_ fun q => (withdrawAll_frame c _ q).keeps)
    exact { excuses := Nat.le_trans (List.length_filter_le _ _)
            slots := fun h => by
              dsimp only
              split
              · exact Table.wf_put _ n _ h
              · exact Table.wf_erase _ n h }

theorem contactPut_keeps (n : Nat) (number : Text) (ch : Option Channel) (p : Part) : Keeps p (contactPut n number ch p).1 := by
  unfold contactPut
  split
  · exact refuse_keeps _ p
  · exact Keeps.ite_fst (storedOk_keeps { contacts := Table.wf_put _ n _ }) (refuse_keeps _ p)

theorem scoreSet_keeps (x : Policy) (p : Part) : Keeps p (scoreSet x p).1 :=
  Keeps.ite_fst (stored_keeps { slots := Table.wf_map p.work.slots _ } Keeps.refl) (refuse_keeps _ p)

theorem stationSetRequest_keeps (l : List (Option Nat)) (p : Part) : Keeps p (stationSetRequest l p).1 := by
  unfold stationSetRequest
  split
  · exact refuse_keeps _ p
  · exact Keeps.ite_fst (stored_keeps {} fun q => setStations_keeps _ q) (refuse_keeps _ p)

theorem writeExcuse_keeps (c : Clock) (e : Excuse) (p : Part) : Keeps p (writeExcuse c e p).1 := by
  unfold writeExcuse
  dsimp only
  split
  case isTrue => exact refuse_keeps _ p
  case isFalse room =>
    refine stored_keeps { excuses := fun bound => ?_ } (sameDayEffect_keeps c .office e)
    obtain ⟨one, none⟩ := putExcuse_length e p.work.excuses
    cases held : p.work.holdsExcuse e.slot e.kind e.date with
    | true => exact (none held).trans bound
    | false =>
      have free : ¬ Config.excuseMax ≤ p.work.excuses.length := by simpa [held] using room
      exact one.trans (Nat.not_le.mp free)

theorem excusePutRequest_keeps (c : Clock) (r : PupilRef) (k : Option ExcuseKind) (a : Option Nat) (d : DateField) (p : Part) :
    Keeps p (excusePutRequest c r k a d p).1 := by
  unfold excusePutRequest
  split
  · exact refuse_keeps _ p
  · refine Keeps.ite_fst (refuse_keeps _ p) ?_
    split
    · exact refuse_keeps _ p
    · refine Keeps.ite_fst (refuse_keeps _ p) ?_
      split
      · exact refuse_keeps _ p
      · split
        · exact refuse_keeps _ p
        · split
          · exact refuse_keeps _ p
          · exact writeExcuse_keeps c _ p

theorem excuseDelRequest_keeps (r : PupilRef) (k : Option ExcuseKind) (d : DateField) (p : Part) :
    Keeps p (excuseDelRequest r k d p).1 := by
  unfold excuseDelRequest
  split
  · exact refuse_keeps _ p
  · split
    · exact refuse_keeps _ p
    · refine Keeps.ite_fst (refuse_keeps _ p) ?_
      split
      · exact refuse_keeps _ p
      · exact Keeps.ite_fst (storedOk_keeps { excuses := Nat.le_trans (List.length_filter_le _ _) }) (refuse_keeps _ p)

theorem gatewaySetRequest_keeps (g : Option Settings) (p : Part) : Keeps p (gatewaySetRequest g p).1 := by
  unfold gatewaySetRequest
  split
  · exact refuse_keeps _ p
  · exact storedOk_keeps {}

/-! ## Requests on the day -/

theorem zoneArm_keeps (z : Nat) (p : Part) : Keeps p (zoneArm z p).1 := by
  unfold zoneArm
  refine Keeps.ite_fst (refuse_keeps _ p) ?_
  split
  case isTrue => exact refuse_keeps _ p
  case isFalse calm =>
    split
    · exact refuse_keeps _ p
    · refine setZoneState_keeps z fun _ alert => absurd ?_ calm
      unfold Part.noAlert
      cases stands : p.ac.alert <;> simp_all
    · exact .refl p
    · exact refuse_keeps _ p

theorem delayToday_keeps (c : Clock) (d : Nat) {t : Today} {p : Part} (copy : p.bells.today = some t) :
    Keeps p (delayToday c d t p).1 := by
  unfold delayToday
  generalize min (t.delayTotal + d) Config.delayMax = total
  have fits : RingBounded p → Today.Fits { t with delayTotal := total } := fun h => ⟨h.zones t copy, h.plan t copy⟩
  exact Keeps.ite_fst (.refl p) ((delay_keeps (before := t) (p.now c) ((total - t.delayTotal) * 60) fits).trans
    (timesChanged_keeps c t { t with delayTotal := total } _))

theorem closeToday_keeps (c : Clock) (x : Nat) {t : Today} {p : Part} (copy : p.bells.today = some t) :
    Keeps p (closeToday c x t p).1 := by
  have fits : RingBounded p → Today.Fits { t with early := some x } := fun h => ⟨h.zones t copy, h.plan t copy⟩
  exact (closeEarly_keeps x fits).trans (timesChanged_keeps c t { t with early := some x } _)

theorem delayRequest_keeps (c : Clock) (d : Nat) (p : Part) : Keeps p (delayRequest c d p).1 := by
  unfold delayRequest
  refine Keeps.ite_fst (refuse_keeps _ p) (Keeps.ite_fst (refuse_keeps _ p) ?_)
  split
  case h_1 r t _ copy => exact Keeps.ite_fst (delayToday_keeps c d copy) (refuse_keeps _ p)
  case h_2 =>
    have pending : Keeps p { p with bells.pendingDelay := min (p.bells.pendingDelay + d) Config.delayMax } := {}
    exact pending.trans (dayTests_keeps c _)

theorem earlyCloseRequest_keeps (c : Clock) (x : Nat) (p : Part) : Keeps p (earlyCloseRequest c x p).1 := by
  unfold earlyCloseRequest
  refine Keeps.ite_fst (refuse_keeps _ p) ?_
  split
  case h_1 r t _ copy =>
    exact Keeps.ite_fst (refuse_keeps _ p) (Keeps.ite_fst (refuse_keeps _ p) (Keeps.ite_fst (refuse_keeps _ p)
      (closeToday_keeps c x copy)))
  case h_2 => exact refuse_keeps _ p

/-- PLAN TODAY puts a plan of the working records into a copy that fits (R38). -/
theorem replanOpen_keeps (c : Clock) (n : Nat) (r : DayRecord) {t : Today} {p : Part} (copy : p.bells.today = some t) :
    Keeps p (replanOpen c n r t p).1 := by
  unfold replanOpen
  extract_lets t' bells q built
  have fits : RingBounded p → t'.Fits := fun h => ⟨h.zones t copy, h.work n⟩
  have replaced : Keeps p { p with day := some { r with plan := some n }, bells.today := some t' } :=
    (show Keeps p { p with day := some { r with plan := some n } } from {}).trans
      (Keeps.bells (b := { p.bells with today := some t' }) rfl fun h => ⟨h.ring, by rintro _ ⟨⟩; exact fits ⟨h.ring, h.zones, h.plan, h.work, h.store⟩⟩)
  have rung : Keeps p q := replaced.trans (buildRing_keeps c _ fun h => h.fits rfl)
  exact rung.trans ((registerAfterPlan_keeps c t' q).trans ((sweepsAfterPlan_keeps c t' _).trans (tryClose_keeps c _)))

theorem planTodayRequest_keeps (c : Clock) (n : Nat) (p : Part) : Keeps p (planTodayRequest c n p).1 := by
  unfold planTodayRequest
  refine Keeps.ite_fst (refuse_keeps _ p) ?_
  split
  case h_1 => exact refuse_keeps _ p
  case h_2 r _ =>
    split
    case h_1 t _ copy => exact Keeps.ite_fst (replanOpen_keeps c n r copy) (refuse_keeps _ p)
    case h_2 =>
      exact Keeps.ite_fst ((show Keeps p { p with day := some { r with plan := some n } } from {}).trans (dayTests_keeps c _))
        (refuse_keeps _ p)

theorem ringRequest_keeps (c : Clock) (f : ZonesField) (tone : Option BellTone) (d : Nat) (p : Part) :
    Keeps p (ringRequest c f tone d p).1 := by
  unfold ringRequest
  dsimp only
  split
  case h_1 => exact refuse_keeps _ p
  case h_2 t =>
    refine Keeps.ite_fst (refuse_keeps _ p) (Keeps.ite_fst (refuse_keeps _ p) (Keeps.ite_fst (refuse_keeps _ p) ?_))
    split
    case isTrue => exact refuse_keeps _ p
    case isFalse room =>
      obtain ⟨ring, today, zones⟩ := Bells.foldl_addManual c t d p.armed (ringZones p f) p.bells
      refine Keeps.bells zones fun h => ⟨?_, fun u e => h.fits (today ▸ e)⟩
      have free : (ringZones p f).length ≤ Config.ringMax - p.bells.ring.length := Nat.not_lt.mp (not_or.mp room).1
      have bound := h.ring
      rw [ring]
      omega

theorem hostWrite_keeps (c : Clock) (w : Write) (n k : Nat) (p : Part) : Keeps p (hostWrite c w n k p).1 :=
  Keeps.ite_fst (.refl p) (writeMark_keeps c w n k p)

theorem markSet_keeps (c : Clock) (r : PupilRef) (h : HostMark) (p : Part) : Keeps p (markSet c r h p).1 := by
  unfold markSet
  split
  case h_1 => exact refuse_keeps _ p
  case h_2 m _ =>
    split
    case h_1 => exact refuse_keeps _ p
    case h_2 n _ _ =>
      have wrote := hostWrite_keeps c m.write n m.period p
      split
      all_goals
        rename_i e
        rw [e] at wrote
        exact wrote

theorem batchItem_keeps (c : Clock) (m : ReadyMark) (p : Part) (r : PupilRef) : Keeps p (batchItem c m p r).1 := by
  unfold batchItem
  refine Keeps.ite_fst (.refl p) ?_
  split
  case h_1 => exact .refl p
  case h_2 n _ _ =>
    have wrote := hostWrite_keeps c m.write n m.period p
    split
    all_goals
      rename_i e
      rw [e] at wrote
      exact wrote

theorem batchItems_keeps (c : Clock) (m : ReadyMark) (l : List WrittenPupil) (p : Part) : Keeps p (batchItems c m l p).1 := by
  induction l generalizing p with
  | nil => exact .refl p
  | cons r l ih => exact (batchItem_keeps c m p r.ref).trans (ih _)

theorem markBatchRequest_keeps (c : Clock) (h : HostMark) (l : List WrittenPupil) (p : Part) :
    Keeps p (markBatchRequest c h l p).1 := by
  unfold markBatchRequest
  refine Keeps.ite_fst (refuse_keeps _ p) ?_
  split
  · exact refuse_keeps _ p
  · exact batchItems_keeps c _ l p

theorem exportBlock_keeps (x : Export) (p : Part) : Keeps p (exportBlock x p).1 := by
  unfold exportBlock
  split
  · exact refuse_keeps _ p
  · extract_lets v a
    refine onRegister_keeps ?_ p
    exact fun _ h => h

theorem exportRequest_keeps (first count : Nat) (d : Option Direction) (f : PeriodsField) (block : Nat) (e : Option EndMode)
    (p : Part) : Keeps p (exportRequest first count d f block e p).1 := by
  unfold exportRequest
  split
  · refine Keeps.ite_fst (refuse_keeps _ p) ?_
    split
    · split
      · exact refuse_keeps _ p
      · exact exportBlock_keeps _ p
    · exact refuse_keeps _ p
  · exact refuse_keeps _ p

theorem exportNextRequest_keeps (p : Part) : Keeps p (exportNextRequest p).1 := by
  unfold exportNextRequest
  split
  · exact refuse_keeps _ p
  · exact exportBlock_keeps _ p

theorem registerResumeRequest_keeps (c : Clock) (p : Part) : Keeps p (registerResumeRequest c p).1 := by
  unfold registerResumeRequest
  split
  · exact refuse_keeps _ p
  · split
    · exact refuse_keeps _ p
    · have resumed : Keeps p (p.onRegister (fun g => { g with state := .normal })) := by
        refine onRegister_keeps ?_ p
        exact fun _ h => h
      exact resumed.trans ((releaseSweeps_keeps _).trans (startDue_keeps c _))

theorem sweepNowRequest_keeps (c : Clock) (r : Option Reg) (p : Part) : Keeps p (sweepNowRequest c r p).1 := by
  unfold sweepNowRequest
  split
  · exact refuse_keeps _ p
  · refine Keeps.ite_fst (refuse_keeps _ p) (Keeps.ite_fst (refuse_keeps _ p) ?_)
    split
    · exact refuse_keeps _ p
    · exact Keeps.ite_fst {} (refuse_keeps _ p)

/-! ## Requests on messages and alerts -/

theorem sendRequest_keeps (c : Clock) (t : SendTarget) (s : Source) (p : Part) : Keeps p (sendRequest c t s p).1 := by
  unfold sendRequest
  refine Keeps.ite_fst (refuse_keeps _ p) (Keeps.ite_fst (refuse_keeps _ p) ?_)
  split
  case h_1 => exact refuse_keeps _ p
  case h_2 x _ =>
    refine Keeps.ite_fst (refuse_keeps _ p) ?_
    have asked := create_keeps c (generalRequest c x s) p
    split
    all_goals
      rename_i e
      rw [e] at asked
      exact asked

theorem withdrawRequest_keeps (c : Clock) (id : Nat) (p : Part) : Keeps p (withdrawRequest c id p).1 := by
  unfold withdrawRequest
  refine Keeps.ite_fst (refuse_keeps _ p) ?_
  split
  · exact refuse_keeps _ p
  · exact (withdrawEntry_frame c _ p).keeps

theorem alertStartRequest_keeps (c : Clock) (k : Option AlertKind) (m : Option AlertMessage) (p : Part) :
    Keeps p (alertStartRequest c k m p).1 := by
  unfold alertStartRequest
  split
  · exact refuse_keeps _ p
  · split
    · exact refuse_keeps _ p
    · exact takeStart_keeps c _ _ m p

theorem alertNotifyRequest_keeps (c : Clock) (m : AlertMessage) (p : Part) : Keeps p (alertNotifyRequest c m p).1 := by
  unfold alertNotifyRequest
  split
  · exact refuse_keeps _ p
  · refine Keeps.ite_fst (refuse_keeps _ p) ?_
    have asked := create_keeps c (alertRequest p m) p
    split
    all_goals
      rename_i e
      rw [e] at asked
      exact asked

theorem rollMarkRequest_keeps (c : Clock) (r : PupilRef) (p : Part) : Keeps p (rollMarkRequest c r p).1 := by
  unfold rollMarkRequest
  refine Keeps.ite_fst (refuse_keeps _ p) ?_
  split
  case h_1 => exact refuse_keeps _ p
  case h_2 a stands =>
    split
    · exact refuse_keeps _ p
    · exact Keeps.ite_fst (alertRecord_keeps (by rw [stands]; rfl) _ stands) (refuse_keeps _ p)

theorem alertEndRequest_keeps (c : Clock) (p : Part) : Keeps p (alertEndRequest c p).1 := by
  unfold alertEndRequest
  split
  · exact refuse_keeps _ p
  · exact allClear_keeps c p

/-- NOTICE takes the oldest notice off the list (R192). -/
theorem noticeRequest_keeps (p : Part) : Keeps p (noticeRequest p).1 := by
  unfold noticeRequest
  split
  case h_1 => exact {}
  case h_2 n rest held =>
    have shorter : NoticesBounded p → rest.length ≤ Config.noticeMax := fun bound => by
      unfold NoticesBounded at bound
      rw [held] at bound
      exact Nat.le_of_succ_le bound
    exact { notices := shorter }

theorem dormantRequest_keeps (p : Part) : Keeps p (dormantRequest p).1 := by
  unfold dormantRequest
  refine Keeps.ite_fst (refuse_keeps _ p) (Keeps.ite_fst (refuse_keeps _ p) ?_)
  split
  · exact .refl p
  · exact {}

theorem wakeSetRequest_keeps (l : List (Option WakeEnable)) (t : Option MinuteField) (p : Part) :
    Keeps p (wakeSetRequest l t p).1 := by
  unfold wakeSetRequest
  split
  · exact refuse_keeps _ p
  · split
    · exact refuse_keeps _ p
    · exact {}

/-! ## The gateway -/

theorem offerExpires_keeps (c : Clock) (p : Part) : Keeps p (offerExpires c p) := by
  unfold offerExpires
  split
  · exact .refl p
  · exact Keeps.ite ((closeOffer_keeps p).trans {}) (.refl p)

theorem silenceEnds_keeps (c : Clock) (p : Part) : Keeps p (silenceEnds c p) := Keeps.ite {} (.refl p)

theorem lineArrives_keeps (c : Clock) (p : Part) : Keeps p (lineArrives c p) := (offerExpires_keeps c p).trans {}

/-- A contact taken up needs a place beside the open offer (R165, R169). -/
theorem takeUp_keeps (c : Clock) (h : Handle) {p : Part}
    (room : p.pmu.inflight.length + p.pmu.offerCount < Config.inflightMax) : Keeps p (takeUp c h p) := by
  have taken := onEntry_keeps h.id (OutEntry.takenAt h.position) p
  refine taken.trans { inflight := fun _ => ?_ }
  show (p.pmu.inflight ++ [_]).length + p.pmu.offerCount ≤ 8
  rw [List.length_append, List.length_singleton]
  have room : p.pmu.inflight.length + p.pmu.offerCount < 8 := room
  omega

/-- The open offer's contact is taken into the place that the offer had (R169). -/
theorem takeOffered_keeps (c : Clock) {h : Handle} {p : Part} (offered : p.offers h = true) :
    Keeps p (takeUp c h (closeOffer p)) := by
  have counted : p.pmu.offerCount = 1 := by
    unfold Part.offers at offered
    unfold Messages.offerCount
    cases offer : p.pmu.offer with
    | none => rw [offer] at offered; exact absurd offered Bool.false_ne_true
    | some o => rfl
  have taken := (closeOffer_keeps p).trans ((onEntry_keeps h.id (OutEntry.takenAt h.position) _))
  exact { alert := taken.alert, notices := taken.notices, outbox := taken.outbox, queue := taken.queue
          ring := fun b => ⟨(taken.ring b).ring, (taken.ring b).zones, (taken.ring b).plan, (taken.ring b).work, (taken.ring b).store⟩
          excuses := taken.excuses, exceptions := taken.exceptions
          tables := fun b => ⟨(taken.tables b).slots, (taken.tables b).contacts, (taken.tables b).storedSlots,
            (taken.tables b).storedContacts, (taken.tables b).register, (taken.tables b).arrivals⟩
          inflight := fun bound => by
            unfold InflightBounded at bound
            rw [counted] at bound
            show (p.pmu.inflight ++ [_]).length + 0 ≤ 8
            rw [List.length_append, List.length_singleton]
            exact bound }

theorem takenLine_keeps (c : Clock) (h : Handle) (p : Part) : Keeps p (takenLine c h p) := by
  refine (lineArrives_keeps c p).trans ?_
  unfold takenLine
  dsimp only
  split
  case isTrue offered => exact takeOffered_keeps c offered
  case isFalse =>
    split
    · exact .refl _
    · split
      case isTrue late =>
        refine takeUp_keeps c h ?_
        have room := of_decide_eq_true (Bool.and_eq_true_iff.mp late).2
        unfold Messages.offerCount
        split at room
        case isTrue open' => rw [if_pos open']; show _ + 1 < 8; have room : _ < 7 := room; omega
        case isFalse none' => rw [if_neg none']; exact room
      case isFalse => exact .refl _

theorem rejectLine_keeps (c : Clock) (h : Handle) (p : Part) : Keeps p (rejectLine c h p) :=
  (offerExpires_keeps c p).trans (Keeps.ite ((closeOffer_keeps _).trans {}) (.refl _))

theorem barContact_keeps (n : Nat) (p : Part) : Keeps p (barContact n p) :=
  (Keeps.work { contacts := Table.wf_put _ n _ }).trans (ownWrite_keeps _ _)

theorem endHandover_keeps (c : Clock) (h : Handle) (d : Delivery) (p : Part) : Keeps p (endHandover c h d p) := by
  have removed : Keeps p { p with pmu.inflight := p.pmu.inflight.filter (fun f => f.handle != h) } :=
    { inflight := fun bound => (Nat.add_le_add_right (List.length_filter_le _ _) _).trans bound }
  refine (removed.trans (onEntry_keeps h.id (OutEntry.result h.position d) _)).trans ?_
  refine Keeps.trans ?_ (follow_keeps c h.id _)
  split
  · exact barContact_keeps _ _
  · exact .refl _

theorem resultLine_keeps (c : Clock) (h : Handle) (d : Delivery) (p : Part) : Keeps p (resultLine c h d p) := by
  refine (lineArrives_keeps c p).trans ?_
  unfold resultLine
  dsimp only
  refine Keeps.ite (endHandover_keeps c h d _) ?_
  split
  case isTrue offered => exact (takeOffered_keeps c offered).trans (endHandover_keeps c h d _)
  case isFalse => exact .refl _

theorem resultTimesOut_keeps (c : Clock) (h : Handle) (p : Part) : Keeps p (resultTimesOut c h p) :=
  Keeps.ite (endHandover_keeps c h _ p) (.refl p)

/-- A SEND opens an offer, which needs a place in flight (R165, R167). -/
theorem sendTo_keeps (c : Clock) (e : OutEntry) (i n : Nat) (m : Text) {p : Part} (room : p.pmu.inflight.length < Config.inflightMax) :
    Keeps p (sendTo c e i n m p) where
  inflight := fun _ => room

/-- A pick leaves the contacts in flight as they are, and keeps. -/
theorem pickOnce_keeps (c : Clock) (e : OutEntry) {p : Part} (room : p.pmu.inflight.length < Config.inflightMax) :
    Keeps p (pickOnce c e p).1 ∧ (pickOnce c e p).1.pmu.inflight = p.pmu.inflight := by
  have moved : ∀ f, Keeps p (follow c e.id (onEntry e.id f p)) ∧ (follow c e.id (onEntry e.id f p)).pmu.inflight = p.pmu.inflight :=
    fun f => ⟨(onEntry_keeps e.id f p).trans (follow_keeps c e.id _), (follow_frame c e.id _).inflight⟩
  unfold pickOnce
  split
  · exact moved _
  · split
    · exact ⟨.refl p, rfl⟩
    · split
      · exact moved _
      · exact ⟨sendTo_keeps c e _ _ _ room, rfl⟩
  · split
    · exact moved _
    · exact ⟨(onEntry_keeps e.id _ p).trans (sendTo_keeps c e _ _ _ room), rfl⟩

theorem pickAll_keeps (c : Clock) (k : Nat) {p : Part} (room : p.pmu.inflight.length < Config.inflightMax) :
    Keeps p (pickAll c k p) := by
  induction k generalizing p with
  | zero => exact .refl p
  | succ k ih =>
    unfold pickAll
    split
    · exact .refl p
    · obtain ⟨picked, same⟩ := pickOnce_keeps c _ room
      dsimp only
      exact Keeps.ite (picked.trans (ih (same ▸ room))) picked

theorem handOver_keeps (c : Clock) (p : Part) : Keeps p (handOver c p) := by
  unfold handOver
  split
  case isTrue ready =>
    unfold dispatchReady at ready
    simp only [Bool.and_eq_true, decide_eq_true_eq] at ready
    obtain ⟨⟨⟨_, room⟩, _⟩, _⟩ := ready
    exact pickAll_keeps c _ room
  case isFalse => exact .refl p

/-! ## Parent texts -/

/-- A record put is held, and so is every record that was held before. -/
theorem any_putExcuse (e : Excuse) (l : List Excuse) (n : Nat) (k : ExcuseKind) (d : Date) (held : l.any (Excuse.isFor n k d) = true) :
    (putExcuse e l).any (Excuse.isFor n k d) = true := by
  obtain ⟨a, mem, same⟩ := List.any_eq_true.mp held
  unfold putExcuse
  rw [List.any_append, Bool.or_eq_true]
  by_cases replaced : a.isFor e.slot e.kind e.date = true
  · refine .inr ?_
    simp only [Excuse.isFor, Bool.and_eq_true, beq_iff_eq] at same replaced
    obtain ⟨⟨slot, kind⟩, date⟩ := replaced
    simpa [Excuse.isFor, ← slot, ← kind, ← date, and_assoc] using same
  · exact .inl (List.any_eq_true.mpr ⟨a, List.mem_filter.mpr ⟨mem, by simp [replaced]⟩, same⟩)

/-- The records of a text add at most one place for each selected slot without one (R154). -/
theorem putRecords_length (x : ParentText) (now : Stamp) (slots : List Nat) (l : List Excuse) :
    ((slots.map (x.record now)).foldl (fun l e => putExcuse e l) l).length
      ≤ l.length + (slots.filter (fun n => !l.any (Excuse.isFor n x.kind x.date))).length := by
  induction slots generalizing l with
  | nil => exact le_rfl
  | cons n slots ih =>
    obtain ⟨one, none⟩ := putExcuse_length (x.record now n) l
    have fewer : (slots.filter (fun m => !(putExcuse (x.record now n) l).any (Excuse.isFor m x.kind x.date))).length
        ≤ (slots.filter (fun m => !l.any (Excuse.isFor m x.kind x.date))).length := by
      refine (List.monotone_filter_right slots fun m free => ?_).length_le
      by_contra held
      rw [Bool.not_eq_true, Bool.not_eq_false'] at held
      rw [any_putExcuse _ _ _ _ _ held] at free
      exact absurd free Bool.false_ne_true
    rw [List.map_cons, List.foldl_cons, List.filter_cons]
    refine (ih _).trans ?_
    split
    case isTrue => rw [List.length_cons]; omega
    case isFalse held =>
      have := none (by simpa [ParentText.record] using held)
      omega

theorem parseText_keeps (c : Clock) (number message : Text) (p : Part) : Keeps p (parseText c number message p) := by
  unfold parseText
  split
  case h_1 x now _ _ =>
    split
    case isTrue => exact raise_keeps c _ p
    case isFalse room =>
      have put : Keeps p { p with work.excuses := (x.slots.map (x.record now)).foldl (fun l e => putExcuse e l) p.work.excuses } := by
        refine Keeps.work { excuses := fun bound => (putRecords_length x now x.slots p.work.excuses).trans ?_ }
        have room := Nat.not_lt.mp room
        unfold addedRecords Image.holdsExcuse at room
        omega
      exact (put.trans (ownWrite_keeps _ _)).trans ((Keeps.foldl (sameDayEffect_keeps c .parent |> fun h p e => h e p) _ _).trans
        (createOrReport_keeps c _ _))
  case h_2 => exact .refl p
  case h_3 => exact raise_keeps c _ p

theorem recvLine_keeps (c : Clock) (number message : Text) (p : Part) : Keeps p (recvLine c number message p) :=
  ((lineArrives_keeps c p).trans (Keeps.ite (setFlag_keeps c .gateway _) (.refl _))).trans
    ((parseText_keeps c number message _).trans (Keeps.ite (serviceEnds_keeps c _) (.refl _)))

/-! ## The host line -/

theorem holdBusy_keeps (sfx : Bool) (p : Part) : Keeps p (holdBusy sfx p) := by
  unfold holdBusy
  split
  · exact {}
  · exact .refl p

theorem answer_keeps (r : Reply) (p : Part) : Keeps p (answer r p) := {}

theorem requestPart_keeps (c : Clock) (sfx : Bool) {act : Clock → Part → Part × Reply} (h : ∀ c p, Keeps p (act c p).1) (p : Part) :
    Keeps p (requestPart c sfx act p) :=
  (requestLine_keeps c p).trans (Keeps.ite (holdBusy_keeps sfx _) ((h c _).trans (answer_keeps _ _)))

theorem brokenLine_keeps (c : Clock) (l : Text) (p : Part) : Keeps p (brokenLine c l p) := by
  unfold brokenLine
  split
  · exact Keeps.ite (holdBusy_keeps false p) (answer_keeps _ p)
  · exact requestPart_keeps c _ (fun _ => refuse_keeps _) p
  · exact requestPart_keeps c _ (fun _ => refuse_keeps _) p
  · exact .refl p

theorem unknownLine_keeps (c : Clock) (l : Text) (p : Part) : Keeps p (unknownLine c l p) := by
  unfold unknownLine
  split
  · exact requestPart_keeps c _ (fun _ => refuse_keeps _) p
  · exact .refl p

theorem busyLine_keeps (c : Clock) (l : Text) (p : Part) : Keeps p (busyLine c l p) :=
  Keeps.ite (.refl p) ((Keeps.ite (requestLine_keeps c p) (.refl p)).trans (holdBusy_keeps _ _))

theorem replyEnds_keeps (p : Part) : Keeps p (replyEnds p) := by
  unfold replyEnds
  extract_lets link q
  have ended : Keeps p q := {}
  split
  · exact ended
  · exact ended.trans {}

theorem enterDormant_keeps (c : Clock) (p : Part) : Keeps p (enterDormant c p) := by
  unfold enterDormant
  extract_lets link q
  have asked : Keeps p q := {}
  refine asked.trans (Keeps.ite ?_ (.refl q))
  split
  · exact setActivity_keeps c .dormant q
  · exact (setActivity_keeps c .dormant q).trans (wakeBy_keeps c _ _)

/-! ## Commands -/

/-- An event keeps what its effect keeps. -/
theorem event_keeps {ws : List Bool} {f : Clock → Part → Part} (h : ∀ c p, Keeps p (f c p)) {s t : State}
    (e : event ws f s = .next t) : Keeps s.part t.part := by
  cases e
  exact (show Keeps s.part (begin ws s.part) from {}).trans ((h s.clock _).trans {})

/-- A request keeps what its effect keeps. -/
theorem request_keeps {sfx : Bool} {ws : List Bool} {act : Clock → Part → Part × Reply} (h : ∀ c p, Keeps p (act c p).1)
    {s t : State} (e : request sfx ws act s = .next t) : Keeps s.part t.part :=
  event_keeps (fun c p => requestPart_keeps c sfx h p) e

/-- A request that only reads keeps. -/
theorem query_keeps {sfx : Bool} {read : Clock → Part → Reply} {s t : State} (e : query sfx read s = .next t) :
    Keeps s.part t.part := request_keeps (fun _ => Keeps.refl) e

theorem coldStart_keeps (bad : List StoreItem) {s t : State} (e : execColdStart bad s = .next t) : Keeps s.part t.part := by
  cases e
  exact reset_keeps _ (load_store_keeps bad false s.part.store) (load_work_keeps bad false s.part.store)

theorem clockTick_keeps (ws : List Bool) {s t : State} (e : execClockTick ws s = .next t) : Keeps s.part t.part := by
  cases e
  exact (show Keeps s.part (begin ws s.part) from {}).trans ((afterTick_keeps s.clock.tick.1 s.clock.tick.2 _).trans {})

theorem timeSet_keeps (sfx : Bool) (d : DateField) (x : TimeField) (force : Bool) (ws : List Bool) {s t : State}
    (e : execTimeSet sfx d x force ws s = .next t) : Keeps s.part t.part := by
  have heard' : Keeps s.part (requestLine s.clock (begin ws s.part)) :=
    (show Keeps s.part (begin ws s.part) from {}).trans (requestLine_keeps s.clock _)
  unfold execTimeSet at e
  dsimp only at e
  split at e
  · cases e
    exact heard'.trans ((holdBusy_keeps sfx _).trans {})
  · cases e
    exact heard'.trans ((setTime_keeps s.clock d x force _).trans ((answer_keeps _ _).trans {}))

theorem stationPollMiss_keeps {s t : State} (e : execStationPollMiss s = .next t) : Keeps s.part t.part := by
  unfold execStationPollMiss at e
  refine event_keeps (fun c p => ?_) e
  split
  · exact .refl p
  · exact exchangeWith_keeps _ (fun _ => missOutcome_keeps c _) p

/-- Every command keeps. -/
theorem exec_keeps {i : Instr} {s t : State} (e : exec i s = .next t) : Keeps s.part t.part := by
  cases i with
  | coldStart bad => exact coldStart_keeps bad e
  | clockTick ws => exact clockTick_keeps ws e
  | timeSet sfx d x force ws => exact timeSet_keeps sfx d x force ws e
  | timeGet | calGet | dayGet | planGet | zoneGet | timesGet | ringsGet | zbusGet | templateGet | schoolGet | templateMapGet
  | storeGet | pupilGet | rosterGet | contactGet | scoreGet | markGet | tally | tallyYesterday | stationGet | sweepGet
  | excuseList | outboxGet | gatewayGet | alertGet | rollGet | status | version => exact query_keeps e
  | calSet _ days => exact request_keeps (fun _ => setCalendar_keeps days) e
  | exceptPut _ d k => exact request_keeps (fun _ => exceptionPut_keeps d k) e
  | exceptDel _ d => exact request_keeps (fun _ => exceptionDel_keeps d) e
  | rotaSet _ n l i => exact request_keeps (fun _ => rotaPut_keeps n l i) e
  | planPut _ n name lead lag grace close l => exact request_keeps (fun c => planPut_keeps c n name lead lag grace close l) e
  | zonePut _ z => exact request_keeps (fun c => zonePut_keeps c z _) e
  | zoneArm _ z => exact request_keeps (fun _ => zoneArm_keeps z) e
  | delay _ d => exact request_keeps (fun c => delayRequest_keeps c d) e
  | earlyClose _ x => exact request_keeps (fun c => earlyCloseRequest_keeps c x) e
  | planToday _ n => exact request_keeps (fun c => planTodayRequest_keeps c n) e
  | ring _ f tone d => exact request_keeps (fun c => ringRequest_keeps c f tone d) e
  | broadcast => exact event_keeps broadcastNow_keeps e
  | soundingEnd => exact event_keeps soundingEnds_keeps e
  | statusPoll => exact event_keeps pollBegins_keeps e
  | statusAnswer a o => exact event_keeps (fun c => exchangeEnds_keeps c (some a) (some o)) e
  | statusWindowEnd => exact event_keeps (fun c => exchangeEnds_keeps c none none) e
  | staleWaitEnd k => exact event_keeps (fun c => staleEnds_keeps c k) e
  | templatePut _ t l => exact request_keeps (fun _ => templatePut_keeps t l) e
  | schoolSet _ name => exact request_keeps (fun _ => schoolSet_keeps name) e
  | templateMap _ m t => exact request_keeps (fun _ => templateMapSet_keeps m t) e
  | pupilPut _ n => exact request_keeps (fun c => pupilPut_keeps c n _) e
  | pupilRemove _ r => exact request_keeps (fun c => pupilRemove_keeps c r) e
  | contactPut _ n number ch => exact request_keeps (fun _ => contactPut_keeps n number ch) e
  | scoreSet => exact request_keeps (fun _ => scoreSet_keeps _) e
  | markSet _ r => exact request_keeps (fun c => markSet_keeps c r _) e
  | markBatch _ _ _ _ _ _ l => exact request_keeps (fun c => markBatchRequest_keeps c _ l) e
  | exportStart _ first count d f block m => exact request_keeps (fun _ => exportRequest_keeps first count d f block m) e
  | exportNext => exact request_keeps (fun _ => exportNextRequest_keeps) e
  | registerResume => exact request_keeps registerResumeRequest_keeps e
  | stationSet _ l => exact request_keeps (fun _ => stationSetRequest_keeps l) e
  | pollCycle => exact event_keeps cycleBegins_keeps e
  | stationPollMiss => exact stationPollMiss_keeps e
  | stationIdle n =>
    exact event_keeps (fun c => exchangeWith_keeps n fun x q => (goodAnswer_keeps c n x q).trans (noCall_keeps n _)) e
  | stationEntry n tag k number reason =>
    exact event_keeps (fun c p => Keeps.ite (exchangeWith_keeps n (fun x q => (goodAnswer_keeps c n x q).trans
      ((noCall_keeps n _).trans (entryAnswer_keeps c n tag k number reason _))) p) (.refl p)) e
  | stationCall n =>
    exact event_keeps (fun c => exchangeWith_keeps n fun x q => (goodAnswer_keeps c n x q).trans (callAnswer_keeps c n _)) e
  | stationFaultAnswer n f => exact event_keeps (fun c => exchangeWith_keeps n fun _ => faultAnswer_keeps c n f) e
  | processEntry => exact event_keeps processHead_keeps e
  | sweepStep r => exact event_keeps (fun c => sweepOnce_keeps c r) e
  | sweepNow _ r => exact request_keeps (fun c => sweepNowRequest_keeps c r) e
  | excusePut _ r k a d => exact request_keeps (fun c => excusePutRequest_keeps c r k a d) e
  | excuseDel _ r k d => exact request_keeps (fun _ => excuseDelRequest_keeps r k d) e
  | recv number message => exact event_keeps (fun c => recvLine_keeps c number message) e
  | handover => exact event_keeps handOver_keeps e
  | taken h => exact event_keeps (fun c => takenLine_keeps c h) e
  | reject h => exact event_keeps (fun c => rejectLine_keeps c h) e
  | delivered h => exact event_keeps (fun c => resultLine_keeps c h _) e
  | failed h => exact event_keeps (fun c => resultLine_keeps c h _) e
  | gatewayReady => exact event_keeps lineArrives_keeps e
  | gatewayLineInvalid => exact event_keeps (fun _ => Keeps.refl) e
  | offerWindowEnd => exact event_keeps offerExpires_keeps e
  | silentEnd => exact event_keeps silenceEnds_keeps e
  | resultTimeout h => exact event_keeps (fun c => resultTimesOut_keeps c h) e
  | send _ x src => exact request_keeps (fun c => sendRequest_keeps c x src) e
  | withdraw _ id => exact request_keeps (fun c => withdrawRequest_keeps c id) e
  | gatewaySet => exact request_keeps (fun _ => gatewaySetRequest_keeps _) e
  | alertPinSample low => exact event_keeps (fun c => pinSample_keeps c low) e
  | alertStart _ k m => exact request_keeps (fun c => alertStartRequest_keeps c k m) e
  | alertNotify _ m => exact request_keeps (fun c => alertNotifyRequest_keeps c m) e
  | rollMark _ r => exact request_keeps (fun c => rollMarkRequest_keeps c r) e
  | alertEnd => exact request_keeps alertEndRequest_keeps e
  | hostLineInvalid l => exact event_keeps (fun c => brokenLine_keeps c l) e
  | unknownRequest l => exact event_keeps (fun c => unknownLine_keeps c l) e
  | busyLine l => exact event_keeps (fun c => busyLine_keeps c l) e
  | replyEnd => exact event_keeps (fun _ p => Keeps.ite (replyEnds_keeps p) (.refl p)) e
  | notice => exact request_keeps (fun _ => noticeRequest_keeps) e
  | restart => exact request_keeps (fun _ _ => {}) e
  | warmRestart bad => exact event_keeps (fun c p => Keeps.ite (restartPart_keeps c bad p) (.refl p)) e
  | dormant => exact request_keeps (fun _ => dormantRequest_keeps) e
  | dormantEntered => exact event_keeps (fun c p => Keeps.ite (enterDormant_keeps c p) (.refl p)) e
  | serviceWaitEnd => exact event_keeps (fun c p => Keeps.ite (serviceEnds_keeps c p) (.refl p)) e
  | wakeSet _ l t => exact request_keeps (fun _ => wakeSetRequest_keeps l t) e
  | wakeGet => exact request_keeps (fun _ _ => {}) e

/-- A step keeps: it idles, or runs a command on the same part. -/
theorem step_keeps {s t : State} (e : step s = .next t) : Keeps s.part t.part := by
  rcases step_cases e with rfl | ⟨i, rest, e⟩
  · exact .refl _
  · exact exec_keeps (s := { s with pending := rest }) e

end Sys2Proof.Machine

open Sys2Proof.Machine

/-- Settles O57: every command keeps the zones silent while an alert stands. -/
theorem alertKeepsZonesSilent : Obligations.AlertKeepsZonesSilent :=
  fun _ _ silent e => (step_keeps e).alert silent

/-- Settles O58: every command keeps each list within its places. -/
theorem listsStayWithinTheirPlaces : Obligations.ListsStayWithinTheirPlaces :=
  fun _ _ e =>
    have kept := step_keeps e
    ⟨kept.notices, kept.inflight, kept.outbox, kept.ring, kept.queue, kept.excuses, kept.exceptions⟩

/-- Settles O59: every command keeps the tables canonical. -/
theorem tablesStayCanonical : Obligations.TablesStayCanonical :=
  fun _ _ canonical e => (step_keeps e).tables canonical

/-- Settles O60: the part of a cold start keeps what the images hold, and the images are those of a store never written. -/
theorem resetHoldsWhatStepsKeep : Obligations.ResetHoldsWhatStepsKeep := by
  have plans := fresh_plansBounded
  exact ⟨Clock.sound_reset, nofun, show 1 ≤ 32 by decide, Nat.zero_le _, Nat.zero_le _,
    ⟨Nat.zero_le _, nofun, nofun, plans, plans⟩, reset_queueBounded _ _ _, ⟨Nat.zero_le _, Nat.zero_le _⟩, ⟨Nat.zero_le _, Nat.zero_le _⟩,
    ⟨rfl, rfl, rfl, rfl, nofun, rfl⟩⟩

end

section
/-!
Requests: how a request in a listening part is answered, where a request comes to its write of the store, and what a failed write
leaves (R62, R190, R191).
-/

-- One declaration after another: the text is compiled as one, and a declaration that waits for others holds a thread.
set_option Elab.async false

namespace Sys2Proof.Machine

/-! ## Which commands are requests -/

/-- A request is acted on by way of `request`, but for TIME SET, which moves the clock too. -/
theorem request_of_suffix {i : Instr} {sfx : Bool} (h : requestSuffix i = some sfx) :
    (∃ ws act, ∀ s, exec i s = request sfx ws act s) ∨ ∃ d t force ws, ∀ s, exec i s = execTimeSet sfx d t force ws s := by
  cases i with
  | timeSet => cases h; exact .inr ⟨_, _, _, _, fun _ => rfl⟩
  | coldStart | clockTick | broadcast | soundingEnd | statusPoll | statusAnswer | statusWindowEnd | staleWaitEnd | pollCycle
  | stationPollMiss | stationIdle | stationEntry | stationCall | stationFaultAnswer | processEntry | sweepStep | recv | handover
  | taken | reject | delivered | failed | gatewayReady | gatewayLineInvalid | offerWindowEnd | silentEnd | resultTimeout
  | alertPinSample | hostLineInvalid | unknownRequest | busyLine | replyEnd | warmRestart | dormantEntered | serviceWaitEnd =>
    exact nomatch h
  | _ => cases h; exact .inl ⟨_, _, fun _ => rfl⟩

/-- TIME SET that wakes a DORMANT part is the same request in the woken part. -/
theorem timeSet_dormant {s : State} {sfx : Bool} {d : DateField} {t : TimeField} {force : Bool} {ws : List Bool}
    (h : s.part.hl.activity = .dormant) : execTimeSet sfx d t force ws s = execTimeSet sfx d t force ws (wokenByHost s) := by
  have woken := requestLine_dormant ws s h
  have clock : (wokenByHost s).clock = s.clock := rfl
  unfold execTimeSet
  simp only [woken, clock]
  rfl

/-- A request that only reads is a query with its reply. -/
theorem query_of_reply {i : Instr} {sfx : Bool} {f : Clock → Part → Reply} (h : queryReply i = some (sfx, f)) (s : State) :
    exec i s = query sfx f s := by
  cases i with
  | timeGet | calGet | dayGet | planGet | zoneGet | timesGet | ringsGet | zbusGet | templateGet | schoolGet | templateMapGet
  | storeGet | pupilGet | rosterGet | contactGet | scoreGet | markGet | tally | tallyYesterday | stationGet | sweepGet
  | excuseList | outboxGet | gatewayGet | alertGet | rollGet | status | version => cases h; rfl
  | _ => exact nomatch h

/-! ## A request in a listening part -/

/-- A request is answered with what its action gives. -/
theorem request_answers {s : State} {sfx : Bool} {ws : List Bool} {act : Clock → Part → Part × Reply} (h : Listening s)
    {q : Part} {r : Reply} (e : act s.clock (heard s ws) = (q, r)) : request sfx ws act s = .next (replied s q sfx r) := by
  rw [request_listening h, e]

/-- A request that its action refuses changes nothing, whatever the store has answered. -/
theorem request_refuses {s : State} {sfx : Bool} {ws : List Bool} {act : Clock → Part → Part × Reply} (h : Listening s)
    {code : ErrCode} {ws' : List Bool} (e : act s.clock (heard s ws) = refuse code (heard s ws')) :
    request sfx ws act s = .next (refusedWith s sfx code) := by
  rw [request_listening h, e]
  rfl

/-- A request whose action comes to a write that the store keeps. -/
theorem request_writes {s : State} {sfx : Bool} {ws : List Bool} {act : Clock → Part → Part × Reply} (h : Listening s)
    (kept : Kept ws) {items : List StoreItem} {f : Image → Image} {k : Part → Part × Reply}
    (e : act s.clock (heard s ws) = stored items f (heard s ws) k) :
    request sfx ws act s = .next (replied s (k (written s ws items f)).1 sfx (k (written s ws items f)).2) :=
  request_answers h (e.trans (stored_kept kept))

/-- A request whose action is one write that the store keeps, answered with OK. -/
theorem request_stores {s : State} {sfx : Bool} {ws : List Bool} {act : Clock → Part → Part × Reply} (h : Listening s)
    (kept : Kept ws) {items : List StoreItem} {f : Image → Image}
    (e : act s.clock (heard s ws) = storedOk items f (heard s ws)) :
    request sfx ws act s = .next (replied s (written s ws items f) sfx (ok [])) :=
  request_answers h (e.trans (stored_kept kept))

/-- A request whose action comes to a write that the store fails (R62). -/
theorem request_fails {s : State} {sfx : Bool} {ws : List Bool} {act : Clock → Part → Part × Reply} (h : Listening s)
    (failed : ws.headD true = false) {items : List StoreItem} {f : Image → Image} {k : Part → Part × Reply}
    (e : act s.clock (heard s ws) = stored items f (heard s ws) k) :
    request sfx ws act s = .next (refusedWith s sfx .store) := request_refuses h (e.trans (stored_failed failed))

/-! ## Where a request comes to its write -/

theorem setCalendar_taken {days : List (Option Weekday)} {l : List Weekday} (known : allKnown days = some l)
    (once : noRepeat l = true) (p : Part) : setCalendar days p
      = storedOk [.weekdays] (fun img => { img with weekdays := weekdays.filter (fun d => l.contains d) }) p := by
  unfold setCalendar
  rw [known]
  exact if_pos once

theorem exceptKindOk_of {kind : ExceptKind} (h : ∀ n, kind = .school n → n ≤ 7) : exceptKindOk kind = true := by
  cases kind with
  | noSchool => rfl
  | school n => exact decide_eq_true (h n rfl)

theorem exceptionPut_taken {d : DateField} {date : Date} {kind : ExceptKind} {p : Part} (given : dateOf d = some date)
    (plan : ∀ n, kind = .school n → n ≤ 7)
    (room : p.work.exceptions.any (fun e => e.date == date) = true ∨ p.work.exceptions.length < 64) :
    exceptionPut d kind p
      = storedOk [.exceptions] (fun img => { img with exceptions := putException ⟨date, kind⟩ img.exceptions }) p := by
  unfold exceptionPut
  rw [given]
  dsimp only
  rw [exceptKindOk_of plan, if_neg (by decide)]
  exact if_pos ((Bool.or_eq_true _ _).mpr (room.imp_right decide_eq_true))

theorem exceptionDel_taken {d : DateField} {date : Date} {p : Part} (given : dateOf d = some date)
    (held : p.work.exceptions.any (fun e => e.date == date) = true) : exceptionDel d p
      = storedOk [.exceptions] (fun img => { img with exceptions := img.exceptions.filter (fun a => a.date != date) }) p := by
  unfold exceptionDel
  rw [given]
  exact if_pos held

theorem rotaPut_taken {n i : Nat} {plans : List Nat} (fine : rotaOk n plans i = true) (p : Part) :
    rotaPut n plans i p = storedOk [.rota] (fun img => { img with rota := ⟨plans, i⟩ }) p := if_pos fine

theorem planPut_taken {n lead lag grace close : Nat} {name : Text} {fields : List PeriodField} {l : List Period}
    (read : readPeriods fields = some l) (items : planItemsOk n name lead lag grace close = true) (periods : periodsOk l = true)
    (c : Clock) (p : Part) : planPut c n name lead lag grace close fields p
      = stored [.plan n] (fun img => { img with plans := img.plans.setIfInBounds n ⟨name, l, lead, lag, grace, close⟩ }) p
          (fun q => (dayTests c q, ok [])) := by
  unfold planPut
  rw [read]
  exact if_pos (Bool.and_eq_true_iff.mpr ⟨items, periods⟩)

theorem zonePut_taken {z : Nat} {r : Zone} {p : Part} (fine : zoneOk z r = true)
    (free : r.present = true → p.work.addressTaken z r.address = false) (c : Clock) : zonePut c z r p
      = stored [.zone z] (fun img => { img with zones := img.zones.setIfInBounds z r }) p
          (fun q => (dayTests c (presenceChange z (p.work.zone z).present r.present q), ok [])) := by
  have free : (r.present && p.work.addressTaken z r.address) = false := by
    cases present : r.present with
    | false => rfl
    | true => exact free present
  unfold zonePut
  rw [fine, free]
  rfl

theorem templatePut_taken {t : Nat} {l : Text} (range : t ≤ 31) (fine : templateOk l = true) (p : Part) : templatePut t l p
      = storedOk [.template t] (fun img => { img with templates := img.templates.setIfInBounds t (some l) }) p :=
  if_pos ⟨range, fine⟩

theorem schoolSet_taken {name : Text} (short : name.length ≤ 40) (p : Part) :
    schoolSet name p = storedOk [.school] (fun img => { img with school := name }) p := if_pos short

theorem templateMapSet_taken {t : Nat} {p : Part} (e : MapEntry) (range : t ≤ 31) (full : p.work.template t ≠ none) :
    templateMapSet (some e) t p
      = storedOk [.templateMap] (fun img => { img with templateMap := img.templateMap.setIfInBounds (mapIndex e) t }) p := by
  unfold templateMapSet
  dsimp only
  rw [if_neg (Nat.not_lt.mpr range), if_neg (by rw [Option.isNone_iff_eq_none]; exact full)]

theorem contactPut_taken {n : Nat} {number : Text} (ch : Channel) (range : n < 4096) (digits : allDigits number = true)
    (short : number.length ≤ 15) (p : Part) : contactPut n number (some ch) p
      = storedOk [.contact n] (fun img => { img with contacts := Table.put img.contacts n ⟨some number, ch, false⟩ }) p :=
  if_pos ⟨range, digits, short⟩

theorem scoreSet_taken {x : Policy} (fine : policyOk x = true) (p : Part) : scoreSet x p
      = stored (.policy :: p.work.slots.map (fun e => .slot e.1)) (fun img => { img with policy := x, slots := relevel x img.slots }) p
          (fun q => (q, ok [nat (levelsChanged x p.work.slots)])) := if_pos fine

theorem stationSet_taken {given : List (Option Nat)} {l : List Nat} (known : allKnown given = some l) (range : ∀ n ∈ l, n ≤ 3)
    (once : noRepeat l = true) (p : Part) : stationSetRequest given p
      = stored [.stations] (fun img => { img with stations := stationNumbers.filter (fun n => l.contains n) }) p
          (fun q => (setStations (stationNumbers.filter (fun n => l.contains n)) q, ok [])) := by
  have fine : (l.all (fun n => decide (n ≤ 3)) && noRepeat l) = true := by
    rw [Bool.and_eq_true, List.all_eq_true]
    exact ⟨fun n mem => decide_eq_true (range n mem), once⟩
  unfold stationSetRequest
  rw [known]
  exact if_pos fine

theorem readSettings_taken {pace settle band x y : Nat} {a b : MinuteField} (start : minuteOf a = some x)
    (finish : minuteOf b = some y)
    (range : 1 ≤ pace ∧ pace ≤ 60 ∧ x < y ∧ settle ≤ 30 ∧ 1 ≤ band ∧ band ≤ 60) :
    readSettings pace a b settle band = some ⟨pace, x, y, settle, band⟩ := by
  unfold readSettings
  rw [start, finish]
  exact if_pos range

theorem gatewaySet_taken {pace settle band : Nat} {a b : MinuteField} {g : Settings} (read : readSettings pace a b settle band = some g)
    (p : Part) : gatewaySetRequest (readSettings pace a b settle band) p
      = storedOk [.gateway] (fun img => { img with gateway := g }) p := by
  rw [read]
  rfl

theorem pupilRemove_taken {r : PupilRef} {n : Nat} {x : Slot} {p : Part} (range : pupilInRange r = true)
    (found : p.work.pupil r = some (n, x)) (present : x.state = .enrolled ∨ p.isOpen = false) (c : Clock) :
    pupilRemove c r p = removeSlot c n x p := by
  have taken : ¬ (x.state = .left ∧ p.isOpen = true) := by
    rintro ⟨gone, open'⟩
    rcases present with enrolled | closed
    · rw [enrolled] at gone; cases gone
    · rw [closed] at open'; cases open'
  unfold pupilRemove
  rw [range, found]
  dsimp only
  rw [if_neg taken]
  rfl

/-- The checks of PUPIL PUT (R64). -/
theorem pupilPut_taken {n : Nat} {x : Slot} {p : Part}
    (fields : pupilFieldsOk n x.number x.name x.year x.zone x.contacts = true)
    (contacts : ∀ i ∈ x.contacts, (p.work.contact i).number ≠ none)
    (fresh : ∀ e ∈ p.work.slots, e.1 ≠ n → e.2.number ≠ x.number) (c : Clock) : pupilPut c n x p = writePupil c n x p := by
  have full : x.contacts.any (fun i => (p.work.contact i).number.isNone) = false := by
    rw [List.any_eq_false]
    intro i mem
    rw [Option.isNone_iff_eq_none]
    exact contacts i mem
  have free : p.work.numberTaken n x.number = false := by
    unfold Image.numberTaken
    rw [List.any_eq_false]
    intro e mem
    rw [Bool.and_eq_true, bne_iff_ne, beq_iff_eq]
    exact fun h => fresh e mem h.1 h.2
  unfold pupilPut
  rw [fields, full, free]
  rfl

/-- PUPIL PUT comes to a write of the slot, whatever its state, but for a LEFT slot of another number (R64). -/
theorem writePupil_stores {n : Nat} {x : Slot} {p : Part} (same : ∀ o, p.slot? n = some o → o.state = .left → o.number = x.number)
    (c : Clock) : ∃ items f k, writePupil c n x p = stored items f p k := by
  unfold writePupil
  dsimp only
  split
  case h_1 => exact ⟨_, _, _, rfl⟩
  case h_2 o held =>
    split
    case h_1 => exact ⟨_, _, _, rfl⟩
    case h_2 gone =>
      rw [if_pos (same o held gone)]
      exact ⟨_, _, _, rfl⟩

theorem excuseDel_taken {r : PupilRef} {k : ExcuseKind} {date : DateField} {d : Date} {n : Nat} {p : Part}
    (given : dateOf date = some d) (range : pupilInRange r = true) (named : p.work.slotNamed r = some n)
    (held : p.work.holdsExcuse n k d = true) : excuseDelRequest r (some k) date p
      = storedOk [.excuses] (fun img => { img with excuses := img.excuses.filter (fun e => !e.isFor n k d) }) p := by
  unfold excuseDelRequest
  dsimp only
  rw [given]
  dsimp only
  rw [range, named]
  dsimp only
  rw [if_pos held]
  rfl

/-- An allowance goes with LATE_ALLOWANCE alone (R148, step 1). -/
theorem allowanceFits_iff (k : ExcuseKind) (a : Option Nat) : allowanceFits k a = true ↔ (a ≠ none ↔ k = .lateAllowance) := by
  cases k <;> cases a <;> simp [allowanceFits]

theorem allowanceInRange_iff (a : Option Nat) : allowanceInRange a = true ↔ ∀ m, a = some m → 1 ≤ m ∧ m ≤ 240 := by
  cases a <;> simp [allowanceInRange]

/-- The date check of EXCUSE PUT takes the date of an undone SCHOOL record, and a later school day (R148, step 5). -/
theorem excuseDateRefused_none {p : Part} {today d : Date}
    (record : ∀ g, p.day = some g → g.date = d → g.done = false ∧ g.kind = .school)
    (other : p.day.filter (fun g => g.date == d) = none → today ≤ d ∧ (p.work.dayKind d).1 = .school) :
    excuseDateRefused p today d = none := by
  unfold excuseDateRefused
  cases day : p.day with
  | none =>
    obtain ⟨later, school⟩ := other (by rw [day]; rfl)
    dsimp only
    rw [if_neg (Nat.not_lt.mpr later), if_pos school]
  | some g =>
    dsimp only
    by_cases same : g.date = d
    · obtain ⟨undone, school⟩ := record g day same
      rw [undone, if_neg (by simp), if_pos ⟨same, school⟩]
    · obtain ⟨later, school⟩ := other (by rw [day]; simp [Option.filter, same])
      rw [if_neg (fun h => same h.1), if_neg (fun h => same h.1), if_neg (Nat.not_lt.mpr later), if_pos school]

/-- EXCUSE PUT whose checks pass comes to the writing of its record (R148). -/
theorem excusePut_taken {r : PupilRef} {k : ExcuseKind} {a : Option Nat} {date : DateField} {d : Date} {now : Stamp} {n : Nat}
    {y : Slot} {c : Clock} {p : Part} (given : dateOf date = some d) (range : pupilInRange r = true)
    (fits : a ≠ none ↔ k = .lateAllowance) (bounds : ∀ m, a = some m → 1 ≤ m ∧ m ≤ 240) (clock : c.stamp = some now)
    (found : p.work.enrolledPupil r = some (n, y)) (taken : excuseDateRefused p now.date d = none) :
    excusePutRequest c r (some k) a date p = writeExcuse c ⟨n, k, a, d, .office, now, none, false⟩ p := by
  unfold excusePutRequest
  dsimp only
  rw [(allowanceFits_iff k a).mpr fits, if_neg (by decide), given]
  dsimp only
  rw [range, (allowanceInRange_iff a).mpr bounds, if_neg (by decide), clock]
  dsimp only
  rw [found]
  dsimp only
  rw [taken]

/-- The writing of an excuse record with a place (R146). -/
theorem writeExcuse_taken {e : Excuse} {p : Part}
    (room : p.work.holdsExcuse e.slot e.kind e.date = true ∨ p.work.excuses.length < 256) (c : Clock) : writeExcuse c e p
      = stored [.excuses] (fun img => { img with excuses := putExcuse e img.excuses }) p (fun q => (sameDayEffect c .office e q,
          ok [.word (if p.work.holdsExcuse e.slot e.kind e.date then "REPLACED" else "NEW")])) := by
  have room : ¬ (!p.work.holdsExcuse e.slot e.kind e.date && decide (256 ≤ p.work.excuses.length)) = true := by
    rcases room with held | free
    · simp [held]
    · simp [Nat.not_le.mpr free]
  unfold writeExcuse
  dsimp only
  exact if_neg room

theorem stamp_of_reading {c : Clock} {x : Reading} (h : c.reading = some x) : c.stamp = some ⟨x.date, x.second⟩ := by
  unfold Clock.stamp
  rw [h]
  rfl

end Sys2Proof.Machine

open Sys2Proof.Machine

/-- Settles O4: every request is a `request` or TIME SET, and both meet a reply or a sleeping part alike. -/
theorem requestMeetsReplyOrSleep : Obligations.RequestMeetsReplyOrSleep := by
  intro i sfx s h
  rcases request_of_suffix h with ⟨ws, act, run⟩ | ⟨d, t, force, ws, run⟩
  · exact ⟨fun reply awake => (run s).trans (request_busy reply awake),
      fun asleep => (run s).trans ((request_dormant asleep).trans (run _).symm)⟩
  · exact ⟨fun reply awake => (run s).trans (timeSet_busy reply awake),
      fun asleep => (run s).trans ((timeSet_dormant asleep).trans (run _).symm)⟩

/-- Settles O5: every such request is a query with its reply. -/
theorem queriesAnswerAndChangeNothing : Obligations.QueriesAnswerAndChangeNothing := by
  intro i sfx f s h listening
  rw [query_of_reply h, query_listening listening]

/-- Settles O6: each request, once its checks pass, comes to a write, and a failed write is refused with STORE. -/
theorem failedStoreWriteChangesNothing : Obligations.FailedStoreWriteChangesNothing := by
  intro s sfx ws listening failed
  refine ⟨fun days l known once => request_fails listening failed (setCalendar_taken known once _),
    fun n plans i fine => request_fails listening failed (rotaPut_taken fine _),
    fun name short => request_fails listening failed (schoolSet_taken short _),
    fun t l range fine => request_fails listening failed (templatePut_taken range fine _),
    fun n number ch range digits short => request_fails listening failed (contactPut_taken ch range digits short _),
    fun t1 t2 t3 h d fine => request_fails listening failed (scoreSet_taken fine _),
    fun z r fine free => request_fails listening failed (zonePut_taken (p := heard s ws) fine free s.clock),
    fun r n x range found enrolled => request_fails listening failed (pupilRemove_taken (p := heard s ws) range found (.inl enrolled) s.clock),
    fun d date kind given plan room => request_fails listening failed (exceptionPut_taken (p := heard s ws) given plan room),
    fun d date given held => request_fails listening failed (exceptionDel_taken (p := heard s ws) given held),
    fun n name lead lag grace close fields l read items periods =>
      request_fails listening failed (planPut_taken read items periods _ _),
    fun e t range full => request_fails listening failed (templateMapSet_taken (p := heard s ws) e range full),
    fun n number name year zone contacts late priority fields full fresh same => ?_,
    fun given l known range once => request_fails listening failed (stationSet_taken known range once _),
    fun pace a b x y settle band start stop less pos most low bandPos bandMost => ?_,
    fun r k a d date x n y given range fits bounds reading found record other room => ?_,
    fun r k d date n given range named held => request_fails listening failed (excuseDel_taken (p := heard s ws) given range named held)⟩
  · have taken := pupilPut_taken (x := ⟨.enrolled, number, name, year, zone, contacts, late, priority, 0, 0⟩)
      (p := heard s ws) fields full fresh s.clock
    obtain ⟨items, f, k, e⟩ := writePupil_stores (p := heard s ws)
      (x := ⟨.enrolled, number, name, year, zone, contacts, late, priority, 0, 0⟩) same s.clock
    exact request_fails listening failed (taken.trans e)
  · have settings := readSettings_taken start stop ⟨pos, most, less, low, bandPos, bandMost⟩
    exact request_fails listening failed (gatewaySet_taken settings _)
  · have taken := excuseDateRefused_none (p := heard s ws) (today := x.date) record other
    have put := excusePut_taken (p := heard s ws) given range fits bounds (stamp_of_reading reading) found taken
    exact request_fails listening failed (put.trans
      (writeExcuse_taken (e := ⟨n, k, a, d, .office, ⟨x.date, x.second⟩, none, false⟩) (p := heard s ws) room s.clock))

end

section
/-!
The state after reset (R194), the calendar requests (R8 to R10), the day kind (R11) and TIME SET (R3 to R5).
-/

-- One declaration after another: the text is compiled as one, and a declaration that waits for others holds a thread.
set_option Elab.async false

namespace Sys2Proof.Machine

/-! ## Tables of a store never written -/

theorem vector_getD_ofFn {α : Type} {n k : Nat} (f : Nat → α) (d : α) (h : k < n) :
    (Vector.ofFn (fun i : Fin n => f i.val)).getD k d = f k := by
  simp [Vector.getD, h]

theorem fresh_plan {n : Nat} (h : n ≤ 7) : Image.fresh.plan n = Plan.fresh n := vector_getD_ofFn _ _ (by omega)

theorem fresh_zone {z : Nat} (h : z ≤ 5) : Image.fresh.zone z = Zone.fresh z := vector_getD_ofFn _ _ (by omega)

theorem fresh_template {t : Nat} (h : t ≤ 31) : Image.fresh.template t = templateFresh t := vector_getD_ofFn _ _ (by omega)

/-- The digit of a plan's default name is its number in decimal (R20). -/
theorem plan_digit {n : Nat} (h : n ≤ 7) : [BitVec.ofNat 8 (48 + n)] = decimal n := by
  have one : n % 10 = n := Nat.mod_eq_of_lt (by omega)
  unfold decimal digitsRev
  rw [one, if_pos (by omega)]
  rfl

theorem templateFresh_empty {t : Nat} (h : 8 ≤ t) : templateFresh t = none := by
  obtain ⟨k, rfl⟩ := Nat.exists_eq_add_of_le' h
  rfl

/-- A station after reset is READY at address 0 and ABSENT elsewhere (R98). -/
theorem reset_station {n : Nat} (h : n ≤ 3) :
    State.reset.part.station n = if n = 0 then Station.fresh else Station.absent := by
  have table : State.reset.part.station n = if n ∈ [0] then Station.fresh else Station.absent :=
    vector_getD_ofFn (fun n => if n ∈ [0] then Station.fresh else Station.absent) _ (by omega)
  rw [table]
  simp

theorem reset_zoneState {z : Nat} (h : z ≤ 5) :
    State.reset.part.zoneState z = if z = 0 then some (.up .armed) else none := by
  have table : State.reset.part.zoneState z = if (Image.fresh.zone z).present then some (.up .armed) else none := by
    have bound : z < 6 := by omega
    simp [Part.zoneState, State.reset, Part.reset, Bells.reset, zoneStatesReset, Image.zone, Vector.getD, bound]
  rw [table, fresh_zone h]
  simp [Zone.fresh]

end Sys2Proof.Machine

open Sys2Proof.Machine

/-- Settles O2: the items of the reset state, the tables by the entries they are made of. -/
theorem resetStandsAsTheTablesSay : Obligations.ResetStandsAsTheTablesSay := by
  have template := fun (t : Nat) (h : t ≤ 31) => fresh_template h
  refine ⟨rfl, rfl, rfl, rfl, rfl, rfl, rfl, fun z pos most => ?_, rfl, rfl, rfl, rfl, fun z bound => ?_, rfl, rfl, rfl, rfl,
    rfl, rfl, rfl, rfl, rfl, rfl, ?_, fun n pos most => ?_, fun n most => ?_, rfl, rfl, rfl, rfl, rfl, rfl, rfl, rfl,
    rfl, rfl, rfl, rfl, rfl, rfl, rfl, rfl, rfl, rfl, rfl, rfl, rfl, rfl, rfl, rfl, rfl, rfl, rfl, rfl, rfl,
    rfl, rfl, fun n most => ?_, fun z most => (fresh_zone most).trans rfl, ?_, fun t least most => ?_, fun e => ?_⟩
  · rw [reset_zoneState most, if_neg (by omega)]
  · exact (vector_getD_ofFn (fun _ => FaultMemory.fresh) _ bound)
  · rw [reset_station (by decide)]
    rfl
  · rw [reset_station most, if_neg (by omega)]
    rfl
  · rw [reset_station most]
    split <;> exact ⟨rfl, rfl, rfl, rfl, rfl, rfl, rfl⟩
  · refine (fresh_plan most).trans ?_
    rw [← plan_digit most]
    rfl
  · exact ⟨template 0 (by decide), template 1 (by decide), template 2 (by decide), template 3 (by decide), template 4 (by decide),
      template 5 (by decide), template 6 (by decide), template 7 (by decide)⟩
  · exact (template t most).trans (templateFresh_empty least)
  · cases e <;> rfl

end

section
/-!
The clock and the calendar, case by case (R2 to R5, R8 to R18).
-/

-- One declaration after another: the text is compiled as one, and a declaration that waits for others holds a thread.
set_option Elab.async false

namespace Sys2Proof.Machine

/-! ## The calendar requests -/

/-- A list of words is known exactly when it is a list of known words. -/
theorem allKnown_eq_some_iff {α : Type} {l : List (Option α)} {k : List α} : allKnown l = some k ↔ l = k.map some := by
  induction l generalizing k with
  | nil => cases k <;> simp [allKnown]
  | cons a l ih =>
    cases a with
    | none => cases k <;> simp [allKnown]
    | some a =>
      rw [allKnown, Option.map_eq_some_iff]
      constructor
      · rintro ⟨k', known, rfl⟩
        rw [List.map_cons, ih.mp known]
      · intro e
        cases k with
        | nil => cases e
        | cons b k =>
          obtain ⟨head, rest⟩ := List.cons.inj e
          cases head
          exact ⟨k, ih.mpr rest, rfl⟩

theorem setCalendar_malformed {days : List (Option Weekday)} (h : none ∈ days ∨ ¬ days.Nodup) (p : Part) :
    setCalendar days p = refuse .malformed p := by
  unfold setCalendar
  split
  case h_1 => rfl
  case h_2 l known =>
    rw [allKnown_eq_some_iff.mp known] at h
    have twice : ¬ noRepeat l = true := by
      rw [noRepeat_iff]
      rcases h with unknown | twice
      · simp at unknown
      · exact fun once => twice (once.map (Option.some_injective _))
    exact if_neg twice

theorem exceptionPut_outOfRange {d : DateField} {kind : ExceptKind} (h : dateOf d = none ∨ ∃ n, kind = .school n ∧ 7 < n) (p : Part) :
    exceptionPut d kind p = refuse .range p := by
  unfold exceptionPut
  split
  case h_1 => rfl
  case h_2 date given =>
    rcases h with bad | ⟨n, rfl, above⟩
    · rw [bad] at given; cases given
    · have bad : exceptKindOk (.school n) = false := decide_eq_false (Nat.not_le.mpr above)
      rw [bad]
      rfl

/-- No entry of the list has the date. -/
theorem exceptions_any_false {l : List Exception} {date : Date} (h : ∀ e ∈ l, e.date ≠ date) :
    l.any (fun e => e.date == date) = false := by
  rw [List.any_eq_false]
  intro e mem
  rw [beq_iff_eq]
  exact h e mem

theorem exceptionPut_full {d : DateField} {date : Date} {kind : ExceptKind} {p : Part} (given : dateOf d = some date)
    (plan : ∀ n, kind = .school n → n ≤ 7) (fresh : ∀ e ∈ p.work.exceptions, e.date ≠ date)
    (full : 64 ≤ p.work.exceptions.length) : exceptionPut d kind p = refuse .full p := by
  have room : ¬ p.work.exceptions.length < Config.exceptionMax := Nat.not_lt.mpr full
  unfold exceptionPut
  rw [given]
  dsimp only
  rw [exceptKindOk_of plan, exceptions_any_false fresh, decide_eq_false room]
  rfl

theorem exceptionDel_notFound {d : DateField} {date : Date} {p : Part} (given : dateOf d = some date)
    (fresh : ∀ e ∈ p.work.exceptions, e.date ≠ date) : exceptionDel d p = refuse .notFound p := by
  unfold exceptionDel
  rw [given]
  dsimp only
  rw [exceptions_any_false fresh]
  rfl

theorem exceptionDel_outOfRange {d : DateField} (h : dateOf d = none) (p : Part) : exceptionDel d p = refuse .range p := by
  unfold exceptionDel
  rw [h]

theorem rotaOk_iff (n : Nat) (plans : List Nat) (i : Nat) :
    rotaOk n plans i = true ↔ 1 ≤ n ∧ n ≤ 20 ∧ plans.length = n ∧ (∀ q ∈ plans, q ≤ 7) ∧ i < n := by
  simp [rotaOk, and_assoc]

theorem rotaPut_outOfRange {n i : Nat} {plans : List Nat} (h : n < 1 ∨ 20 < n ∨ plans.length ≠ n ∨ (∃ q ∈ plans, 7 < q) ∨ n ≤ i)
    (p : Part) : rotaPut n plans i p = refuse .range p := by
  refine if_neg fun fine => ?_
  obtain ⟨pos, most, length, range, index⟩ := (rotaOk_iff n plans i).mp fine
  rcases h with h | h | h | ⟨q, mem, above⟩ | h
  · omega
  · omega
  · exact h length
  · exact absurd (range q mem) (Nat.not_le.mpr above)
  · omega

/-! ## TIME SET -/

theorem dateOf_outOfRange {d : DateField} (h : d.year < 2000 ∨ 2099 < d.year ∨ d.month < 1 ∨ 12 < d.month ∨ d.day < 1
    ∨ (monthLengths d.year).getD (d.month - 1) 0 < d.day) : dateOf d = none := by
  refine if_neg ?_
  rintro ⟨y1, y2, m1, m2, d1, d2⟩
  omega

theorem secondOf_outOfRange {t : TimeField} (h : 23 < t.hour ∨ 59 < t.minute ∨ 59 < t.second.getD 0) : secondOf t = none := by
  refine if_neg ?_
  rintro ⟨hour, minute, second⟩
  omega

/-- TIME SET in a listening part, by what the setting decides. -/
theorem timeSet_answers {s : State} {sfx : Bool} {d : DateField} {t : TimeField} {force : Bool} {ws : List Bool} (h : Listening s)
    {c : Clock} {q : Part} {r : Reply} (e : setTime s.clock d t force (heard s ws) = (c, q, r)) :
    exec (.timeSet sfx d t force ws) s = .next { replied s q sfx r with clock := c } := by
  have set := timeSet_listening (sfx := sfx) (d := d) (t := t) (force := force) (ws := ws) h
  rw [e] at set
  exact set

theorem timeSet_refuses {s : State} {sfx : Bool} {d : DateField} {t : TimeField} {force : Bool} {ws : List Bool} (h : Listening s)
    {code : ErrCode} (e : setTime s.clock d t force (heard s ws) = (s.clock, refuse code (heard s ws))) :
    exec (.timeSet sfx d t force ws) s = .next (refusedWith s sfx code) := by
  have set := timeSet_listening (sfx := sfx) (d := d) (t := t) (force := force) (ws := ws) h
  rw [e] at set
  exact set

theorem setTime_outOfRange {d : DateField} {t : TimeField} (h : dateOf d = none ∨ secondOf t = none) (c : Clock) (force : Bool)
    (p : Part) : setTime c d t force p = (c, refuse .range p) := by
  unfold setTime
  split
  case h_1 date sec given time => rcases h with h | h <;> simp_all
  case h_2 => rfl

theorem setTime_unset {c : Clock} {d : DateField} {t : TimeField} {date : Date} {sec : Nat} (given : dateOf d = some date)
    (time : secondOf t = some sec) (unset : c.reading = none) (force : Bool) (p : Part) :
    setTime c d t force p = setFromUnset c date sec p := by
  unfold setTime
  rw [given, time]
  dsimp only
  rw [unset]

theorem setTime_sameDate {c : Clock} {d : DateField} {t : TimeField} {date : Date} {sec : Nat} {x : Reading}
    (given : dateOf d = some date) (time : secondOf t = some sec) (reading : c.reading = some x) (same : x.date = date)
    (force : Bool) (p : Part) : setTime c d t force p = setSameDate c x sec p := by
  unfold setTime
  rw [given, time]
  dsimp only
  rw [reading]
  exact if_pos same

theorem setSameDate_slew {x : Reading} {sec : Nat} (near : (clockError x sec).natAbs ≤ 1920) (c : Clock) (p : Part) :
    setSameDate c x sec p = ({ c with slew := clockError x sec }, p, ok [.word "SLEW", .num (clockError x sec)]) := if_pos near

theorem setSameDate_step {x : Reading} {sec : Nat} (far : 1920 < (clockError x sec).natAbs) (c : Clock) (p : Part) :
    setSameDate c x sec p = (c.at x.date sec, stepped (c.at x.date sec) x.second sec
      (raise (c.at x.date sec) (.clockStep ⟨x.date, x.second⟩ ⟨x.date, sec⟩) p), ok [.word "STEP"]) :=
  if_neg (Nat.not_le.mpr far)

theorem setTime_otherDate {c : Clock} {d : DateField} {t : TimeField} {date : Date} {sec : Nat} {x : Reading}
    (given : dateOf d = some date) (time : secondOf t = some sec) (reading : c.reading = some x) (other : x.date ≠ date)
    (force : Bool) (p : Part) : setTime c d t force p = setOtherDate c x date sec force p := by
  unfold setTime
  rw [given, time]
  dsimp only
  rw [reading]
  exact if_neg other

theorem setOtherDate_closed {p : Part} (h : p.openDay = none) (c : Clock) (x : Reading) (d : Date) (s : Nat) (force : Bool) :
    setOtherDate c x d s force p = changeDate c x d s p := by
  unfold setOtherDate
  rw [h]

theorem setOtherDate_forced {p : Part} {r : DayRecord} (h : p.openDay = some r) (alert : p.ac.alert = none) (c : Clock)
    (x : Reading) (d : Date) (s : Nat) : setOtherDate c x d s true p = changeDate c x d s (dayClose c r p) := by
  unfold setOtherDate Part.noAlert
  rw [h, alert]
  rfl

theorem setOtherDate_refused {p : Part} {r : DayRecord} {force : Bool} (h : p.openDay = some r)
    (held : p.ac.alert ≠ none ∨ force = false) (c : Clock) (x : Reading) (d : Date) (s : Nat) :
    setOtherDate c x d s force p = (c, refuse .state p) := by
  unfold setOtherDate
  rw [h]
  refine if_neg fun both => ?_
  rw [Bool.and_eq_true] at both
  obtain ⟨calm, forced⟩ := both
  rcases held with alert | notForced
  · exact alert (Option.isNone_iff_eq_none.mp calm)
  · rw [notForced] at forced; cases forced

/-! ## What the seconds passed over reach -/

theorem resumeAmong_eq (a b : Nat) (p : Part) :
    resumeAmong a b p = if p.sweeps.resume.any (fun k => a ≤ k ∧ k < b) then resumeReached p else p := by
  unfold resumeAmong
  cases p.sweeps.resume <;> simp

theorem wakeTimeAmong_eq (c : Clock) (a b : Nat) (p : Part) :
    wakeTimeAmong c a b p = if p.hl.wakeTime.any (fun m => a ≤ m * 60 ∧ m * 60 < b) then setFlag c .time p else p := by
  unfold wakeTimeAmong
  cases p.hl.wakeTime <;> simp

theorem stepped_back {old new : Nat} (h : new ≤ old) (c : Clock) (p : Part) : stepped c old new p = tryClose c (tryOpen c p) :=
  if_neg (Nat.not_lt.mpr h)

theorem stepped_forward {old new : Nat} (h : old < new) (c : Clock) (p : Part) :
    stepped c old new p = reachSeconds c (old + 1) (new + 1) (stepRing c old new) p := if_pos h

theorem skipped_iff (old new : Nat) (e : RingEntry) :
    skipped old new e = decide (e.state = .pending ∧ old < e.time ∧ e.time < new) := by
  simp [skipped, Bool.and_assoc, Bool.decide_and, beq_eq_decide]

/-! ## A sixteenth of a crystal second -/

theorem tick_unset {c : Clock} (h : c.reading = none) : c.tick = ({ c with crystal := c.crystal + 1 }, .within) := by
  unfold Clock.tick
  rw [h]

theorem tick_reading {c : Clock} {x : Reading} (h : c.reading = some x) :
    c.tick = ({ crystal := c.crystal + 1, reading := some (x.advance (slewStep (c.crystal + 1) c.slew).1).1
                slew := (slewStep (c.crystal + 1) c.slew).2 }, (x.advance (slewStep (c.crystal + 1) c.slew).1).2) := by
  unfold Clock.tick
  rw [h]

/-- The sixteenths of a tick and the slew after it, at the end of a crystal second and within one (R2). -/
theorem slewStep_eq (k : Nat) (slew : Int) :
    let last : Bool := k % 16 == 0
    slewStep k slew = (if last && decide (0 < slew) then 2 else if last && decide (slew < 0) then 0 else 1,
      if last then slew - slew.sign else slew) := by
  have sixteen : Config.sixteenths = 16 := rfl
  unfold slewStep
  rw [sixteen]
  by_cases last : k % 16 = 0
  · rcases lt_trichotomy slew 0 with neg | rfl | pos
    · have back : ¬ 0 < slew := by omega
      simp [last, back, neg, Int.sign_eq_neg_one_of_neg neg]
    · simp [last]
    · have forward : ¬ slew < 0 := by omega
      simp [last, pos, Int.sign_eq_one_of_pos pos]
  · simp [last]

theorem advance_within {x : Reading} {n : Nat} (h : x.fraction + n < 16) :
    x.advance n = ({ x with fraction := x.fraction + n }, .within) := if_pos h

theorem advance_second {x : Reading} {n : Nat} (past : 16 ≤ x.fraction + n) (h : x.second + 1 < 86400) :
    x.advance n = ({ x with second := x.second + 1, fraction := x.fraction + n - 16 }, .second) :=
  (if_neg (Nat.not_lt.mpr past)).trans (if_pos h)

theorem advance_midnight {x : Reading} {n : Nat} (past : 16 ≤ x.fraction + n) (h : 86400 ≤ x.second + 1) :
    x.advance n = ({ date := nextDate x.date, second := 0, fraction := x.fraction + n - 16 }, .midnight) :=
  (if_neg (Nat.not_lt.mpr past)).trans (if_neg (Nat.not_lt.mpr h))

/-! ## Midnight, day open and day close -/

theorem noAlert_iff (p : Part) : p.noAlert = true ↔ p.ac.alert = none := Option.isNone_iff_eq_none

theorem noAlert_false {p : Part} (h : p.ac.alert ≠ none) : p.noAlert = false := by
  rw [← Bool.not_eq_true, noAlert_iff]
  exact h

theorem midnight_eq {c : Clock} {p q : Part} (h : midnightDay c p = q) :
    midnight c p = if q.sweeps.resume = none then q else resumeReached q := by
  unfold midnight
  dsimp only
  rw [h]
  cases q.sweeps.resume <;> simp

theorem midnightDay_closed {p : Part} (h : p.openDay = none) (c : Clock) : midnightDay c p = evaluateAndTest c p := by
  unfold midnightDay
  rw [h]

theorem midnightDay_open {p : Part} {r : DayRecord} (h : p.openDay = some r) (calm : p.ac.alert = none) (c : Clock) :
    midnightDay c p = evaluateAndTest c (dayClose c r p) := by
  unfold midnightDay
  rw [h]
  exact if_pos ((noAlert_iff p).mpr calm)

theorem midnightDay_alert {p : Part} (h : p.openDay ≠ none) (alert : p.ac.alert ≠ none) (c : Clock) : midnightDay c p = p := by
  unfold midnightDay
  split
  case h_1 closed => exact absurd closed h
  case h_2 => rw [noAlert_false alert]; rfl

theorem second?_of_reading {c : Clock} {x : Reading} (h : c.reading = some x) : c.second? = some x.second := by
  unfold Clock.second?
  rw [h]
  rfl

/-- The open time stands for a CLOSED SCHOOL record with done no and a plan (R13). -/
theorem openTimeOf_of {p : Part} {r : DayRecord} {n : Nat} (kind : r.kind = .school) (phase : r.phase = .closed)
    (undone : r.done = false) (plan : r.plan = some n) :
    p.openTimeOf r = some (openTime p.work p.bells.pendingDelay (p.work.plan n)) := by
  unfold Part.openTimeOf
  rw [if_pos ⟨kind, phase, by rw [undone]; rfl⟩, plan]
  rfl

theorem openTimeOf_none {r : DayRecord} (h : r.kind = .noSchool ∨ r.phase = .opened ∨ r.done = true ∨ r.plan = none) (p : Part) :
    p.openTimeOf r = none := by
  unfold Part.openTimeOf
  split
  case isTrue conditions =>
    obtain ⟨kind, phase, undone⟩ := conditions
    rcases h with h | h | h | h
    · rw [h] at kind; cases kind
    · rw [h] at phase; cases phase
    · rw [h] at undone; cases undone
    · rw [h]; rfl
  case isFalse => rfl

theorem tryOpen_of {c : Clock} {p : Part} {r : DayRecord} {n o : Nat} {x : Reading} (day : p.day = some r) (plan : r.plan = some n)
    (time : p.openTimeOf r = some o) (reading : c.reading = some x) :
    tryOpen c p = if o ≤ x.second then dayOpen c r n p else p := by
  unfold tryOpen
  rw [day]
  dsimp only
  rw [plan, time, second?_of_reading reading]

theorem tryOpen_none {c : Clock} {p : Part} (h : p.day = none ∨ c.reading = none
    ∨ ∃ r, p.day = some r ∧ (r.kind = .noSchool ∨ r.phase = .opened ∨ r.done = true ∨ r.plan = none)) : tryOpen c p = p := by
  unfold tryOpen
  split
  case h_1 => rfl
  case h_2 r day =>
    split
    case h_1 n o s _ time second =>
      rcases h with none' | unset | ⟨r', day', unfit⟩
      · rw [none'] at day; cases day
      · unfold Clock.second? at second
        rw [unset] at second
        cases second
      · cases day.symm.trans day'
        rw [openTimeOf_none unfit p] at time
        cases time
    case h_2 => rfl

/-- O is the least start of the first period over the offsets, less the lead (R13). -/
theorem openTime_spec {img : Image} {pl : Plan} {q : Period} {rest : List Period} (d : Nat) (first : pl.periods = q :: rest) :
    let offsets := if img.presentZones = [] then [0] else img.presentZones.map (fun z => (img.zone z).offset)
    let starts := offsets.map (fun o => ((q.start : Int) * 60 + o + (d : Int) * 60).toNat)
    ∃ m ∈ starts, (∀ k ∈ starts, m ≤ k) ∧ openTime img d pl = m - pl.lead * 60 := by
  intro offsets starts
  have some' : starts ≠ [] := by
    intro e
    have : offsets = [] := List.map_eq_nil_iff.mp e
    by_cases none' : img.presentZones = []
    · simp [offsets, none'] at this
    · simp [offsets, none'] at this
  obtain ⟨m, mem, min, eq⟩ := least_spec some'
  refine ⟨m, mem, min, ?_⟩
  have same : openTime img d pl = (least starts).getD 0 - pl.lead * 60 := by
    unfold openTime startSecond
    rw [first]
    simp only [starts, offsets, List.isEmpty_iff, List.head?_cons, Option.map_some, Option.getD_some, Nat.cast_mul, Nat.cast_ofNat]
  rw [same, eq]
  rfl

theorem tryClose_closed {p : Part} (h : p.openDay = none) (c : Clock) : tryClose c p = p := by
  unfold tryClose
  rw [h]

theorem closeNow_of {c : Clock} {p : Part} {r : DayRecord} {t : Today} (day : p.openDay = some r) (copy : p.bells.today = some t) :
    closeNow c p = if p.noAlert && timePassed c r t then dayClose c r p else p := by
  unfold closeNow
  rw [day, copy]

theorem tryClose_of {c : Clock} {p : Part} {r : DayRecord} (day : p.openDay = some r) :
    tryClose c p = if p.noAlert && deferred c r then evaluateAndTest c (dayClose c r p) else closeNow c p := by
  unfold tryClose
  rw [day]

theorem deferred_iff {c : Clock} {r : DayRecord} {x : Reading} (h : c.reading = some x) : deferred c r = (x.date != r.date) := by
  unfold deferred
  rw [h]

theorem timePassed_iff {c : Clock} {r : DayRecord} {t : Today} {x : Reading} (h : c.reading = some x) :
    timePassed c r t = (x.date != r.date || decide (t.closeTime ≤ x.second)) := by
  unfold timePassed
  rw [h]

/-- The day close test on an OPEN day (R16, R18). -/
theorem tryClose_cases {c : Clock} {p : Part} {r : DayRecord} {t : Today} {x : Reading} (day : p.openDay = some r)
    (copy : p.bells.today = some t) (reading : c.reading = some x) :
    (p.ac.alert ≠ none → tryClose c p = p) ∧
    (p.ac.alert = none → x.date = r.date → t.closeTime ≤ x.second → tryClose c p = dayClose c r p) ∧
    (p.ac.alert = none → x.date = r.date → x.second < t.closeTime → tryClose c p = p) ∧
    (p.ac.alert = none → x.date ≠ r.date → tryClose c p = evaluateAndTest c (dayClose c r p)) := by
  rw [tryClose_of day, closeNow_of day copy, deferred_iff reading, timePassed_iff reading]
  refine ⟨fun alert => ?_, fun calm same past => ?_, fun calm same before => ?_, fun calm other => ?_⟩
  · simp [noAlert_false alert]
  · simp [(noAlert_iff p).mpr calm, same, past]
  · simp [same, Nat.not_le.mpr before]
  · simp [(noAlert_iff p).mpr calm, other]

/-- C is the greatest contribution over the zone set, plus the lag (R15). -/
theorem closeTime_spec (t : Today) :
    let zones := if t.zones = [] then [6] else t.zones.map (·.zone)
    ∃ z ∈ zones, (∀ y ∈ zones, t.closeTerm y ≤ t.closeTerm z) ∧ t.closeTime = t.closeTerm z + t.plan.lag * 60 := by
  intro zones
  have terms : t.terms = zones := t.terms_eq
  have some' : zones.map t.closeTerm ≠ [] := by
    intro e
    have : zones = [] := List.map_eq_nil_iff.mp e
    by_cases none' : t.zones = []
    · simp [zones, none'] at this
    · simp [zones, none'] at this
  obtain ⟨m, mem, max, eq⟩ := greatest_spec some'
  obtain ⟨z, zone, rfl⟩ := List.mem_map.mp mem
  refine ⟨z, zone, fun y h => max _ (List.mem_map_of_mem h), ?_⟩
  unfold Today.closeTime
  rw [terms, eq]
  rfl

theorem closeTerm_of_last {t : Today} {z k a e : Nat} (last : t.lastPeriod z = some k) (times : t.effective k z = some (a, e)) :
    t.closeTerm z = e := by
  unfold Today.closeTerm
  rw [last, Option.bind_some, times]

theorem closeTerm_of_none {t : Today} {z : Nat} (last : t.lastPeriod z = none) :
    t.closeTerm z = (t.early.map (fun x => x * 60)).getD 86400 := by
  unfold Today.closeTerm
  rw [last]
  cases t.early <;> rfl

/-! ## Sweeps and outbox -/

theorem atOrPast_of {c : Clock} {r : DayRecord} {now : Reading} (h : c.reading = some now) (k : Nat) :
    atOrPast c r k = (now.date == r.date && decide (k ≤ now.second)) := by
  unfold atOrPast
  rw [h]

/-- A record that is not WAITING, has no cutoff, or has one that the clock has not reached, does not start (R135). -/
theorem startDue_get?_of_not_due {c : Clock} {p : Part} {r : DayRecord} {x : Reg} {y : Sweep} (day : p.openDay = some r)
    (hy : p.sweeps.get? x = some y) (h : y.state ≠ .waiting ∨ y.cutoff = none ∨ ∀ k now, y.cutoff = some k → c.reading = some now →
      now.date ≠ r.date ∨ now.second < k) : (startDue c p).sweeps.get? x = some y := by
  have early : ¬ (y.state = .waiting ∧ (y.cutoff.map (atOrPast c r)).getD false = true) := by
    rintro ⟨waiting, due⟩
    rcases h with other | none' | early
    · exact other waiting
    · rw [none'] at due; cases due
    · cases cutoff : y.cutoff with
      | none => rw [cutoff] at due; cases due
      | some k =>
        rw [cutoff] at due
        cases reading : c.reading with
        | none =>
          have past : atOrPast c r k = true := due
          unfold atOrPast at past
          rw [reading] at past
          cases past
        | some now =>
          have past : atOrPast c r k = true := due
          rw [atOrPast_of reading, Bool.and_eq_true, beq_iff_eq, decide_eq_true_eq] at past
          rcases early k now cutoff reading with other | before
          · exact other past.1
          · omega
  unfold startDue
  rw [day]
  dsimp only
  rw [Sweeps.get?_map, hy, Option.map_some, if_neg early]

/-- The start of due sweeps on an OPEN day, record by record (R135). -/
theorem startDue_cases {c : Clock} {p : Part} {r : DayRecord} (day : p.openDay = some r) :
    ∃ w, startDue c p = { p with sweeps := w } ∧ w.resume = p.sweeps.resume ∧
      ∀ x y, p.sweeps.get? x = some y →
        (∀ k now, y.state = .waiting → y.cutoff = some k → c.reading = some now → now.date = r.date → k ≤ now.second →
          w.get? x = some { y with state := if p.held then .suspended else .running, cursor := 0, startedAt := some now.second }) ∧
        (y.state ≠ .waiting ∨ y.cutoff = none ∨ (∀ k now, y.cutoff = some k → c.reading = some now →
            now.date ≠ r.date ∨ now.second < k) →
          w.get? x = some y) := by
  obtain ⟨w, eq, resume⟩ := startDue_touches c p
  have sweeps : (startDue c p).sweeps = w := by rw [eq]
  refine ⟨w, eq, resume, fun x y hy => ⟨fun k now waiting cutoff reading date reached => ?_, fun h => ?_⟩⟩
  · have due : (y.cutoff.map (atOrPast c r)).getD false = true := by
      rw [cutoff, Option.map_some, Option.getD_some, atOrPast_of reading]
      simp [date, reached]
    rw [← sweeps, startDue_get?_of_due c hy waiting day due]
    simp [Sweep.start, second?_of_reading reading]
  · rw [← sweeps]
    exact startDue_get?_of_not_due day hy h

/-- An entry is READY once the clock has reached its eligible time (R162). -/
theorem reachedStamp_eq (c : Clock) (x : Option Stamp) : reachedStamp c x = match x, c.stamp with
    | none, _ => true
    | some _, none => false
    | some x, some now => decide (x.date < now.date ∨ (x.date = now.date ∧ x.second ≤ now.second)) := by
  cases x with
  | none => rfl
  | some x =>
    unfold reachedStamp
    cases c.stamp with
    | none => rfl
    | some now => simp [Stamp.le, Bool.decide_or, Bool.decide_and, beq_eq_decide]

end Sys2Proof.Machine

open Sys2Proof.Machine

/-- Settles O13: where each request comes to its write, and each refusal by its cause. -/
theorem calendarRequestsAreTakenOrRefused : Obligations.CalendarRequestsAreTakenOrRefused := by
  intro s sfx ws listening
  refine ⟨fun kept => ⟨fun days l known once => request_stores listening kept (setCalendar_taken known once _),
      fun d date kind given plan room => request_stores listening kept (exceptionPut_taken (p := heard s ws) given plan room),
      fun d date given held => request_stores listening kept (exceptionDel_taken (p := heard s ws) given held),
      fun n plans i pos most length range index =>
        request_stores listening kept (rotaPut_taken ((rotaOk_iff n plans i).mpr ⟨pos, most, length, range, index⟩) _)⟩,
    fun days bad => request_refuses listening (setCalendar_malformed bad _),
    fun d kind bad => request_refuses listening (exceptionPut_outOfRange bad _),
    fun d bad => request_refuses listening (exceptionDel_outOfRange bad _),
    fun d date kind given plan fresh full => request_refuses listening (exceptionPut_full (p := heard s ws) given plan fresh full),
    fun d date given fresh => request_refuses listening (exceptionDel_notFound (p := heard s ws) given fresh),
    fun n plans i bad => request_refuses listening (rotaPut_outOfRange bad _)⟩

/-- Settles O14: by the branches of the day kind. -/
theorem dayKindIsDecidedInOrder : Obligations.DayKindIsDecidedInOrder := by
  intro img d
  refine ⟨fun e found => ?_, fun none' listed => ?_, fun none' unlisted => ?_, rfl⟩
  · unfold Image.dayKind
    rw [found]
    obtain ⟨date, _ | n⟩ := e <;> rfl
  · unfold Image.dayKind
    rw [none']
    exact if_pos listed
  · unfold Image.dayKind
    rw [none']
    exact if_neg unlisted

/-- Settles O9: a field out of range is refused; while UNSET the setting is taken. -/
theorem timeSetByRangeAndFromUnset : Obligations.TimeSetByRangeAndFromUnset := by
  intro s sfx d t force ws listening
  refine ⟨fun bad => timeSet_refuses listening (setTime_outOfRange ?_ _ _ _), fun date sec given time unset => ⟨?_, rfl⟩⟩
  · rcases bad with h | h | h | h | h | h | h | h | h
    · exact .inl (dateOf_outOfRange (.inl h))
    · exact .inl (dateOf_outOfRange (.inr (.inl h)))
    · exact .inl (dateOf_outOfRange (.inr (.inr (.inl h))))
    · exact .inl (dateOf_outOfRange (.inr (.inr (.inr (.inl h)))))
    · exact .inl (dateOf_outOfRange (.inr (.inr (.inr (.inr (.inl h))))))
    · exact .inl (dateOf_outOfRange (.inr (.inr (.inr (.inr (.inr h))))))
    · exact .inr (secondOf_outOfRange (.inl h))
    · exact .inr (secondOf_outOfRange (.inr (.inl h)))
    · exact .inr (secondOf_outOfRange (.inr (.inr h)))
  · exact timeSet_answers listening (setTime_unset given time unset _ _)

/-- Settles O10: the setting by its error, the step by its direction, and the ring table by the entries it skips. -/
theorem sameDateSettingSlewsOrSteps : Obligations.SameDateSettingSlewsOrSteps := by
  refine ⟨fun s sfx d t force ws date sec x listening given time reading same => ?_, fun c old new p => ?_, fun c old new p => ?_⟩
  · have set := setTime_sameDate given time reading same force (heard s ws)
    intro e c
    have error : clockError x sec = e := rfl
    refine ⟨fun near => timeSet_answers listening (set.trans (setSameDate_slew ?_ _ _)),
      fun far => timeSet_answers listening (set.trans ?_)⟩
    · rw [error]
      omega
    · rw [setSameDate_step (by rw [error]; omega), same]
      rfl
  · refine ⟨fun back => stepped_back back c p, fun forward => ?_⟩
    have past : ∀ k, (old + 1 ≤ k ∧ k < new + 1) = (old < k ∧ k ≤ new) := fun k => propext (by omega)
    intro reached resumed woken
    rw [stepped_forward forward]
    unfold reachSeconds
    dsimp only
    rw [wakeTimeAmong_eq, resumeAmong_eq]
    simp only [past]
    rfl
  · intro skips n q
    have same : skipped old new = fun e => decide (skips e) := funext (skipped_iff old new)
    unfold stepRing
    rw [same]
    simp only [decide_eq_true_eq]
    rfl

/-- Settles O11: a closed day, a forced close, or a refusal. -/
theorem dateChangeFollowsPhaseAndAlert : Obligations.DateChangeFollowsPhaseAndAlert := by
  intro s sfx d t force ws date sec x listening given time reading other
  have set := setTime_otherDate given time reading other
  refine ⟨fun closed => timeSet_answers listening ?_, fun r day calm forced => ?_, fun r day held => timeSet_refuses listening ?_⟩
  · exact (set force _).trans (setOtherDate_closed (p := heard s ws) closed _ _ _ _ _)
  · rw [forced]
    exact timeSet_answers listening ((set true _).trans (setOtherDate_forced (p := heard s ws) day calm _ _ _ _))
  · exact (set force _).trans (setOtherDate_refused (p := heard s ws) day held _ _ _ _)

/-- Settles O8: the tick by its slew and its advance; then each thing that a second or a midnight reaches. -/
theorem tickAdvancesTheClock : Obligations.TickAdvancesTheClock := by
  refine ⟨fun s ws => ⟨_, rfl, rfl, ?_, fun unset => ?_, fun x reading => ?_⟩, fun c p => ?_, fun c p free => ?_,
    fun c p open' alert => midnight_eq (midnightDay_alert open' alert c), fun c p x reading => ?_,
    fun c p r n x day kind phase undone plan reading => ?_, fun c p h => tryOpen_none h,
    fun img d pl q rest first => openTime_spec d first, fun c p r t x day copy reading => tryClose_cases day copy reading,
    fun c p closed => tryClose_closed closed c, fun t => ⟨closeTime_spec t, fun z k a e => closeTerm_of_last, fun z => closeTerm_of_none⟩,
    fun c p => ⟨fun closed => ?_, fun r day => startDue_cases day⟩, fun c p => ?_⟩
  · show s.clock.tick.1.crystal = _
    cases reading : s.clock.reading with
    | none => rw [tick_unset reading]
    | some x => rw [tick_reading reading]
  · rw [tick_unset unset]
    exact ⟨unset, rfl, rfl⟩
  · intro last n
    have step : slewStep (s.clock.crystal + 1) s.clock.slew = (n, if last then s.clock.slew - s.clock.slew.sign else s.clock.slew) :=
      slewStep_eq _ _
    have tick := tick_reading reading
    rw [step] at tick
    rw [tick]
    refine ⟨rfl, ?_, fun within => ?_, fun past second => ?_, fun past midnight => ?_⟩
    · rcases Nat.lt_or_ge (x.fraction + n) 16 with within | past
      · rw [advance_within within, if_pos within]
      · rcases Nat.lt_or_ge (x.second + 1) 86400 with second | midnight
        · rw [advance_second past second, if_neg (Nat.not_lt.mpr past), if_pos second]
        · rw [advance_midnight past midnight, if_neg (Nat.not_lt.mpr past), if_neg (Nat.not_lt.mpr midnight)]
    · rw [advance_within within]
      rfl
    · rw [advance_second past second]
      rfl
    · rw [advance_midnight past midnight]
      rfl
  · have exact' : ∀ k : Nat, (c.second ≤ k ∧ k < c.second + 1) = (k = c.second) := fun k => propext (by omega)
    have one : ∀ o : Option Nat, o.any (fun k => decide (k = c.second)) = decide (o = some c.second) := by
      intro o
      cases o <;> simp
    have minute : ∀ o : Option Nat, o.any (fun m => decide (m * 60 = c.second)) = decide (o.map (fun m => m * 60) = some c.second) := by
      intro o
      cases o <;> simp
    intro reached resumed woken
    unfold newSecond reachSeconds
    dsimp only
    rw [wakeTimeAmong_eq, resumeAmong_eq]
    simp only [exact', one, minute, decide_eq_true_eq]
    rfl
  · refine midnight_eq ?_
    rcases free with closed | ⟨r, day, calm⟩
    · rw [midnightDay_closed closed, closed]
    · rw [midnightDay_open day calm, day]
  · unfold evaluateAndTest
    rw [reading]
    rfl
  · intro o
    rw [tryOpen_of day plan (openTimeOf_of kind phase undone plan) reading]
    exact ⟨fun reached => if_pos reached, fun before => if_neg (Nat.not_le.mpr before)⟩
  · unfold startDue
    rw [closed]
  · unfold eligibleReached
    have ready : ∀ e : OutEntry, (if e.ready then e else { e with ready := reachedStamp c e.eligible })
        = { e with ready := e.ready || reachedStamp c e.eligible } := by
      rintro ⟨id, kind, target, reg, source, time, minutes, level, created, eligible, _ | _⟩ <;> rfl
    simp only [ready]
    simp only [reachedStamp_eq] <;> rfl

end

section
/-!
Plans, zones and manual rings, case by case (R21 to R24, R32, R39).
-/

-- One declaration after another: the text is compiled as one, and a declaration that waits for others holds a thread.
set_option Elab.async false

namespace Sys2Proof.Machine

theorem planPut_outOfRange {n lead lag grace close : Nat} {name : Text} {fields : List PeriodField}
    (h : readPeriods fields = none ∨ planItemsOk n name lead lag grace close = false
      ∨ ∃ l, readPeriods fields = some l ∧ periodsOk l = false) (c : Clock) (p : Part) :
    planPut c n name lead lag grace close fields p = refuse .range p := by
  unfold planPut
  split
  case h_1 => rfl
  case h_2 l read =>
    have bad : (planItemsOk n name lead lag grace close && periodsOk l) = false := by
      rcases h with none' | items | ⟨l', read', periods⟩
      · rw [none'] at read; cases read
      · rw [items, Bool.false_and]
      · cases read'.symm.trans read
        rw [periods, Bool.and_false]
    rw [bad]
    rfl

theorem zonePut_outOfRange {z : Nat} {r : Zone} (h : zoneOk z r = false) (c : Clock) (p : Part) :
    zonePut c z r p = refuse .range p := by
  unfold zonePut
  rw [h]
  rfl

theorem zonePut_taken_address {z : Nat} {r : Zone} {p : Part} (fine : zoneOk z r = true) (present : r.present = true)
    (taken : p.work.addressTaken z r.address = true) (c : Clock) : zonePut c z r p = refuse .state p := by
  unfold zonePut
  rw [fine, present, taken]
  rfl

theorem presenceChange_same (z : Nat) (b : Bool) (p : Part) : presenceChange z b b p = p := if_pos rfl

theorem presenceChange_comes (z : Nat) (p : Part) : presenceChange z false true p
    = setFaultMemory z ⟨none, none⟩ (p.setZoneState z (some (.up (if p.ac.alert = none then .armed else .silenced)))) := by
  have state : p.newZoneState = .up (if p.ac.alert = none then .armed else .silenced) := by
    simp only [Part.newZoneState, noAlert_iff]
  unfold presenceChange
  rw [state]
  rfl

theorem presenceChange_goes (z : Nat) (p : Part) :
    presenceChange z true false p = passDueOf z (setFaultMemory z ⟨none, none⟩ (p.setZoneState z none)) := rfl

theorem onRing_congr {f g : RingEntry → RingEntry} (h : ∀ e, f e = g e) (p : Part) : onRing f p = onRing g p := by
  rw [funext h]

/-! ## ZONE ARM -/

theorem zoneArm_outOfRange {z : Nat} (h : 5 < z) (p : Part) : zoneArm z p = refuse .range p := if_pos h

theorem zoneArm_alert {z : Nat} {p : Part} (range : z ≤ 5) (alert : p.ac.alert ≠ none) : zoneArm z p = refuse .state p := by
  unfold zoneArm
  rw [if_neg (Nat.not_lt.mpr range), noAlert_false alert]
  rfl

/-- ZONE ARM with no alert goes by the zone's state (R24). -/
theorem zoneArm_calm {z : Nat} {p : Part} (range : z ≤ 5) (calm : p.ac.alert = none) : zoneArm z p =
    match p.zoneState z with
    | none => refuse .notFound p
    | some (.up .silenced) => (p.setZoneState z (some (.up .armed)), ok [])
    | some (.up .armed) => (p, ok [])
    | some (.faulted _) => refuse .state p := by
  unfold zoneArm
  rw [if_neg (Nat.not_lt.mpr range), (noAlert_iff p).mpr calm]
  rfl

@[simp] theorem zoneState_raise (c : Clock) (b : NoticeBody) (p : Part) (z : Nat) : (raise c b p).zoneState z = p.zoneState z := by
  unfold raise
  split <;> rfl

theorem recoverZone_zoneState {m : Member} {p : Part} {a : ArmState} (range : m.zone < 6)
    (h : p.zoneState m.zone = some (.faulted a)) (c : Clock) : (recoverZone c m p).zoneState m.zone = some (.up a) := by
  unfold recoverZone
  rw [h]
  dsimp only
  rw [zoneState_raise, zoneState_setZoneState, if_pos ⟨rfl, range⟩]

/-! ## RING -/

/-- The fields of RING are in range, whatever the zones (R39). -/
theorem ringRequest_fields {p : Part} {zones : ZonesField} {d : Nat} (range : ∀ z ∈ ringZones p zones, z ≤ 5)
    (once : noRepeat (ringZones p zones) = true) (low : 1 ≤ d) (high : d ≤ 30) : ((ringZones p zones).any (fun z => decide (5 < z))
      || !noRepeat (ringZones p zones) || decide (d < 1) || decide (30 < d)) = false := by
  have zones' : (ringZones p zones).any (fun z => decide (5 < z)) = false := by
    rw [List.any_eq_false]
    intro z mem
    rw [decide_eq_true_eq]
    exact Nat.not_lt.mpr (range z mem)
  rw [zones', once, decide_eq_false (Nat.not_lt.mpr low), decide_eq_false (Nat.not_lt.mpr high)]
  rfl

theorem ringRequest_outOfRange {p : Part} {zones : ZonesField} {tone : Option BellTone} {d : Nat}
    (h : tone = none ∨ (∃ z ∈ ringZones p zones, 5 < z) ∨ noRepeat (ringZones p zones) = false ∨ d < 1 ∨ 30 < d) (c : Clock) :
    ringRequest c zones tone d p = refuse .range p := by
  unfold ringRequest
  cases tone with
  | none => rfl
  | some t =>
    refine if_pos ?_
    simp only [Bool.or_eq_true, List.any_eq_true, decide_eq_true_eq, Bool.not_eq_true']
    rcases h with h | h | h | h | h
    · cases h
    · exact .inl (.inl (.inl h))
    · exact .inl (.inl (.inr h))
    · exact .inl (.inr h)
    · exact .inr h

/-- RING with its fields in range goes by the zones, the day and the alert, and the room in the table (R39). -/
theorem ringRequest_inRange {p : Part} {zones : ZonesField} {t : BellTone} {d : Nat} (range : ∀ z ∈ ringZones p zones, z ≤ 5)
    (once : noRepeat (ringZones p zones) = true) (low : 1 ≤ d) (high : d ≤ 30) (c : Clock) :
    ringRequest c zones (some t) d p =
      if (ringZones p zones).any (fun z => (p.zoneState z).isNone) then refuse .notFound p
      else if !p.isOpen || !p.noAlert then refuse .state p
      else if p.bells.free < (ringZones p zones).length ∨ !manualIssues p.bells t (ringZones p zones) then refuse .full p
      else ({ p with bells := (ringZones p zones).foldl (Bells.addManual c t d p.armed) p.bells },
        ok [nat ((ringZones p zones).filter p.armed).length]) := by
  unfold ringRequest
  dsimp only
  rw [ringRequest_fields range once low high]
  rfl

theorem any_zoneState_isNone {p : Part} {l : List Nat} :
    l.any (fun z => (p.zoneState z).isNone) = true ↔ ∃ z ∈ l, p.zoneState z = none := by
  simp only [List.any_eq_true, Option.isNone_iff_eq_none]

theorem any_zoneState_present {p : Part} {l : List Nat} (h : ∀ z ∈ l, p.zoneState z ≠ none) :
    ¬ l.any (fun z => (p.zoneState z).isNone) = true := by
  rw [any_zoneState_isNone]
  rintro ⟨z, mem, none'⟩
  exact h z mem none'

theorem isOpen_iff (p : Part) : p.isOpen = true ↔ p.openDay ≠ none := Option.isSome_iff_ne_none

theorem isOpen_false {p : Part} (h : p.openDay = none) : p.isOpen = false := by
  rw [← Bool.not_eq_true, isOpen_iff, not_not]
  exact h

/-- The day is OPEN and no alert stands. -/
theorem open_and_calm {p : Part} (h : p.openDay ≠ none) (calm : p.ac.alert = none) : ¬ (!p.isOpen || !p.noAlert) = true := by
  rw [(isOpen_iff p).mpr h, (noAlert_iff p).mpr calm]
  decide

theorem closed_or_alert {p : Part} (h : p.openDay = none ∨ p.ac.alert ≠ none) : (!p.isOpen || !p.noAlert) = true := by
  rcases h with closed | alert
  · rw [isOpen_false closed]; rfl
  · rw [noAlert_false alert]; simp

theorem manualIssues_iff (b : Bells) (t : BellTone) (l : List Nat) :
    manualIssues b t l = true ↔ ∀ z ∈ l, nextIssue b.ring z none t ≤ 255 := by
  simp only [manualIssues, List.all_eq_true, decide_eq_true_eq]
  rfl

end Sys2Proof.Machine

open Sys2Proof.Machine

/-- Settles O24: by the state of the zone of each entry that the clock reaches. -/
theorem reachedEntryFollowsItsZone : Obligations.ReachedEntryFollowsItsZone := by
  intro c t p
  refine onRing_congr (fun e => ?_) p
  unfold RingEntry.reached Part.armed
  rcases p.zoneState e.zone with _ | (_ | _) | _ <;> rfl

/-- Settles O17: the plan is written, or the fields are out of range. -/
theorem planPutReplacesOnePlan : Obligations.PlanPutReplacesOnePlan := by
  intro s sfx n name lead lag grace close fields ws listening
  refine ⟨fun l read items periods kept => ?_, fun bad => request_refuses listening (planPut_outOfRange bad _ _)⟩
  exact request_answers listening ((planPut_taken read items periods _ _).trans (stored_kept kept))

/-- Settles O18: two refusals, and the three ways in which the present flag moves. -/
theorem zonePutReplacesOneZone : Obligations.ZonePutReplacesOneZone := by
  intro s sfx z r ws listening put
  refine ⟨fun bad => request_refuses listening (zonePut_outOfRange bad _ _),
    fun fine present taken => request_refuses listening (zonePut_taken_address (p := heard s ws) fine present taken _),
    fun fine free kept => ?_⟩
  intro was q
  have put_eq : exec put s = .next (replied s (dayTests s.clock (presenceChange z was r.present q)) sfx (ok [])) :=
    request_answers listening ((zonePut_taken (p := heard s ws) fine free s.clock).trans (stored_kept kept))
  refine ⟨fun same => ?_, fun absent present => ?_, fun present absent => ?_⟩
  · rw [put_eq, same, presenceChange_same]
  · rw [put_eq, absent, present, presenceChange_comes]
    rfl
  · rw [put_eq, present, absent, presenceChange_goes]

/-- Settles O19: by the range, the alert and the zone's state. -/
theorem zoneArmByZoneAndAlert : Obligations.ZoneArmByZoneAndAlert := by
  intro s sfx z listening
  refine ⟨fun out => request_refuses listening (zoneArm_outOfRange out _),
    fun range alert => request_refuses listening (zoneArm_alert (p := heard s []) range alert), fun range calm => ?_,
    fun m c p range faulted => recoverZone_zoneState range faulted c⟩
  have arm := zoneArm_calm (p := heard s []) range calm
  have state : (heard s []).zoneState z = s.part.zoneState z := rfl
  rw [state] at arm
  refine ⟨fun h => request_refuses listening (ws' := []) ?_, fun h => request_answers listening ?_,
    fun h => request_answers listening ?_, fun a h => request_refuses listening (ws' := []) ?_⟩
  all_goals
    rw [h] at arm
    exact arm

/-- Settles O23: by the fields, the zones, the day and the alert, and the room in the table. -/
theorem ringMakesManualEntries : Obligations.RingMakesManualEntries := by
  intro s sfx zones tone d listening l
  have named : ringZones (heard s []) zones = l := rfl
  refine ⟨fun bad => request_refuses listening (ringRequest_outOfRange (p := heard s []) bad _), fun t given range once low high => ?_⟩
  subst given
  have taken := ringRequest_inRange (p := heard s []) (zones := zones) (t := t) range once low high s.clock
  rw [named] at taken
  refine ⟨fun absent => request_refuses listening (taken.trans (if_pos (any_zoneState_isNone.mpr absent))),
    fun present shut => request_refuses listening (ws' := []) ?_,
    fun present opened calm full => request_refuses listening (ws' := []) ?_,
    fun present opened calm room issues => request_answers listening ?_⟩
  · rw [taken, if_neg (any_zoneState_present (p := heard s []) present), if_pos (closed_or_alert (p := heard s []) shut)]
  · rw [taken, if_neg (any_zoneState_present (p := heard s []) present), if_neg (open_and_calm (p := heard s []) opened calm)]
    exact if_pos (.inl full)
  · have free : ¬ ((heard s []).bells.free < l.length ∨ (!manualIssues (heard s []).bells t l) = true) := by
      have issues' : manualIssues (heard s []).bells t l = true := (manualIssues_iff _ _ _).mpr issues
      rw [issues']
      exact fun h => h.elim (Nat.not_lt.mpr room) (by decide)
    rw [taken, if_neg (any_zoneState_present (p := heard s []) present), if_neg (open_and_calm (p := heard s []) opened calm)]
    exact if_neg free

end

section
/-!
The host link: the check suffix and broken lines, replies, notices, the wake settings, DORMANT and the pin (R180, R188 to R192,
R194 to R198).
-/

-- One declaration after another: the text is compiled as one, and a declaration that waits for others holds a thread.
set_option Elab.async false

namespace Sys2Proof.Machine

/-! ## The check suffix -/

set_option maxRecDepth 20000 in
theorem crc16_nineDigits : crc16 (text "123456789") = 0x29B1 := by decide

theorem hexValue_hexChar : ∀ n, n < 16 → hexValue (hexChar n) = some n := by decide

/-- Four hexadecimal digits spell the number that they were made of. -/
theorem readHex4_digits {n : Nat} (h : n < 65536) :
    readHex4 [hexChar (n / 4096 % 16), hexChar (n / 256 % 16), hexChar (n / 16 % 16), hexChar (n % 16)] = some n := by
  have digit : ∀ k, hexValue (hexChar (k % 16)) = some (k % 16) := fun k => hexValue_hexChar _ (Nat.mod_lt _ (by decide))
  unfold readHex4
  simp only [digit, Option.some.injEq]
  omega

/-- The suffix of a value is cut off again. -/
theorem cutSuffix_append (front : Text) (v : Crc) : cutSuffix (front ++ suffixOf v) = some (front, v.toNat) := by
  have digits := readHex4_digits v.isLt
  unfold cutSuffix suffixOf
  simp only [List.reverse_append, List.reverse_cons, List.reverse_nil, List.nil_append, List.cons_append, and_self, if_true, digits,
    Option.map_some, List.reverse_reverse]

theorem checkLine_append (front : Text) (v : Crc) :
    checkLine (front ++ suffixOf v) = if crc16 front = v then .good front else .wrong := by
  unfold checkLine
  rw [cutSuffix_append]
  simp only [BitVec.toNat_inj]

/-- A line that is cut ends in a space, a tilde and four digits. -/
theorem cutSuffix_spec {l front : Text} {v : Nat} (h : cutSuffix l = some (front, v)) :
    ∃ d e f g, l = front ++ [space, 126, d, e, f, g] ∧ readHex4 [d, e, f, g] = some v := by
  unfold cutSuffix at h
  split at h
  case h_1 k g f e tilde gap rest turned =>
    split at h
    case isTrue marks =>
      obtain ⟨rfl, rfl⟩ := marks
      obtain ⟨w, read, eq⟩ := Option.map_eq_some_iff.mp h
      obtain ⟨rfl, rfl⟩ := Prod.mk.inj eq
      have line : l = (k :: g :: f :: e :: 126 :: space :: rest).reverse := by rw [← turned, List.reverse_reverse]
      exact ⟨e, f, g, k, by simp [line], read⟩
    case isFalse => cases h
  case h_2 => cases h

/-- A tilde with no quote before it is outside quotes. -/
theorem strayTilde_append {a b : Text} (h : ∀ ch ∈ a, ch ≠ 34) : strayTilde false (a ++ 126 :: b) = true := by
  induction a with
  | nil => rfl
  | cons ch a ih =>
    have bare : (ch == 34) = false := beq_eq_false_iff_ne.mpr (h ch List.mem_cons_self)
    rw [List.cons_append, strayTilde, bare, show (false != false) = false from rfl,
      ih (fun x mem => h x (List.mem_cons_of_mem _ mem)), Bool.or_true]

/-- A line with no tilde has none outside quotes. -/
theorem strayTilde_of_not_mem {l : Text} (h : 126 ∉ l) (q : Bool) : strayTilde q l = false := by
  induction l generalizing q with
  | nil => rfl
  | cons ch l ih =>
    have other : (ch == 126) = false := beq_eq_false_iff_ne.mpr (fun e => h (e ▸ List.mem_cons_self))
    rw [strayTilde, other, ih (fun mem => h (List.mem_cons_of_mem _ mem)), Bool.and_false, Bool.or_false]

/-- A line that is too long, or with a character outside the printable ones, is rejected (R188). -/
theorem readLine_rejected {l : Text} (full : dropReturn l ≠ [])
    (h : 240 < (dropReturn l).length ∨ ∃ ch ∈ dropReturn l, ch.toNat < 32 ∨ 126 < ch.toNat) : readLine l = .rejected := by
  have nonempty : ¬ (dropReturn l).isEmpty = true := by
    rw [List.isEmpty_iff]
    exact full
  have bad : 240 < (dropReturn l).length ∨ (!(dropReturn l).all printable) = true := by
    refine h.imp_right fun ⟨ch, mem, out⟩ => ?_
    rw [Bool.not_eq_true', List.all_eq_false]
    refine ⟨ch, mem, ?_⟩
    simp only [printable, Bool.and_eq_true, decide_eq_true_eq]
    omega
  exact (if_neg nonempty).trans (if_pos bad)

/-! ## Lines that are no request -/

theorem next_left {s : State} {p q : Part} (h : p = q) : (.next (left s p) : Result) = .next (left s q) := by rw [h]

/-- The first BUSY answer is the one that is held. -/
theorem holdBusy_eq (sfx : Bool) (p : Part) : holdBusy sfx p = { p with hl.busy := some (p.hl.busy.getD sfx) } := by
  unfold holdBusy
  cases held : p.hl.busy with
  | none => rfl
  | some b =>
    obtain ⟨work, store, roster, day, bells, zbus, reg, desk, sweeps, pmu, ac, hl, out⟩ := p
    cases hl
    cases held
    rfl

/-- A request line in a listening part whose action only refuses. -/
theorem requestPart_refuses {s : State} (h : Listening s) (sfx : Bool) (code : ErrCode) :
    left s (requestPart s.clock sfx (fun _ q => refuse code q) (met s [])) = refusedWith s sfx code := by
  have line := request_listening (sfx := sfx) (ws := []) (act := fun _ q => refuse code q) h
  exact Host.Outcome.next.inj line

/-- The end of a reply with a held BUSY answer. -/
theorem replyEnds_busy {p : Part} {sfx : Bool} (h : p.hl.busy = some sfx) : replyEnds p = answer { err .busy with sfx := sfx }
    { p with hl.reply := none, hl.dormantAsked := p.hl.dormantAsked.sent, hl.busy := none } := by
  unfold replyEnds
  dsimp only
  rw [h]

theorem replyEnds_free {p : Part} (h : p.hl.busy = none) :
    replyEnds p = { p with hl.reply := none, hl.dormantAsked := p.hl.dormantAsked.sent } := by
  unfold replyEnds
  dsimp only
  rw [h]

theorem execReplyEnd_idle {s : State} (h : s.part.hl.reply = none) : exec .replyEnd s = .next (left s (met s [])) := by
  refine next_left (if_neg ?_)
  rw [show (begin [] s.part).hl.reply = none from h]
  decide

theorem execReplyEnd_sent {s : State} (h : s.part.hl.reply ≠ none) : exec .replyEnd s = .next (left s (replyEnds (met s []))) := by
  refine next_left (if_pos ?_)
  exact Option.isSome_iff_ne_none.mpr h

/-! ## Notices -/

theorem raise_room {p : Part} (h : p.hl.notices.length < 32) (c : Clock) (b : NoticeBody) :
    raise c b p = { p with hl.notices := p.hl.notices ++ [⟨b, c.stamp⟩] } := if_pos h

theorem raise_full {p : Part} (h : 32 ≤ p.hl.notices.length) (c : Clock) (b : NoticeBody) :
    raise c b p = { p with hl.overflow := true } := if_neg (Nat.not_lt.mpr h)

theorem noticeRequest_none {p : Part} (h : p.hl.notices = []) : noticeRequest p
    = ({ p with hl.overflow := false }, ok ((if p.hl.overflow then [.word "OVERFLOW"] else []) ++ [.word "NONE"])) := by
  unfold noticeRequest
  rw [h]
  rfl

theorem noticeRequest_some {p : Part} {n : Notice} {rest : List Notice} (h : p.hl.notices = n :: rest) : noticeRequest p
    = ({ p with hl.notices := rest, hl.overflow := false }, ok ((if p.hl.overflow then [.word "OVERFLOW"] else [])
        ++ .word (noticeKind n.body) :: (stampFields n.raised ++ noticeFields n.body))) := by
  unfold noticeRequest
  rw [h]
  rfl

/-! ## WAKE SET -/

/-- The list of enables is read exactly when it names known words, each once. -/
theorem namedOnce_eq_some_iff {given : List (Option WakeEnable)} {l : List WakeEnable} :
    namedOnce given = some l ↔ given = l.map some ∧ l.Nodup := by
  induction given generalizing l with
  | nil => cases l <;> simp [namedOnce]
  | cons e rest ih =>
    cases e with
    | none => cases l <;> simp [namedOnce]
    | some e =>
      unfold namedOnce
      cases read : namedOnce rest with
      | none =>
        simp only [false_iff, reduceCtorEq, not_and]
        intro same once
        cases l with
        | nil => cases same
        | cons a l =>
          obtain ⟨_, tail⟩ := List.cons.inj same
          have found := ih.mpr ⟨tail, once.of_cons⟩
          rw [read] at found
          cases found
      | some k =>
        obtain ⟨rfl, once⟩ := ih.mp read
        cases l with
        | nil => simp
        | cons a l =>
          by_cases twice : e ∈ k
          · simp only [twice, if_true, reduceCtorEq, false_iff, not_and, List.map_cons]
            intro same
            obtain ⟨head, tail⟩ := List.cons.inj same
            obtain rfl := Option.some.inj head
            obtain rfl := List.map_injective_iff.mpr (Option.some_injective WakeEnable) tail
            exact fun once => (List.nodup_cons.mp once).1 twice
          · simp only [twice, if_false, Option.some.injEq, List.map_cons, List.cons.injEq]
            constructor
            · rintro ⟨rfl, rfl⟩
              exact ⟨⟨rfl, rfl⟩, List.nodup_cons.mpr ⟨twice, once⟩⟩
            · rintro ⟨⟨rfl, tail⟩, _⟩
              exact ⟨rfl, List.map_injective_iff.mpr (Option.some_injective WakeEnable) tail⟩

theorem namedOnce_none {given : List (Option WakeEnable)} (h : none ∈ given ∨ ¬ given.Nodup) : namedOnce given = none := by
  cases read : namedOnce given with
  | none => rfl
  | some l =>
    obtain ⟨rfl, once⟩ := namedOnce_eq_some_iff.mp read
    rcases h with unknown | twice
    · simp at unknown
    · exact absurd (once.map (Option.some_injective _)) twice

/-- A list of known words, each once, is read, and its enables are those that it names. -/
theorem namedOnce_some {given : List (Option WakeEnable)} (known : none ∉ given) (once : given.Nodup) :
    ∃ l, namedOnce given = some l ∧ enablesOf l
      = ⟨given.contains (some .gateway), given.contains (some .call), given.contains (some .time)⟩ := by
  obtain ⟨l, rfl⟩ : ∃ l : List WakeEnable, given = l.map some := by
    refine ⟨given.filterMap id, ?_⟩
    induction given with
    | nil => rfl
    | cons a rest ih =>
      cases a with
      | none => exact absurd List.mem_cons_self known
      | some a =>
        have tail := ih (fun mem => known (List.mem_cons_of_mem _ mem)) once.of_cons
        exact congrArg (some a :: ·) tail
  have distinct : l.Nodup := List.Nodup.of_map _ once
  refine ⟨l, namedOnce_eq_some_iff.mpr ⟨rfl, distinct⟩, ?_⟩
  simp [enablesOf]

theorem wakeSet_malformed {given : List (Option WakeEnable)} (h : none ∈ given ∨ ¬ given.Nodup) (time : Option MinuteField)
    (p : Part) : wakeSetRequest given time p = refuse .malformed p := by
  unfold wakeSetRequest
  rw [namedOnce_none h]

theorem wakeSet_outOfRange {given : List (Option WakeEnable)} {m : MinuteField} (known : none ∉ given) (once : given.Nodup)
    (bad : minuteOf m = none) (p : Part) : wakeSetRequest given (some m) p = refuse .range p := by
  obtain ⟨l, read, _⟩ := namedOnce_some known once
  have time : wakeTimeOf (some m) = none := by
    show (minuteOf m).map some = none
    rw [bad]
    rfl
  unfold wakeSetRequest
  rw [read, time]

theorem wakeSet_taken {given : List (Option WakeEnable)} {time : Option MinuteField} {t : Option Nat} (known : none ∉ given)
    (once : given.Nodup) (read : wakeTimeOf time = some t) (p : Part) : wakeSetRequest given time p = ({ p with
      hl.enables := ⟨given.contains (some .gateway), given.contains (some .call), given.contains (some .time)⟩
      hl.wakeTime := t }, ok []) := by
  obtain ⟨l, words, enables⟩ := namedOnce_some known once
  unfold wakeSetRequest
  rw [words, read]
  dsimp only
  rw [enables]

/-! ## DORMANT -/

theorem mem_wakeOrder (f : WakeFlag) : f ∈ wakeOrder := by cases f <;> decide

theorem wakingFlag_none_iff (p : Part) :
    wakingFlag p = none ↔ ∀ f, p.hl.flags.get f = true → p.hl.enables.wakes f = false := by
  unfold wakingFlag
  rw [List.find?_eq_none]
  constructor
  · intro h f set
    have := h f (mem_wakeOrder f)
    rwa [set, Bool.true_and, Bool.not_eq_true] at this
  · intro h f _ both
    obtain ⟨set, wakes⟩ := Bool.and_eq_true_iff.mp both
    rw [h f set] at wakes
    cases wakes

theorem wakingFlag_some {p : Part} {f : WakeFlag} (h : wakingFlag p = some f) :
    p.hl.flags.get f = true ∧ p.hl.enables.wakes f = true := by
  have both := List.find?_some h
  exact Bool.and_eq_true_iff.mp both

/-- Which flags wake (R198). -/
theorem wakes_iff (e : Enables) (f : WakeFlag) : e.wakes f = true ↔ f = .host ∨ f = .alert ∨ (f = .gateway ∧ e.gateway = true)
    ∨ (f = .call ∧ e.call = true) ∨ (f = .time ∧ e.time = true) := by
  cases f <;> simp [Enables.wakes]

theorem dormant_alert {p : Part} (h : p.ac.alert ≠ none) : dormantRequest p = refuse .state p := by
  unfold dormantRequest
  rw [noAlert_false h]
  rfl

theorem dormant_open {p : Part} (calm : p.ac.alert = none) (h : p.openDay ≠ none) : dormantRequest p = refuse .state p := by
  unfold dormantRequest
  rw [(noAlert_iff p).mpr calm, (isOpen_iff p).mpr h]
  rfl

theorem dormant_decided {p : Part} (calm : p.ac.alert = none) (closed : p.openDay = none) :
    dormantRequest p = match wakingFlag p with
      | some _ => (p, wakePending)
      | none => ({ p with hl.dormantAsked := .replying }, ok [.word "DORMANT"]) := by
  unfold dormantRequest
  rw [(noAlert_iff p).mpr calm, isOpen_false closed]
  rfl

theorem setActivity_enter {p : Part} (h : p.hl.activity ≠ .dormant) (c : Clock) : setActivity c .dormant p
    = { p with hl.activity := .dormant, desk.cycleNext := p.desk.cycleStart + 8 } := by
  unfold setActivity
  rw [if_neg h, if_pos rfl]
  rfl

theorem execDormantEntered_asked {s : State} (h : s.part.hl.dormantAsked = .due) :
    exec .dormantEntered s = .next (left s (enterDormant s.clock (met s []))) :=
  next_left (if_pos (show (met s []).hl.dormantAsked = .due from h))

theorem enterDormant_quiet {p : Part} (h : p.hl.activity = .quiet) (c : Clock) :
    enterDormant c p = match wakingFlag p with
      | none => { p with hl.dormantAsked := .none, hl.activity := .dormant, desk.cycleNext := p.desk.cycleStart + 8 }
      | some f => wakeBy c f
          { p with hl.dormantAsked := .none, hl.activity := .dormant, desk.cycleNext := p.desk.cycleStart + 8 } := by
  have awake : ({ p with hl.dormantAsked := .none } : Part).hl.activity ≠ .dormant := by
    show p.hl.activity ≠ .dormant
    rw [h]
    nofun
  have same : wakingFlag { p with hl.dormantAsked := .none } = wakingFlag p := rfl
  unfold enterDormant
  dsimp only
  rw [if_pos h, same, setActivity_enter awake] <;> rfl

theorem execServiceWaitEnd_eq (s : State) : exec .serviceWaitEnd s = .next (left s
    (if serviceWaitOver s.clock (met s []) then serviceEnds s.clock (met s []) else met s [])) := rfl

theorem serviceWaitOver_call {c : Clock} {p : Part} {since : Nat} (h : p.hl.service = some (.call since)) :
    serviceWaitOver c p = decide (since + 960 ≤ c.crystal) := by
  unfold serviceWaitOver
  rw [h]
  rfl

theorem serviceWaitOver_other {c : Clock} {p : Part} (h : ∀ since, p.hl.service ≠ some (.call since)) :
    serviceWaitOver c p = false := by
  unfold serviceWaitOver
  split
  case h_1 since e => exact absurd e (h since)
  case h_2 => rfl

/-! ## The pin -/

theorem takeStart_same {p : Part} {a : Alert} (h : p.ac.alert = some a) (c : Clock) (src : AlertSource) (m : Option AlertMessage) :
    takeStart c a.kind src m p = (p, ok [.word (alertKindWord a.kind)]) := by
  unfold takeStart
  rw [h]
  exact if_pos rfl

end Sys2Proof.Machine

open Sys2Proof.Machine

/-- Settles O52: the suffix, then each event on a line by what the line is and by the reply in progress. -/
theorem brokenLinesAndBusyAnswers : Obligations.BrokenLinesAndBusyAnswers := by
  refine ⟨crc16_nineDigits, checkLine_append, fun l none' => ?_, fun a b => strayTilde_append, fun l h => strayTilde_of_not_mem h false,
    fun l front v => cutSuffix_spec, fun l => readLine_rejected, fun s line => ?_⟩
  · unfold checkLine
    rw [none']
  refine ⟨fun idle rejected => ?_, fun reply rejected => ?_, fun sfx listening bad => ?_, fun listening bad => ?_,
    fun sfx listening unknown => ?_, fun empty => ?_, fun h => ?_, fun reply full awake => ?_, execReplyEnd_idle, fun reply => ?_⟩
  · have run : brokenLine s.clock line (met s []) = answer (err .malformed) (met s []) := by
      unfold brokenLine answerOrBusy
      rw [rejected]
      exact if_neg (by rw [show (met s []).hl.reply = none from idle]; decide)
    exact next_left run
  · have run : brokenLine s.clock line (met s []) = { met s [] with hl.busy := some (s.part.hl.busy.getD false) } := by
      unfold brokenLine answerOrBusy
      rw [rejected]
      exact (if_pos (Option.isSome_iff_ne_none.mpr reply)).trans (holdBusy_eq false (met s []))
    exact next_left run
  · have run : brokenLine s.clock line (met s []) = requestPart s.clock sfx (fun _ q => refuse .malformed q) (met s []) := by
      unfold brokenLine
      rw [bad]
    exact congrArg Host.Outcome.next ((congrArg (left s) run).trans (requestPart_refuses listening sfx .malformed))
  · have run : brokenLine s.clock line (met s []) = requestPart s.clock true (fun _ q => refuse .check q) (met s []) := by
      unfold brokenLine
      rw [bad]
    exact congrArg Host.Outcome.next ((congrArg (left s) run).trans (requestPart_refuses listening true .check))
  · have run : unknownLine s.clock line (met s []) = requestPart s.clock sfx (fun _ q => refuse .unknown q) (met s []) := by
      unfold unknownLine
      rw [unknown]
    exact congrArg Host.Outcome.next ((congrArg (left s) run).trans (requestPart_refuses listening sfx .unknown))
  · have run : brokenLine s.clock line (met s []) = met s [] := by
      unfold brokenLine
      rw [empty]
    exact next_left run
  · have run : busyLine s.clock line (met s []) = met s [] :=
      if_pos (h.imp Option.isNone_iff_eq_none.mpr List.isEmpty_iff.mpr)
    exact next_left run
  · intro busy
    have run : busyLine s.clock line (met s [])
        = holdBusy (carriesSuffix line) (if passesLine line then requestLine s.clock (met s []) else met s []) :=
      if_neg (by rintro (idle | empty); exacts [reply (Option.isNone_iff_eq_none.mp idle), full (List.isEmpty_iff.mp empty)])
    have line' : requestLine s.clock (met s []) = heard s [] := requestLine_awake _ _ awake
    refine ⟨fun passes => next_left (run.trans ?_),
      fun fails => next_left (run.trans ?_)⟩
    · rw [passes, if_pos rfl, line']
      exact holdBusy_eq _ _
    · rw [fails, if_neg (by decide)]
      exact holdBusy_eq _ _
  · intro q
    refine ⟨fun free => ?_, fun sfx held => ?_⟩
    · rw [execReplyEnd_sent reply, replyEnds_free (p := met s []) free]
      rfl
    · rw [execReplyEnd_sent reply, replyEnds_busy (p := met s []) held]
      rfl

/-- Settles O53: the notice list by its length; WAKE SET by its words and its time. -/
theorem noticesWakeSettingsAndRestart : Obligations.NoticesWakeSettingsAndRestart := by
  refine ⟨fun c b p => ⟨fun room => raise_room room c b, fun full => raise_full full c b⟩, fun s sfx listening => ?_⟩
  intro flag
  refine ⟨fun none' => request_answers listening (noticeRequest_none (p := heard s []) none'),
    fun n rest h => request_answers listening (noticeRequest_some (p := heard s []) h),
    request_listening listening, request_listening listening,
    fun given time bad => request_refuses listening (wakeSet_malformed bad time _),
    fun given m known once bad => request_refuses listening (wakeSet_outOfRange known once bad _),
    fun given time t known once read => request_answers listening (wakeSet_taken known once ?_ _)⟩
  rcases read with ⟨rfl, rfl⟩ | ⟨m, k, rfl, minute, rfl⟩
  · rfl
  · show (minuteOf m).map some = some (some k)
    rw [minute]
    rfl

/-- Settles O54: the order of the decision; the entry by the flags that stand; the service wait by its end. -/
theorem dormantIsAskedAndEntered : Obligations.DormantIsAskedAndEntered := by
  refine ⟨fun s sfx listening => ?_, fun s reply free replying => ?_, fun s => ⟨fun other => ?_, fun due quiet => ?_, fun since service awake => ?_,
    fun other => ?_⟩⟩
  · intro waking
    have waking_iff : wakingFlag (heard s []) = none ↔ ¬ waking := by
      rw [wakingFlag_none_iff]
      constructor
      · rintro silent ⟨f, set, wakes⟩
        cases (silent f set).symm.trans ((wakes_iff s.part.hl.enables f).mpr wakes)
      · intro silent f set
        rw [← Bool.not_eq_true]
        exact fun wakes => silent ⟨f, set, (wakes_iff _ f).mp wakes⟩
    refine ⟨fun alert => request_refuses listening (dormant_alert (p := heard s []) alert),
      fun calm opened => request_refuses listening (dormant_open (p := heard s []) calm opened), fun calm closed wake => ?_,
      fun calm closed silent => ?_⟩
    · refine request_answers listening ((dormant_decided (p := heard s []) calm closed).trans ?_)
      cases found : wakingFlag (heard s []) with
      | none => exact absurd wake (waking_iff.mp found)
      | some f => rfl
    · refine request_answers listening ((dormant_decided (p := heard s []) calm closed).trans ?_)
      rw [waking_iff.mpr silent]
  · rw [execReplyEnd_sent reply, replyEnds_free (p := met s []) free, show (met s []).hl.dormantAsked = .replying from replying]
    rfl
  · exact next_left (if_neg (show (met s []).hl.dormantAsked ≠ .due from other))
  · intro q
    have entered := (execDormantEntered_asked due).trans
      (next_left (enterDormant_quiet (p := met s []) quiet s.clock))
    refine ⟨fun silent => entered.trans ?_, fun ⟨f, set, wakes⟩ => ?_⟩
    · rw [(wakingFlag_none_iff (met s [])).mpr silent]
      rfl
    · cases found : wakingFlag (met s []) with
      | none =>
        have := (wakingFlag_none_iff (met s [])).mp found f set
        cases this.symm.trans wakes
      | some g =>
        obtain ⟨set, wakes⟩ := wakingFlag_some found
        refine ⟨g, set, wakes, entered.trans ?_⟩
        rw [found]
        rfl
  · have ended := serviceWaitOver_call (c := s.clock) (p := met s []) service
    rw [execServiceWaitEnd_eq, ended]
    refine ⟨fun past => ?_, fun before => ?_⟩
    · rw [if_pos (decide_eq_true past)]
      exact next_left (setActivity_enter (p := { met s [] with hl.service := none }) awake s.clock)
    · rw [if_neg (by rw [decide_eq_true_eq]; omega)]
  · rw [execServiceWaitEnd_eq, serviceWaitOver_other (p := met s []) other]
    rfl

/-- Settles O50: by the count of low samples. -/
theorem pinQualifiesAtTwentySamples : Obligations.PinQualifiesAtTwentySamples := by
  intro s
  have low : ∀ q, pinSample s.clock true (met s []) = q → exec (.alertPinSample true) s = .next (left s q) :=
    fun q e => next_left e
  refine ⟨rfl, fun few => low _ ?_, fun last => low _ ?_, fun past => low _ ?_, fun c a p alert lockdown => ?_⟩
  · exact if_pos (show s.part.ac.pinCount + 1 < 20 by omega)
  · have count : (met s []).ac.pinCount = 19 := last
    unfold pinSample
    rw [if_pos rfl, if_neg (by rw [count]; decide), if_pos (by rw [count]; rfl)]
    unfold pinQualified
    rfl
  · have count : (met s []).ac.pinCount = 20 := past
    unfold pinSample
    rw [if_pos rfl, if_neg (by rw [count]; decide), if_neg (by rw [count]; decide)]
  · rw [← lockdown, takeStart_same alert]

end

section
/-!
The zone bus, exchange by exchange: broadcasts, the fetch, the status poll, zone faults and the stale wait (R42 to R50).
-/

-- One declaration after another: the text is compiled as one, and a declaration that waits for others holds a thread.
set_option Elab.async false

namespace Sys2Proof.Machine

/-! ## Lines to the drivers -/

theorem addresses_isEmpty (l : List Member) : (addresses l).isEmpty = l.isEmpty := by cases l <;> rfl

theorem sendSound_members (l : List Member) (t : Tone) (n : Option Nat) (p : Part) : sendSound (addresses l) t n p
    = { p with out := p.out ++ (if l.isEmpty then [] else [.sound (addresses l) t n]) } := by
  cases l with
  | nil => simp [sendSound, addresses]
  | cons m l => rfl

theorem sendStop_members (l : List Member) (p : Part) : sendStop (addresses l) p
    = { p with out := p.out ++ (if l.isEmpty then [] else [.stop (addresses l)]) } := by
  cases l with
  | nil => simp [sendStop, addresses]
  | cons m l => rfl

theorem issue_eq (c : Clock) (t : Tone) (members : List Member) (d : Nat) (p : Part) : issue c t members d p = { p with
    zbus.bus := .sounding
    zbus.broadcast := some ⟨t, members, d, c.second?, c.crystal, 0⟩
    out := p.out ++ (if members.isEmpty then [] else [.sound (addresses members) t (some d)]) } := by
  unfold issue
  rw [sendSound_members]

/-! ## The tone of a broadcast -/

/-- What a list is searched for stands no later than anything else that passes. -/
theorem idxOf_le_of_find? {α : Type} [DecidableEq α] {l : List α} {f : α → Bool} {a b : α} (found : l.find? f = some a)
    (other : f b = true) : l.idxOf a ≤ l.idxOf b := by
  induction l with
  | nil => cases found
  | cons x l ih =>
    cases passes : f x with
    | true =>
      rw [List.find?_cons_of_pos passes] at found
      cases found
      rw [List.idxOf_cons_self]
      exact Nat.zero_le _
    | false =>
      rw [List.find?_cons_of_neg (by rw [passes]; decide)] at found
      have not_a : x ≠ a := fun e => by rw [e, List.find?_some found] at passes; cases passes
      have not_b : x ≠ b := fun e => by rw [e, other] at passes; cases passes
      rw [List.idxOf_cons_ne _ not_a, List.idxOf_cons_ne _ not_b]
      exact Nat.succ_le_succ (ih found)

theorem any_due_iff (l : List RingEntry) (t : BellTone) :
    l.any (fun e => e.isDue && e.tone == t) = true ↔ ∃ e ∈ l, e.state = .due ∧ e.tone = t := by
  simp [RingEntry.isDue]

theorem dueTone_none {l : List RingEntry} (h : ∀ e ∈ l, e.state ≠ .due) : dueTone l = none := by
  refine List.find?_eq_none.mpr fun t _ => ?_
  rw [any_due_iff]
  rintro ⟨e, mem, due, _⟩
  exact h e mem due

/-- The tone of a broadcast is that of a DUE entry, and no DUE entry has one of a higher rank (R44). -/
theorem dueTone_spec {l : List RingEntry} {tone : BellTone} (h : dueTone l = some tone) :
    (∃ e ∈ l, e.state = .due ∧ e.tone = tone) ∧
    ∀ e ∈ l, e.state = .due → [BellTone.endBell, .ring, .warn, .test].idxOf tone ≤ [BellTone.endBell, .ring, .warn, .test].idxOf e.tone :=
  ⟨(any_due_iff l tone).mp (List.find?_some (p := fun t => l.any (fun e => e.isDue && e.tone == t)) h),
    fun e mem due => idxOf_le_of_find? h ((any_due_iff l e.tone).mpr ⟨e, mem, due, rfl⟩)⟩

theorem broadcastNow_idle {p : Part} {tone : BellTone} (tone' : dueTone p.bells.ring = some tone) (idle : p.zbus.bus = .idle)
    (c : Clock) : broadcastNow c p =
      issue c (.bell tone) (membersOf p.work (zoneNumbers.filter (fun z => (taken p.bells.ring tone).any (fun e => e.zone == z))))
        ((greatest ((taken p.bells.ring tone).map (contribution p.bells.today))).getD 0)
        (onRing (fun e => if e.isDue && e.tone == tone then { e with state := .sounding, dueSince := none } else e) p) := by
  unfold broadcastNow
  rw [tone']
  exact if_pos idle

theorem broadcastNow_nothing {p : Part} (h : p.zbus.bus ≠ .idle ∨ ∀ e ∈ p.bells.ring, e.state ≠ .due) (c : Clock) :
    broadcastNow c p = p := by
  unfold broadcastNow
  split
  case h_1 => rfl
  case h_2 tone tone' =>
    rcases h with busy | quiet
    · exact if_neg busy
    · rw [dueTone_none quiet] at tone'
      cases tone'

/-! ## SOUNDING_END -/

theorem soundingEnds_over {c : Clock} {p : Part} {b : Broadcast} (broadcast : p.zbus.broadcast = some b) (bus : p.zbus.bus = .sounding)
    (past : b.issuedAt + (b.duration + 1) * 16 ≤ c.crystal) : soundingEnds c p = fetchAt b 0 p := by
  unfold soundingEnds
  rw [broadcast]
  exact if_pos ⟨bus, past⟩

theorem soundingEnds_before {c : Clock} {p : Part} {b : Broadcast} (broadcast : p.zbus.broadcast = some b)
    (h : p.zbus.bus ≠ .sounding ∨ c.crystal < b.issuedAt + (b.duration + 1) * 16) : soundingEnds c p = p := by
  unfold soundingEnds
  rw [broadcast]
  refine if_neg ?_
  rintro ⟨bus, past⟩
  rcases h with other | before
  · exact other bus
  · exact absurd past (Nat.not_le.mpr before)

/-! ## Exchanges -/

/-- The open exchange of a fetch (R46). -/
theorem exchangeEnds_fetching {p : Part} {b : Broadcast} {m : Member} (bus : p.zbus.bus = .fetching)
    (broadcast : p.zbus.broadcast = some b) (asked : b.members[b.position]? = some m) (c : Clock) (a : Option Nat)
    (o : Option DriverAnswer) : exchangeEnds c a o p
      = if a.getD m.address = m.address then fetchAt b (b.position + 1) (fetchOutcome c b m o p) else p := by
  unfold exchangeEnds
  rw [bus, broadcast]
  dsimp only
  rw [asked]

/-- The open exchange of a poll (R49). -/
theorem exchangeEnds_polling {p : Part} {l : Poll} {m : Member} (bus : p.zbus.bus = .polling ∨ p.zbus.bus = .alert)
    (poll : p.zbus.poll = some l) (asked : l.members[l.position]? = some m) (c : Clock) (a : Option Nat)
    (o : Option DriverAnswer) : exchangeEnds c a o p
      = if a.getD m.address = m.address then pollAt l.members (l.position + 1) (pollOutcome c m o p) else p := by
  unfold exchangeEnds
  rcases bus with bus | bus
  all_goals
    rw [bus, poll]
    dsimp only
    rw [asked]

theorem pollOutcome_absent {p : Part} {m : Member} (h : p.zoneState m.zone = none) (c : Clock) (o : Option DriverAnswer) :
    pollOutcome c m o p = p := if_pos (Option.isNone_iff_eq_none.mpr h)

theorem pollOutcome_present {p : Part} {m : Member} (h : p.zoneState m.zone ≠ none) (c : Clock) (o : Option DriverAnswer) :
    pollOutcome c m o p = match o with
      | some .ready => match (recoverZone c m p).alertState with
        | none => recoverZone c m p
        | some k => sendSound [m.address] (alertTone k) none (recoverZone c m p)
      | some .sounding => if p.noAlert then sendStop [m.address] (recoverZone c m p) else recoverZone c m p
      | some (.fault f) => faultZone c m (.driver f) p
      | none => faultZone c m .noReply p := by
  have present : ¬ (p.zoneState m.zone).isNone = true := by
    rw [Option.isNone_iff_eq_none]
    exact h
  exact if_neg present

/-- A recovery leaves the alert. -/
theorem recoverZone_ac (c : Clock) (m : Member) (p : Part) : (recoverZone c m p).ac = p.ac := by
  unfold recoverZone
  split
  case h_1 => exact raise_ac ..
  case h_2 => rfl
  case h_3 => rfl

theorem faultZone_absent {p : Part} {m : Member} (h : p.zoneState m.zone = none) (c : Clock) (code : FaultCode) :
    faultZone c m code p = p := by
  unfold faultZone
  rw [h]

theorem recoverZone_absent {p : Part} {m : Member} (h : p.zoneState m.zone = none) (c : Clock) : recoverZone c m p = p := by
  unfold recoverZone
  rw [h]

/-! ## The status poll -/

theorem pollReady_iff (c : Clock) (p : Part) : p.pollReady c = true ↔ p.zbus.pollDue ≤ c.crystal ∧ p.hl.activity ≠ .dormant ∧
    (∀ e ∈ p.bells.ring, e.state ≠ .due) ∧ (p.zbus.bus = .idle ∨ (p.zbus.bus = .alert ∧ p.zbus.poll = none)) := by
  simp [Part.pollReady, RingEntry.isDue, and_assoc]

theorem pollBegins_ready {c : Clock} {p : Part} (h : p.pollReady c = true) : pollBegins c p = pollAt p.work.presentMembers 0
    { p with zbus.pollDue := c.crystal + 960, zbus.bus := if p.zbus.bus = .alert then .alert else .polling } := if_pos h

theorem pollAt_cons (m : Member) (rest : List Member) (p : Part) :
    pollAt (m :: rest) 0 p = emit (.statusTo m.address) { p with zbus.poll := some ⟨m :: rest, 0⟩ } := rfl

/-! ## The stale wait -/

/-- An entry is stale once its wait has passed while it is DUE (R48). -/
theorem stale_iff (c : Clock) (k : RingKey) (e : RingEntry) :
    e.stale c k = true ↔ e.state = .due ∧ e.key = k ∧ ∃ t, e.dueSince = some t ∧ t + 960 ≤ c.crystal := by
  unfold RingEntry.stale RingEntry.isDue
  have wait : Config.staleWait = 960 := rfl
  cases e.dueSince <;> simp [and_assoc, wait]

theorem staleEnds_nothing {c : Clock} {k : RingKey} {p : Part} (h : ∀ e ∈ p.bells.ring, e.stale c k = false) : staleEnds c k p = p := by
  have none' : p.bells.ring.find? (RingEntry.stale c k) = none :=
    List.find?_eq_none.mpr fun e mem => by rw [h e mem]; decide
  unfold staleEnds
  rw [none']

/-- The stale wait of the one entry of its key (R48). -/
theorem staleEnds_one {c : Clock} {k : RingKey} {p : Part} {e : RingEntry} (mem : e ∈ p.bells.ring)
    (only : ∀ x ∈ p.bells.ring, x.key = k → x = e) (stale : e.stale c k = true) :
    staleEnds c k p = raise c (.bellMissedStale e.zone e.period e.tone e.time)
      (onRing (fun x => if x.key = k then x.pass else x) p) := by
  have found : p.bells.ring.find? (RingEntry.stale c k) = some e := by
    obtain ⟨x, found⟩ := Option.isSome_iff_exists.mp (List.find?_isSome.mpr ⟨e, mem, stale⟩)
    rw [found, only x (List.mem_of_find?_eq_some found) ((stale_iff c k x).mp (List.find?_some found)).2.1]
  have same : p.bells.ring.map (fun x => if x.stale c k then x.pass else x)
      = p.bells.ring.map (fun x => if x.key = k then x.pass else x) := by
    refine List.map_congr_left fun x mem' => ?_
    by_cases key : x.key = k
    · rw [if_pos key, only x mem' key, stale, if_pos rfl]
    · have fresh : x.stale c k ≠ true := fun h => key ((stale_iff c k x).mp h).2.1
      rw [if_neg fresh, if_neg key]
  unfold staleEnds
  rw [found]
  dsimp only
  unfold onRing
  rw [same]

end Sys2Proof.Machine

open Sys2Proof.Machine

/-- Settles O26: the arbiter's broadcast, the tone that it picks, and the end of the sounding. -/
theorem broadcastSoundsTheHighestToneThenFetches : Obligations.BroadcastSoundsTheHighestToneThenFetches := by
  intro s
  refine ⟨fun tone idle due => ?_, fun nothing => next_left (broadcastNow_nothing (p := met s []) nothing s.clock),
    fun tone => dueTone_spec, fun b broadcast => ⟨fun bus past => ?_,
      fun before => next_left (soundingEnds_before (p := met s []) broadcast before)⟩⟩
  · exact next_left ((broadcastNow_idle (p := met s []) due idle s.clock).trans (issue_eq ..))
  · have over' := soundingEnds_over (p := met s []) broadcast bus past
    refine ⟨fun m rest members => next_left (over'.trans ?_), fun none' => next_left (over'.trans ?_)⟩
    · unfold fetchAt
      rw [members]
      rfl
    · unfold fetchAt
      rw [none']
      rfl

/-- Settles O27: the exchange is open, so an answer from its address or the end of the window brings its outcome. -/
theorem fetchOutcomeSettlesTheMember : Obligations.FetchOutcomeSettlesTheMember := by
  intro s b m bus broadcast asked c settled next
  have ends := exchangeEnds_fetching (p := met s []) bus broadcast asked c
  exact ⟨next_left ((ends _ _).trans (if_pos rfl)), next_left ((ends _ _).trans (if_pos rfl)),
    fun f => next_left ((ends _ _).trans (if_pos rfl)), next_left ((ends _ _).trans (if_pos rfl)),
    fun a o other => next_left ((ends _ _).trans (if_neg other))⟩

/-- Settles O28: by the state of the zone. -/
theorem zoneFaultAndRecovery : Obligations.ZoneFaultAndRecovery := by
  intro c m code p
  refine ⟨fun absent => ⟨faultZone_absent absent c code, recoverZone_absent absent c⟩, fun a up => ?_, fun a faulted => ?_⟩
  · unfold faultZone recoverZone
    rw [up]
    exact ⟨rfl, rfl⟩
  · unfold faultZone recoverZone
    rw [faulted]
    exact ⟨rfl, rfl⟩

/-- Settles O29: the poll begins when it is ready; each exchange by its outcome, the zone and the alert. -/
theorem statusPollAsksPresentZones : Obligations.StatusPollAsksPresentZones := by
  intro s ready due
  have ready_iff : (met s []).pollReady s.clock = true ↔ ready := pollReady_iff ..
  refine ⟨fun m rest set members => ?_, fun set none' => ?_, fun unset => ?_, fun l m bus poll asked => ?_⟩
  · refine next_left ((pollBegins_ready (ready_iff.mpr set)).trans ?_)
    rw [show (met s []).work.presentMembers = m :: rest from members, pollAt_cons]
    rfl
  · refine next_left ((pollBegins_ready (ready_iff.mpr set)).trans ?_)
    rw [show (met s []).work.presentMembers = [] from none']
    obtain ⟨_, _, _, idle | ⟨alert, _⟩⟩ := set
    · have bus : (met s []).zbus.bus = .idle := idle
      unfold pollAt endPoll
      simp only [bus, List.getElem?_nil, reduceCtorEq, if_true, if_false]
      rw [← bus]
    · have bus : (met s []).zbus.bus = .alert := alert
      unfold pollAt endPoll
      simp only [bus, List.getElem?_nil, reduceCtorEq, if_true, if_false]
      rw [← bus]
  · exact next_left (if_neg fun h => unset (ready_iff.mp h))
  · intro c p next
    have ends := exchangeEnds_polling (p := p) bus poll asked c
    have answered : ∀ o, exec (.statusAnswer m.address o) s = .next (next (pollOutcome c m (some o) p)) :=
      fun o => next_left ((ends _ _).trans (if_pos rfl))
    have window : exec .statusWindowEnd s = .next (next (pollOutcome c m none p)) :=
      next_left ((ends _ _).trans (if_pos rfl))
    refine ⟨fun present calm => ⟨?_, ?_⟩, fun a present alert => ⟨?_, ?_⟩, fun f => ?_, ?_, fun absent o => ?_,
      fun a o other => next_left ((ends _ _).trans (if_neg other))⟩
    · have calm' : (recoverZone c m p).alertState = none := by
        unfold Part.alertState
        rw [recoverZone_ac, show p.ac.alert = none from calm]
        rfl
      rw [answered, pollOutcome_present (p := p) present]
      dsimp only
      rw [calm']
    · rw [answered, pollOutcome_present (p := p) present]
      dsimp only
      rw [(noAlert_iff p).mpr calm]
      rfl
    · have alert' : (recoverZone c m p).alertState = some a.kind := by
        unfold Part.alertState
        rw [recoverZone_ac, show p.ac.alert = some a from alert]
        rfl
      rw [answered, pollOutcome_present (p := p) present]
      dsimp only
      rw [alert']
      rfl
    · have held : p.noAlert = false := noAlert_false (by rw [show p.ac.alert = some a from alert]; nofun)
      rw [answered, pollOutcome_present (p := p) present]
      dsimp only
      rw [held]
      rfl
    · rw [answered]
      by_cases absent : p.zoneState m.zone = none
      · rw [pollOutcome_absent absent, faultZone_absent absent]
      · rw [pollOutcome_present absent]
    · rw [window]
      by_cases absent : p.zoneState m.zone = none
      · rw [pollOutcome_absent absent, faultZone_absent absent]
      · rw [pollOutcome_present absent]
    · rw [answered, pollOutcome_absent (p := p) absent]

/-- Settles O30: the entry of the key is stale, or none is; the wait begins where an entry becomes DUE. -/
theorem staleWaitPassesADueEntry : Obligations.StaleWaitPassesADueEntry := by
  refine ⟨fun s e k found only => ?_, fun c e => ⟨rfl, rfl⟩, fun c old e due => ?_, fun e => rfl⟩
  · have mem : e ∈ (met s []).bells.ring := List.mem_of_find?_eq_some found
    have key : e.key = k := by
      have same : (e.key == k) = true := List.find?_some (p := fun x : RingEntry => x.key == k) found
      exact beq_iff_eq.mp same
    refine ⟨fun t due since past => next_left (staleEnds_one (p := met s []) mem only ((stale_iff _ _ _).mpr ⟨due, key, t, since, past⟩)),
      fun early => next_left (staleEnds_nothing fun x mem' => ?_)⟩
    rw [← Bool.not_eq_true, stale_iff]
    rintro ⟨due, key', t, since, past⟩
    rw [only x mem' key'] at due since
    rcases early with other | ⟨t', since', before⟩
    · exact other due
    · cases since.symm.trans since'
      omega
  · unfold RingEntry.carry
    rw [if_pos (.inr due)]
    exact ⟨rfl, rfl⟩

end

section
/-!
Alerts: a start, a change of kind, the messages, the roll and the all-clear (R138, R181 to R187, R52 to R54).
-/

-- One declaration after another: the text is compiled as one, and a declaration that waits for others holds a thread.
set_option Elab.async false

namespace Sys2Proof.Machine

/-! ## A message and a start -/

theorem messageRefused_default (img : Image) : messageRefused img .default = none := rfl

theorem messageRefused_outOfRange {t : Nat} (h : 31 < t) (img : Image) : messageRefused img (.template t) = some .range := if_pos h

theorem messageRefused_empty {img : Image} {t : Nat} (range : t ≤ 31) (empty : img.template t = none) :
    messageRefused img (.template t) = some .notFound := by
  unfold messageRefused
  dsimp only
  rw [if_neg (Nat.not_lt.mpr range), empty]
  rfl

/-- A message that is DEFAULT or names a template that is not EMPTY passes (R181). -/
theorem messageRefused_none {img : Image} {m : AlertMessage} (h : ∀ t, m = .template t → t ≤ 31 ∧ img.template t ≠ none) :
    messageRefused img m = none := by
  cases m with
  | default => rfl
  | template t =>
    obtain ⟨range, full⟩ := h t rfl
    unfold messageRefused
    dsimp only
    rw [if_neg (Nat.not_lt.mpr range), if_neg (by rw [Option.isNone_iff_eq_none]; exact full)]

theorem messageField_passes {img : Image} {m : Option AlertMessage}
    (h : ∀ t, m = some (.template t) → t ≤ 31 ∧ img.template t ≠ none) : m.bind (messageRefused img) = none := by
  cases m with
  | none => rfl
  | some m => exact messageRefused_none fun t e => h t (congrArg some e)

theorem alertStart_refused {p : Part} {m : AlertMessage} {e : ErrCode} (h : messageRefused p.work m = some e) (c : Clock)
    (k : AlertKind) : alertStartRequest c (some k) (some m) p = refuse e p := by
  unfold alertStartRequest
  dsimp only
  rw [Option.bind_some, h]

theorem alertStart_taken {p : Part} {m : Option AlertMessage} (h : m.bind (messageRefused p.work) = none) (c : Clock)
    (k : AlertKind) : alertStartRequest c (some k) m p = takeStart c k .host m p := by
  unfold alertStartRequest
  dsimp only
  rw [h]

theorem takeStart_fresh {p : Part} (h : p.ac.alert = none) (c : Clock) (k : AlertKind) (src : AlertSource)
    (m : Option AlertMessage) : takeStart c k src m p = ((startMessage c m (startAlert c k src p)).1,
      ok [.word (alertKindWord k), (startMessage c m (startAlert c k src p)).2]) := by
  unfold takeStart
  rw [h]

theorem takeStart_other {p : Part} {a : Alert} {k : AlertKind} (h : p.ac.alert = some a) (other : a.kind ≠ k) (c : Clock)
    (src : AlertSource) (m : Option AlertMessage) : takeStart c k src m p
      = (changeKind c a k p, ok (.word (alertKindWord k) :: rollSize (changeKind c a k p))) := by
  unfold takeStart
  rw [h]
  exact if_neg other

theorem changeKind_eq (c : Clock) (a : Alert) (k : AlertKind) (p : Part) : changeKind c a k p = { p with
    ac.alert := some { a with kind := k, changedAt := c.stamp, roll := rollFor k p }
    zbus.poll := none
    out := p.out ++ (if p.work.presentMembers = [] then []
                     else [.sound (addresses p.work.presentMembers) (alertTone k) none]) } := by
  have sound := sendSound_members p.work.presentMembers (alertTone k) none
    { p with ac.alert := some { a with kind := k, changedAt := c.stamp, roll := rollFor k p }, zbus.poll := none }
  simp only [List.isEmpty_iff] at sound
  exact sound

/-! ## What a start leaves -/

/-- Setting a flag that always wakes leaves the part awake. -/
theorem setFlag_alert_awake (c : Clock) (p : Part) : (setFlag c .alert p).hl.activity ≠ .dormant := by
  unfold setFlag
  dsimp only
  split
  case isTrue asleep =>
    rw [if_pos (show Enables.wakes _ .alert = true from rfl)]
    unfold wakeBy
    rw [(raise_hl c _ _).1, setActivity_leave c .quiet { p with hl.flags := p.hl.flags.set .alert } asleep (by nofun)]
    nofun
  case isFalse awake => exact awake

/-- The bus at an alert start (R52). -/
theorem busAtAlertStart_touches (k : AlertKind) (p : Part) : ∃ o, busAtAlertStart k p = { p with
    bells.ring := p.bells.ring.map (fun e => if e.state = .sounding ∨ e.state = .due then e.pass else e)
    zbus.bus := .alert, zbus.broadcast := none, zbus.poll := none, out := o } := by
  have stopped : ∃ o, preempt p = { p with
      bells.ring := p.bells.ring.map (fun e => if e.state = .sounding ∨ e.state = .due then e.pass else e)
      zbus.broadcast := none, zbus.poll := none, out := o } := by
    unfold preempt
    dsimp only
    split
    case h_1 => exact ⟨_, rfl⟩
    case h_2 b _ =>
      rw [sendStop_members]
      exact ⟨_, rfl⟩
  obtain ⟨o, stopped⟩ := stopped
  unfold busAtAlertStart Part.presentAddresses
  dsimp only
  rw [stopped, sendSound_members]
  exact ⟨_, rfl⟩

theorem Sweep.suspend_state (y : Sweep) : y.suspend.state ≠ .running ∧ y.suspend.state ≠ .blocked := by
  unfold Sweep.suspend
  split
  case isTrue => exact ⟨by nofun, by nofun⟩
  case isFalse h => exact ⟨fun e => h (.inl e), fun e => h (.inr e)⟩

/-- What an alert start from NONE leaves (R182). -/
theorem startAlert_spec (c : Clock) (k : AlertKind) (src : AlertSource) (p : Part) : let t := startAlert c k src p
    t.ac.alert = some { kind := k, source := src, startedAt := c.stamp, changedAt := none, roll := rollFor k p } ∧
    t.hl.flags.alert = true ∧ t.hl.activity ≠ .dormant ∧ t.zbus.bus = .alert ∧ t.zbus.broadcast = none ∧ t.zbus.poll = none ∧
    t.sweeps.resume = none ∧ (∀ e ∈ t.bells.ring, e.state ≠ .due ∧ e.state ≠ .sounding) ∧
    (∀ x w, t.sweeps.get? x = some w → w.state ≠ .running ∧ w.state ≠ .blocked) ∧
    (∀ z, z < 6 → t.zoneState z = (p.zoneState z).map ZoneState.silenced) ∧ t.reg = p.reg ∧ t.work = p.work := by
  intro t
  let started : Part :=
    { p with ac.alert := some { kind := k, source := src, startedAt := c.stamp, changedAt := none, roll := rollFor k p } }
  obtain ⟨a, v, n, o, d, e, flag, _⟩ := setFlag_touches c .alert started
  have awake : (setFlag c .alert started).hl.activity ≠ .dormant := setFlag_alert_awake c started
  obtain ⟨out, bus⟩ := busAtAlertStart_touches k (silenceZones (setFlag c .alert started))
  have eq : t = suspendSweeps { busAtAlertStart k (silenceZones (setFlag c .alert started)) with sweeps.resume := none } := rfl
  rw [bus, flag] at eq
  rw [flag] at awake
  rw [eq]
  refine ⟨rfl, rfl, awake, rfl, rfl, rfl, rfl, fun e mem => ?_, fun x w h => ?_, fun z range => ?_, rfl, rfl⟩
  · obtain ⟨e', _, rfl⟩ := List.mem_map.mp mem
    split
    case isTrue => exact ⟨by nofun, by nofun⟩
    case isFalse h => exact ⟨fun due => h (.inr due), fun sounding => h (.inl sounding)⟩
  · have h := (Sweeps.get?_map _ _ x).symm.trans h
    obtain ⟨y, _, rfl⟩ := Option.map_eq_some_iff.mp h
    exact y.suspend_state
  · exact vector_getD_ofFn (fun i => (p.zoneState i).map ZoneState.silenced) none range

/-! ## ALERT NOTIFY -/

theorem alertNotify_calm {p : Part} {m : AlertMessage} (passes : messageRefused p.work m = none) (calm : p.ac.alert = none)
    (c : Clock) : alertNotifyRequest c m p = refuse .state p := by
  unfold alertNotifyRequest
  rw [passes]
  exact if_pos ((noAlert_iff p).mpr calm)

theorem alertNotify_taken {p q : Part} {m : AlertMessage} {id : Nat} (passes : messageRefused p.work m = none)
    (alert : p.ac.alert ≠ none) {c : Clock} (made : create c (alertRequest p m) p = (q, .taken id)) :
    alertNotifyRequest c m p = (q, ok [nat id]) := by
  unfold alertNotifyRequest
  rw [passes]
  dsimp only
  rw [noAlert_false alert, made]
  rfl

theorem alertNotify_full {p q : Part} {m : AlertMessage} (passes : messageRefused p.work m = none) (alert : p.ac.alert ≠ none)
    {c : Clock} (made : create c (alertRequest p m) p = (q, .refused)) : alertNotifyRequest c m p = (q, err .full) := by
  unfold alertNotifyRequest
  rw [passes]
  dsimp only
  rw [noAlert_false alert, made]
  rfl

/-- A creation that is refused leaves the part. -/
theorem create_refused {c : Clock} {q : EntryRequest} {p : Part} (h : (create c q p).2 = .refused) : (create c q p).1 = p := by
  revert h
  unfold create
  split
  case isTrue => nofun
  case isFalse =>
    split
    case isTrue => nofun
    case isFalse =>
      split
      case h_1 => exact fun _ => rfl
      case h_2 => nofun

/-- An entry of no slot is never held (R163). -/
theorem create_alert_not_held (c : Clock) (m : AlertMessage) (p q : Part) : (create c (alertRequest q m) p).2 ≠ .held := by
  unfold create
  rw [show alreadyHeld (alertRequest q m) p = false from rfl, if_neg (by decide)]
  split
  case isTrue => nofun
  case isFalse =>
    split
    case h_1 => nofun
    case h_2 => nofun

/-! ## The roll -/

theorem rollMark_outOfRange {r : PupilRef} (h : pupilInRange r = false) (c : Clock) (p : Part) :
    rollMarkRequest c r p = refuse .range p := by
  unfold rollMarkRequest
  rw [h]
  rfl

theorem rollMark_noRoll {r : PupilRef} {p : Part} (range : pupilInRange r = true)
    (h : p.ac.alert = none ∨ ∃ a, p.ac.alert = some a ∧ a.roll = none) (c : Clock) : rollMarkRequest c r p = refuse .state p := by
  unfold rollMarkRequest
  rw [range]
  rcases h with none' | ⟨a, alert, none'⟩
  · rw [none']
    rfl
  · rw [alert]
    dsimp only
    rw [none']
    rfl

/-- ROLL MARK on a roll: the pupil's entries become ACCOUNTED, or the pupil is not in it (R186). -/
theorem rollMark_roll {r : PupilRef} {p : Part} {a : Alert} {l : List RollEntry} (range : pupilInRange r = true)
    (alert : p.ac.alert = some a) (roll : a.roll = some l) (c : Clock) : rollMarkRequest c r p
      = if l.any (RollEntry.isFor r) then
          ({ p with ac.alert := some { a with roll := some (markRoll c r l) } }, ok [nat (unaccounted (markRoll c r l))])
        else refuse .notFound p := by
  unfold rollMarkRequest
  rw [range, alert]
  dsimp only
  rw [roll]
  rfl

/-- An entry that is ACCOUNTED already stands (R186). -/
theorem markRoll_eq (c : Clock) (r : PupilRef) (l : List RollEntry) : markRoll c r l
    = l.map (fun e => if e.isFor r = true ∧ e.accounted = false then { e with accounted := true, accountedAt := c.second? } else e) := by
  refine List.map_congr_left fun e _ => ?_
  unfold RollEntry.account
  cases e.isFor r <;> cases e.accounted <;> rfl

/-! ## The all-clear -/

theorem alertEnd_calm {p : Part} (h : p.ac.alert = none) (c : Clock) : alertEndRequest c p = refuse .state p := by
  unfold alertEndRequest
  rw [h]

theorem alertEnd_alert {p : Part} {a : Alert} (h : p.ac.alert = some a) (c : Clock) : alertEndRequest c p
    = (tryClose c (resumeAtAllClear c (busAtAllClear c { p with ac.alert := none })),
      ok (.word (alertKindWord a.kind) :: rollCounts a.roll)) := by
  unfold alertEndRequest
  rw [h]
  rfl

/-- STOP and ALL_CLEAR to the present zones (R54). -/
theorem busAtAllClear_eq (c : Clock) (p : Part) : busAtAllClear c p = { p with
    zbus.poll := none, zbus.bus := .sounding
    zbus.broadcast := some ⟨.allClear, p.work.presentMembers, 10, c.second?, c.crystal, 0⟩
    out := p.out ++ (if p.work.presentMembers = [] then []
      else [.stop (addresses p.work.presentMembers), .sound (addresses p.work.presentMembers) .allClear (some 10)]) } := by
  unfold busAtAllClear Part.presentAddresses
  dsimp only
  rw [sendStop_members, issue_eq]
  cases members : p.work.presentMembers with
  | nil => simp; rfl
  | cons m l => simp; rfl

theorem recoveryHold_iff (p : Part) : p.recoveryHold = true ↔ ∃ g, p.reg.register = some g ∧ g.state = .recovery := by
  unfold Part.recoveryHold Part.register?
  cases p.reg.register <;> simp

/-- The holds that stand when the resume time is reached (R137, R138). -/
theorem held_without_resume (p : Part) : ({ p with sweeps.resume := none } : Part).held = true
    ↔ p.ac.alert ≠ none ∨ ∃ g, p.reg.register = some g ∧ g.state = .recovery := by
  unfold Part.held
  rw [Bool.or_eq_true, recoveryHold_iff, Part.alertHold_iff]
  simp only [ne_eq, not_true_eq_false, or_false]
  exact or_comm

theorem resumeReached_held {p : Part} (h : p.ac.alert ≠ none ∨ ∃ g, p.reg.register = some g ∧ g.state = .recovery) :
    resumeReached p = { p with sweeps.resume := none } := releaseSweeps_of_held ((held_without_resume p).mpr h)

theorem resumeReached_free {p : Part} (h : ¬ (p.ac.alert ≠ none ∨ ∃ g, p.reg.register = some g ∧ g.state = .recovery)) :
    resumeReached p = { p with sweeps.resume := none, sweeps.am := p.sweeps.am.map Sweep.release
                               sweeps.pm := p.sweeps.pm.map Sweep.release } :=
  releaseSweeps_of_free (by rw [← Bool.not_eq_true, held_without_resume]; exact h)

theorem resumeAtAllClear_later {c : Clock} {p : Part} {n : Nat} (clock : c.second? = some n) (settle : p.work.gateway.settle ≠ 0) :
    resumeAtAllClear c p = { p with sweeps.resume := some (n + p.work.gateway.settle * 60) } := by
  unfold resumeAtAllClear
  rw [clock]
  exact if_neg settle

theorem resumeAtAllClear_now {c : Clock} {p : Part} (h : c.second? = none ∨ p.work.gateway.settle = 0) :
    resumeAtAllClear c p = resumeReached p := by
  unfold resumeAtAllClear
  split
  case h_1 => rfl
  case h_2 n clock =>
    rcases h with unset | zero
    · rw [unset] at clock; cases clock
    · exact if_pos zero

end Sys2Proof.Machine

open Sys2Proof.Machine

/-- Settles O51: each request by its checks and the alert, the start by its parts, and the all-clear on the bus and the sweeps. -/
theorem alertRequestsByTheAlertState : Obligations.AlertRequestsByTheAlertState := by
  refine ⟨fun s sfx k m listening => ⟨?_, fun t given out => ?_, fun t given range empty => ?_, fun passes => ⟨fun calm => ?_,
      fun a alert same => ?_, fun a alert other => ?_⟩, fun calm passes x given => ?_, fun alert passes x given => ?_⟩,
    startAlert_spec, fun s sfx r ws listening => ⟨fun bad => request_refuses listening (rollMark_outOfRange bad _ _),
      fun range none' => request_refuses listening (rollMark_noRoll (p := heard s []) range none' _),
      fun a l range alert roll => ⟨fun absent => ?_, fun present => ?_⟩,
      fun calm => request_refuses listening (alertEnd_calm (p := heard s ws) calm _),
      fun a alert => request_answers listening (alertEnd_alert (p := heard s ws) alert _)⟩,
    fun c p => busAtAllClear_eq c p, fun c p => ?_, fun img => ⟨sortBy_perm _ _, sortBy_address _⟩⟩
  · exact request_refuses (ws' := []) listening rfl
  · subst given
    exact request_refuses listening (alertStart_refused (p := heard s []) (messageRefused_outOfRange out _) _ _)
  · subst given
    exact request_refuses listening (alertStart_refused (p := heard s []) (messageRefused_empty range empty) _ _)
  · exact request_answers listening ((alertStart_taken (p := heard s []) (messageField_passes passes) _ _).trans
      (takeStart_fresh (p := heard s []) calm _ _ _ _))
  · subst same
    exact request_answers listening ((alertStart_taken (p := heard s []) (messageField_passes passes) _ _).trans
      (takeStart_same (p := heard s []) alert _ _ _))
  · intro q
    have change := changeKind_eq s.clock a k (heard s [])
    have size : rollSize (changeKind s.clock a k (heard s []))
        = match rollFor k (heard s []) with | none => [] | some l => [nat l.length] := by
      rw [change]
      rfl
    have taken := (alertStart_taken (p := heard s []) (messageField_passes passes) s.clock k).trans
      (takeStart_other (p := heard s []) alert other s.clock .host m)
    rw [size, change] at taken
    exact request_answers listening taken
  · exact request_refuses listening (alertNotify_calm (p := heard s [])
      (messageRefused_none fun t e => passes t (given.trans (congrArg some e))) calm _)
  · intro made
    have fine : messageRefused (heard s []).work x = none :=
      messageRefused_none fun t e => passes t (given.trans (congrArg some e))
    refine ⟨fun id taken => ?_, fun refused => ?_, create_alert_not_held _ _ _ _⟩
    · exact request_answers listening (alertNotify_taken (p := heard s []) fine alert (Prod.ext rfl taken))
    · have stays : made.1 = heard s [] := create_refused refused
      have full := alertNotify_full (p := heard s []) (q := heard s []) fine alert (Prod.ext stays refused)
      exact request_refuses listening (ws' := []) full
  · have none' : ¬ l.any (RollEntry.isFor r) = true := by
      rw [List.any_eq_true]
      rintro ⟨e, mem, mine⟩
      rw [absent e mem] at mine
      cases mine
    exact request_refuses (ws' := []) listening ((rollMark_roll (p := heard s []) range alert roll _).trans (if_neg none'))
  · intro marked
    have taken := (rollMark_roll (p := heard s []) range alert roll s.clock).trans (if_pos (List.any_eq_true.mpr present))
    rw [markRoll_eq] at taken
    exact request_answers listening taken
  · intro q run hold
    refine ⟨fun n clock settle => resumeAtAllClear_later clock settle, fun now => ⟨fun stands => ?_, fun free => ?_⟩⟩
    · exact (resumeAtAllClear_now now).trans (resumeReached_held stands)
    · exact (resumeAtAllClear_now now).trans (resumeReached_free free)

end

section
/-!
Settings that a request writes whole (R60, R61, R69, R70, R99, R176).
-/

-- One declaration after another: the text is compiled as one, and a declaration that waits for others holds a thread.
set_option Elab.async false

namespace Sys2Proof.Machine

theorem templatePut_outOfRange {t : Nat} {l : Text} (h : 31 < t ∨ templateOk l = false) (p : Part) :
    templatePut t l p = refuse .range p := by
  refine if_neg ?_
  rintro ⟨range, fine⟩
  rcases h with out | bad
  · omega
  · rw [bad] at fine; cases fine

theorem schoolSet_outOfRange {name : Text} (h : 40 < name.length) (p : Part) : schoolSet name p = refuse .range p :=
  if_neg (Nat.not_le.mpr h)

theorem templateMapSet_outOfRange {t : Nat} (h : 31 < t) (e : MapEntry) (p : Part) :
    templateMapSet (some e) t p = refuse .range p := if_pos h

theorem templateMapSet_empty {t : Nat} {p : Part} (range : t ≤ 31) (empty : p.work.template t = none) (e : MapEntry) :
    templateMapSet (some e) t p = refuse .notFound p := by
  unfold templateMapSet
  dsimp only
  rw [if_neg (Nat.not_lt.mpr range), empty]
  rfl

theorem contactPut_outOfRange {n : Nat} {number : Text} {ch : Option Channel}
    (h : 4095 < n ∨ allDigits number = false ∨ 15 < number.length ∨ ch = none) (p : Part) :
    contactPut n number ch p = refuse .range p := by
  unfold contactPut
  split
  case h_1 => rfl
  case h_2 ch' =>
    refine if_neg ?_
    rintro ⟨range, digits, short⟩
    have count : Config.contactCount = 4096 := rfl
    rcases h with out | bad | long | none'
    · omega
    · rw [bad] at digits; cases digits
    · omega
    · cases none'

theorem policyOk_iff (t1 t2 t3 h d : Nat) :
    policyOk ⟨t1, t2, t3, h, d⟩ = true ↔ 1 ≤ t1 ∧ t1 < t2 ∧ t2 < t3 ∧ t3 ≤ 65535 ∧ h ≤ 4095 ∧ d ≤ 255 := by
  simp [policyOk, and_assoc]

theorem scoreSet_outOfRange {x : Policy} (h : policyOk x = false) (p : Part) : scoreSet x p = refuse .range p := by
  unfold scoreSet
  rw [h]
  rfl

/-- The count of thresholds met (R70, R129). -/
theorem Policy.met_eq (pol : Policy) (q : Nat) :
    pol.met q = ([pol.t1, pol.t2, pol.t3].filter (fun t => decide (t ≤ q))).length := by
  have thresholds : [pol.t1, pol.t2, pol.t3] = [1, 2, 3].map pol.threshold := rfl
  rw [thresholds, List.filter_map, List.length_map]
  rfl

/-- An open exchange is void once its station is newly present or newly absent (R99). -/
theorem Exchange.under_eq (p : Part) (l : List Nat) : Exchange.under p l
    = fun x => { x with void := x.void || ((p.station x.station).state == .absent) == l.contains x.station } := by
  funext x
  unfold Exchange.under Part.joins Part.leaves Station.isAbsent
  rw [Bool.or_assoc]
  cases (p.station x.station).state == .absent <;> cases l.contains x.station <;> rfl

theorem readSettings_outOfRange {pace settle band : Nat} {a b : MinuteField} (h : minuteOf a = none ∨ minuteOf b = none
    ∨ (∃ x y, minuteOf a = some x ∧ minuteOf b = some y ∧ y ≤ x) ∨ pace < 1 ∨ 60 < pace ∨ 30 < settle ∨ band < 1 ∨ 60 < band) :
    readSettings pace a b settle band = none := by
  unfold readSettings
  split
  case h_1 x y start finish =>
    refine if_neg ?_
    rintro ⟨pos, most, less, low, bandPos, bandMost⟩
    rcases h with h | h | ⟨x', y', start', finish', backwards⟩ | h | h | h | h | h
    · rw [h] at start; cases start
    · rw [h] at finish; cases finish
    · cases start.symm.trans start'
      cases finish.symm.trans finish'
      omega
    all_goals omega
  case h_2 => rfl

theorem gatewaySet_outOfRange {g : Option Settings} (h : g = none) (p : Part) : gatewaySetRequest g p = refuse .range p := by
  rw [h]
  rfl

theorem stationSet_outOfRange {given : List (Option Nat)}
    (h : none ∈ given ∨ (∃ n, some n ∈ given ∧ 3 < n) ∨ ¬ given.Nodup) (p : Part) :
    stationSetRequest given p = refuse .range p := by
  unfold stationSetRequest
  split
  case h_1 => rfl
  case h_2 l known =>
    refine if_neg ?_
    rw [Bool.and_eq_true, List.all_eq_true, noRepeat_iff]
    rintro ⟨range, once⟩
    rw [allKnown_eq_some_iff.mp known] at h
    rcases h with unknown | ⟨n, mem, above⟩ | twice
    · simp at unknown
    · obtain ⟨m, mem', eq⟩ := List.mem_map.mp mem
      cases eq
      exact absurd (of_decide_eq_true (range n mem')) (Nat.not_le.mpr above)
    · exact twice (once.map (Option.some_injective _))

end Sys2Proof.Machine

open Sys2Proof.Machine

/-- Settles O31: where each request comes to its write, and each refusal by its cause. -/
theorem settingsAreWrittenWhole : Obligations.SettingsAreWrittenWhole := by
  intro s sfx ws listening
  refine ⟨fun kept => ⟨fun t l range fine => request_stores listening kept (templatePut_taken range fine _),
      fun name short => request_stores listening kept (schoolSet_taken short _),
      fun e t range full => request_stores listening kept (templateMapSet_taken (p := heard s ws) e range full),
      fun n number ch range digits short => request_stores listening kept (contactPut_taken ch range digits short _),
      fun t1 t2 t3 h d pos less less' most above above' => ?_,
      fun pace a b x y settle band start finish less pos most low bandPos bandMost => ?_,
      fun given l known range once => ?_⟩,
    fun t l bad => request_refuses listening (templatePut_outOfRange bad _),
    fun name long => request_refuses listening (schoolSet_outOfRange long _),
    fun t => request_refuses (ws' := ws) listening rfl,
    fun e t out => request_refuses listening (templateMapSet_outOfRange out e _),
    fun e t range empty => request_refuses listening (templateMapSet_empty (p := heard s ws) range empty e),
    fun n number ch bad => request_refuses listening (contactPut_outOfRange bad _),
    fun t1 t2 t3 h d bad => request_refuses listening (scoreSet_outOfRange ?_ _),
    fun pace a b settle band bad => request_refuses listening (gatewaySet_outOfRange (readSettings_outOfRange bad) _),
    fun given bad => request_refuses listening (stationSet_outOfRange bad _)⟩
  · have fine := (policyOk_iff t1 t2 t3 h d).mpr ⟨pos, less, less', most, above, above'⟩
    have taken := (scoreSet_taken fine (heard s ws)).trans (stored_kept kept)
    unfold relevel levelsChanged at taken
    simp only [Policy.met_eq] at taken
    exact request_answers listening taken
  · have read := readSettings_taken start finish ⟨pos, most, less, low, bandPos, bandMost⟩
    exact request_stores listening kept (gatewaySet_taken read _)
  · have taken := (stationSet_taken known range once (heard s ws)).trans (stored_kept kept)
    unfold setStations at taken
    rw [Exchange.under_eq] at taken
    exact request_answers listening taken
  · rw [← Bool.not_eq_true, policyOk_iff]
    omega

end

section
/-!
PUPIL PUT and PUPIL REMOVE by the slot's state, and what an enrolment or a reinstatement does to the open day (R64 to R67, R78 to
R80, R110).
-/

-- One declaration after another: the text is compiled as one, and a declaration that waits for others holds a thread.
set_option Elab.async false

namespace Sys2Proof.Machine

/-! ## Counts moved in several tallies -/

/-- The change sequence advances, and holds at its greatest value (R80). -/
theorem nextChange_eq (n : Nat) : nextChange n = min (n + 1) 4294967295 := by
  have max : Config.changeMax = 4294967295 := rfl
  unfold nextChange
  split <;> omega

/-- An element is found by a number that no other element has. -/
theorem find?_of_nodup {α : Type} {l : List α} {k : α → Nat} {a : α} (mem : a ∈ l) (once : (l.map k).Nodup) :
    l.find? (fun x => k x == k a) = some a := by
  induction l with
  | nil => cases mem
  | cons b l ih =>
    rw [List.map_cons, List.nodup_cons] at once
    obtain ⟨fresh, once⟩ := once
    rcases List.mem_cons.mp mem with rfl | mem
    · exact List.find?_cons_of_pos (beq_self_eq_true _)
    · have other : ¬ (k b == k a) = true := fun same => fresh (beq_iff_eq.mp same ▸ List.mem_map_of_mem mem)
      exact (List.find?_cons_of_neg (p := fun x => k x == k a) other).trans (ih mem once)

/-- Changes made under different periods each change the tally of their own. -/
theorem foldl_onTally {α : Type} (k : α → Nat) (f : α → Tally → Tally) (stays : ∀ a t, (f a t).period = t.period) {l : List α}
    (once : (l.map k).Nodup) (ts : List Tally) : l.foldl (fun ts a => onTally (k a) (f a) ts) ts
      = ts.map (fun t => ((l.find? (fun a => k a == t.period.number)).map (fun a => f a t)).getD t) := by
  induction l generalizing ts with
  | nil => exact (List.map_id ts).symm
  | cons a l ih =>
    rw [List.map_cons, List.nodup_cons] at once
    obtain ⟨fresh, once⟩ := once
    rw [List.foldl_cons, ih once, onTally, List.map_map]
    refine List.map_congr_left fun t _ => ?_
    by_cases mine : t.period.number = k a
    · have none' : l.find? (fun b => k b == k a) = none := by
        rw [List.find?_eq_none]
        intro b mem same
        exact fresh (beq_iff_eq.mp same ▸ List.mem_map_of_mem mem)
      simp [mine, stays, none']
    · have other : ¬ (k a == t.period.number) = true := fun same => mine (beq_iff_eq.mp same).symm
      rw [List.find?_cons_of_neg (p := fun b => k b == t.period.number) other, Function.comp_apply, if_neg mine]

theorem foldl_onTally_getElem? {α : Type} {k : α → Nat} {f : α → Tally → Tally} (stays : ∀ a t, (f a t).period = t.period)
    {l : List α} (once : (l.map k).Nodup) {ts : List Tally} {i : Nat} {y : Tally} (at' : ts[i]? = some y) :
    (l.foldl (fun ts a => onTally (k a) (f a) ts) ts)[i]?
      = some (((l.find? (fun a => k a == y.period.number)).map (fun a => f a y)).getD y) := by
  rw [foldl_onTally k f stays once, List.getElem?_map, at']
  rfl

/-- The tally of the period of one of the elements. -/
theorem foldl_onTally_at {α : Type} {k : α → Nat} {f : α → Tally → Tally} (stays : ∀ a t, (f a t).period = t.period) {l : List α}
    (once : (l.map k).Nodup) {ts : List Tally} {i : Nat} {y : Tally} (at' : ts[i]? = some y) {a : α} (mem : a ∈ l)
    (mine : k a = y.period.number) : (l.foldl (fun ts a => onTally (k a) (f a) ts) ts)[i]? = some (f a y) := by
  rw [foldl_onTally_getElem? stays once at', ← mine, find?_of_nodup mem once]
  rfl

theorem foldl_onTally_length {α : Type} (k : α → Nat) (f : α → Tally → Tally) (l : List α) (ts : List Tally) :
    (l.foldl (fun ts a => onTally (k a) (f a) ts) ts).length = ts.length := by
  induction l generalizing ts with
  | nil => rfl
  | cons a l ih => rw [List.foldl_cons, ih, onTally, List.length_map]

/-! ## An enrolment during the open day -/

/-- A record made at an enrolment is of its period and counts in no band (R65, R79). -/
theorem enrolledMark_of_period (c : Clock) (p : Part) (r : DayRecord) (t : Today) (z : Nat) (m : MarkedPeriod) :
    (enrolledMark c p r t z m).period = m ∧ (enrolledMark c p r t z m).band = none := by
  unfold enrolledMark
  dsimp only
  split
  case isTrue => exact ⟨rfl, rfl⟩
  case isFalse =>
    split
    case h_1 => split <;> exact ⟨rfl, rfl⟩
    case h_2 =>
      split
      case h_1 => split <;> exact ⟨rfl, rfl⟩
      case h_2 => exact ⟨rfl, rfl⟩

/-- A record of no band moves no band count (R79). -/
theorem Tally.add_without_band {m : Mark} (h : m.band = none) (t : Tally) :
    (t.add m).minor = t.minor ∧ (t.add m).major = t.major ∧ (t.add m).afterClose = t.afterClose := by
  have stands : ∀ b, (t.add m).ofBand b = t.ofBand b := by
    intro b
    rw [Tally.add_ofBand, h, if_neg (by nofun), Nat.add_zero]
  exact ⟨stands .minor, stands .major, stands .afterClose⟩

theorem cancelled_iff (t : Today) (k z : Nat) : t.cancelled k z = true ↔ t.effective k z = none := Option.isNone_iff_eq_none

theorem cancelled_false {t : Today} {k z : Nat} (h : t.effective k z ≠ none) : t.cancelled k z = false := by
  rw [← Bool.not_eq_true, cancelled_iff]
  exact h

theorem sweepBegun_iff (p : Part) (x : Reg) : p.sweepBegun x = true ↔ ∃ w, p.sweeps.get? x = some w ∧
    (w.state = .running ∨ w.state = .blocked ∨ w.state = .suspended ∨ w.state = .done) := by
  unfold Part.sweepBegun Sweep.begun
  cases p.sweeps.get? x <;> simp [or_assoc]

/-- A sweep record is SKIPPED or begun exactly when it is not WAITING (R132). -/
theorem sweep_skipped_or_begun {p : Part} {x : Reg} {w : Sweep} (h : p.sweeps.get? x = some w) :
    (p.sweepSkipped x || p.sweepBegun x) = !(w.state == .waiting) := by
  unfold Part.sweepSkipped Part.sweepBegun Sweep.begun
  rw [h, Option.map_some, Option.map_some]
  obtain ⟨state, cutoff, cursor, notified, onSite, excused, startedAt, doneAt⟩ := w
  cases state <;> rfl

/-- What an enrolment leaves of the register and of the first arrivals (R65, R110). -/
theorem enrolToday_eq {p : Part} {r : DayRecord} {t : Today} {g : Register} (day : p.openDay = some r)
    (today : p.bells.today = some t) (register : p.reg.register = some g) (c : Clock) (n z : Nat) :
    enrolToday c n z p = { p with
      reg.register := some { g with
        slots := Table.put g.slots n ⟨g.periods.map (enrolledMark c p r t z), .notArrived, nextChange g.changes⟩
        changes := nextChange g.changes
        tallies := (g.periods.map (enrolledMark c p r t z)).foldl (fun l m => onTally m.period.number (fun t => t.add m) l) g.tallies }
      desk.firstArrivals := Table.erase p.desk.firstArrivals n } := by
  unfold enrolToday forgetArrival Part.onRegister
  rw [day, today]
  dsimp only
  rw [register]
  rfl

/-- Each enrolment record is counted in the tally of its period (R79). -/
theorem enrol_tallies {g : Register} (rec : MarkedPeriod → Mark) (own : ∀ m, (rec m).period = m ∧ (rec m).band = none)
    (periods : g.tallies.map (·.period) = g.periods) (once : (g.periods.map (·.number)).Nodup) :
    let l := (g.periods.map rec).foldl (fun l m => onTally m.period.number (fun t => t.add m) l) g.tallies
    l.length = g.tallies.length ∧ ∀ (i : Nat) y, g.tallies[i]? = some y → ∃ y' : Tally, l[i]? = some y' ∧ y'.period = y.period ∧
      y'.minor = y.minor ∧ y'.major = y.major ∧ y'.afterClose = y.afterClose ∧
      ∀ v, y'.count v = y.count v + if v = (rec y.period).value then 1 else 0 := by
  intro l
  have numbers : (g.periods.map rec).map (fun m => m.period.number) = g.periods.map (·.number) := by
    rw [List.map_map]
    exact List.map_congr_left fun m _ => congrArg _ (own m).1
  refine ⟨foldl_onTally_length (fun m : Mark => m.period.number) (fun m t => t.add m) _ _, fun i y at' => ?_⟩
  have mem : rec y.period ∈ g.periods.map rec := by
    rw [← periods]
    exact List.mem_map_of_mem (List.mem_map_of_mem (List.mem_of_getElem? at'))
  refine ⟨y.add (rec y.period), foldl_onTally_at (k := fun m : Mark => m.period.number) (f := fun m t => t.add m)
    (fun m t => t.add_period m) (numbers ▸ once) at' mem (congrArg _ (own _).1), y.add_period _, ?_⟩
  obtain ⟨minor, major, afterClose⟩ := Tally.add_without_band (own y.period).2 y
  exact ⟨minor, major, afterClose, fun v => y.add_count _ v⟩

/-! ## A reinstatement during the open day -/

theorem reinstatedMark_of_begun {p : Part} {m : Mark} {x : Reg} (reg : m.period.reg = some x) (unset : m.value = .unset)
    (begun : p.sweepBegun x = true) (c : Clock) :
    reinstatedMark c p m = ⟨m.period, .notRequired, some .system, none, some 0, c.second?, none, m.notice⟩ := by
  unfold reinstatedMark
  rw [reg]
  exact if_pos ⟨unset, begun⟩

theorem reinstatedMark_of_not {p : Part} {m : Mark} (h : m.value ≠ .unset ∨ ∀ x, m.period.reg = some x → ¬ p.sweepBegun x = true)
    (c : Clock) : reinstatedMark c p m = m := by
  unfold reinstatedMark
  split
  case h_1 => rfl
  case h_2 x reg =>
    refine if_neg ?_
    rintro ⟨unset, begun⟩
    rcases h with set | idle
    · exact set unset
    · exact idle x reg begun

theorem reinstateToday_none {p : Part} {n : Nat} (h : p.reg.register.bind (fun g => g.slot? n) = none) (c : Clock) :
    reinstateToday c n p = p := by
  unfold reinstateToday Part.register?
  rw [h]

theorem reinstateToday_some {p : Part} {n : Nat} {d : SlotDay} (h : p.reg.register.bind (fun g => g.slot? n) = some d) (c : Clock) :
    reinstateToday c n p = if d.marks.map (reinstatedMark c p) = d.marks then p
      else p.onRegister (Register.replaceMarks n d (d.marks.map (reinstatedMark c p))) := by
  unfold reinstateToday Part.register?
  rw [h]

/-- The records replaced at a reinstatement, taken one by one. -/
theorem replaceMarks_tallies (g : Register) (d : SlotDay) (F : Mark → Mark) : (d.marks.zip (d.marks.map F)).foldl
    (fun l e => onTally e.1.period.number (fun t => (t.remove e.1).add e.2) l) g.tallies
      = d.marks.foldl (fun l m => onTally m.period.number (fun t => (t.remove m).add (F m)) l) g.tallies := by
  have pairs : d.marks.zip (d.marks.map F) = d.marks.map (fun m => (m, F m)) := by
    have both := List.zip_map' (f := id) (g := F) (l := d.marks)
    rwa [List.map_id] at both
  rw [pairs, List.foldl_map]

/-! ## The requests -/

theorem pupilPut_outOfRange {n : Nat} {x : Slot} (h : pupilFieldsOk n x.number x.name x.year x.zone x.contacts = false) (c : Clock)
    (p : Part) : pupilPut c n x p = refuse .range p := by
  unfold pupilPut
  rw [h]
  rfl

theorem pupilPut_unknown {n : Nat} {x : Slot} {p : Part} (fields : pupilFieldsOk n x.number x.name x.year x.zone x.contacts = true)
    (h : ¬ ∀ i ∈ x.contacts, (p.work.contact i).number ≠ none) (c : Clock) : pupilPut c n x p = refuse .notFound p := by
  have empty : x.contacts.any (fun i => (p.work.contact i).number.isNone) = true := by
    push Not at h
    obtain ⟨i, mem, none'⟩ := h
    exact List.any_eq_true.mpr ⟨i, mem, Option.isNone_iff_eq_none.mpr none'⟩
  unfold pupilPut
  rw [fields, empty]
  rfl

theorem pupilPut_repeated {n : Nat} {x : Slot} {p : Part} (fields : pupilFieldsOk n x.number x.name x.year x.zone x.contacts = true)
    (known : ∀ i ∈ x.contacts, (p.work.contact i).number ≠ none) (h : ¬ ∀ e ∈ p.work.slots, e.1 ≠ n → e.2.number ≠ x.number)
    (c : Clock) : pupilPut c n x p = refuse .state p := by
  have full : x.contacts.any (fun i => (p.work.contact i).number.isNone) = false := by
    rw [List.any_eq_false]
    intro i mem
    rw [Option.isNone_iff_eq_none]
    exact known i mem
  have taken : p.work.numberTaken n x.number = true := by
    push Not at h
    obtain ⟨e, mem, other, same⟩ := h
    exact List.any_eq_true.mpr ⟨e, mem, by rw [Bool.and_eq_true, bne_iff_ne, beq_iff_eq]; exact ⟨other, same⟩⟩
  unfold pupilPut
  rw [fields, full, taken]
  rfl

theorem writePupil_vacant {n : Nat} {p : Part} (h : p.slot? n = none) (x : Slot) (c : Clock) : writePupil c n x p
    = stored [.slot n] (fun img => { img with slots := Table.put img.slots n x }) p
        (fun q => (enrolToday c n x.zone q, ok [.word "NEW"])) := by
  unfold writePupil
  rw [h]

theorem writePupil_enrolled {n : Nat} {o : Slot} {p : Part} (h : p.slot? n = some o) (state : o.state = .enrolled) (x : Slot) (c : Clock) :
    writePupil c n x p
      = storedOk [.slot n] (fun img => { img with slots := Table.put img.slots n { x with score := o.score, level := o.level } }) p := by
  unfold writePupil
  rw [h]
  dsimp only
  rw [state]

theorem writePupil_left {n : Nat} {o : Slot} {p : Part} (h : p.slot? n = some o) (state : o.state = .left) (x : Slot) (c : Clock) :
    writePupil c n x p = if o.number = x.number then
        stored [.slot n] (fun img => { img with slots := Table.put img.slots n { x with score := o.score, level := o.level } }) p
          (fun q => (reinstateToday c n q, ok [.word "BACK"]))
      else refuse .state p := by
  unfold writePupil
  rw [h]
  dsimp only
  rw [state]

theorem enrolToday_closed {p : Part} (h : p.openDay = none) (c : Clock) (n z : Nat) : enrolToday c n z p = p := by
  unfold enrolToday
  rw [h]

theorem pupilRemove_outOfRange {r : PupilRef} (h : pupilInRange r = false) (c : Clock) (p : Part) :
    pupilRemove c r p = refuse .range p := by
  unfold pupilRemove
  rw [h]
  rfl

theorem pupilRemove_notFound {r : PupilRef} {p : Part} (range : pupilInRange r = true) (h : p.work.pupil r = none) (c : Clock) :
    pupilRemove c r p = refuse .notFound p := by
  unfold pupilRemove
  rw [range, h]
  rfl

theorem pupilRemove_left {r : PupilRef} {n : Nat} {x : Slot} {p : Part} (range : pupilInRange r = true)
    (found : p.work.pupil r = some (n, x)) (state : x.state = .left) (opened : p.openDay ≠ none) (c : Clock) :
    pupilRemove c r p = (p, ok [.word "LEFT"]) := by
  have gone : x.state = .left ∧ p.isOpen = true := ⟨state, (isOpen_iff p).mpr opened⟩
  unfold pupilRemove
  rw [range, found]
  exact if_pos gone

theorem removeSlot_open {p : Part} (h : p.openDay ≠ none) (c : Clock) (n : Nat) (x : Slot) : removeSlot c n x p
    = stored [.slot n, .excuses] (fun img => { img with slots := Table.put img.slots n { x with state := .left }
                                                        excuses := img.excuses.filter (fun e => e.slot != n) }) p
        (fun q => (withdrawAll c (fun e => e.slot? == some n) q, ok [.word "LEFT"])) := by
  unfold removeSlot
  rw [(isOpen_iff p).mpr h]
  rfl

theorem removeSlot_closed {p : Part} (h : p.openDay = none) (c : Clock) (n : Nat) (x : Slot) : removeSlot c n x p
    = stored [.slot n, .excuses] (fun img => { img with slots := Table.erase img.slots n
                                                        excuses := img.excuses.filter (fun e => e.slot != n) }) p
        (fun q => (withdrawAll c (fun e => e.slot? == some n) q, ok [.word "VACANT"])) := by
  unfold removeSlot
  rw [isOpen_false h]
  rfl

end Sys2Proof.Machine

open Sys2Proof.Machine

/-- Settles O32: the checks of the requests, then the slot's state; the tallies count each record under its own period. -/
theorem pupilPutAndRemoveBySlotState : Obligations.PupilPutAndRemoveBySlotState := by
  refine ⟨fun s sfx ws listening => ⟨fun n number name year zone contacts late priority => ?_,
      fun r bad => request_refuses listening (pupilRemove_outOfRange bad _ _),
      fun r range none' => request_refuses listening (pupilRemove_notFound (p := heard s ws) range none' _),
      fun r n x range found => ?_⟩,
    fun c n z p r t g day today register => ?_, fun c p r t z m => ?_, fun c n p => ?_⟩
  · intro put x known free store
    have run : ∀ {q : Part} {y : Reply}, pupilPut s.clock n x (heard s ws) = (q, y) → exec put s = .next (replied s q sfx y) :=
      fun e => request_answers listening e
    have refused : ∀ {code : ErrCode}, pupilPut s.clock n x (heard s ws) = refuse code (heard s ws) →
        exec put s = .next (refusedWith s sfx code) := fun e => request_refuses listening e
    refine ⟨fun bad => refused (pupilPut_outOfRange (x := x) bad _ _), fun fields => ⟨
      fun unknown => refused (pupilPut_unknown (p := heard s ws) (x := x) fields unknown _),
      fun known repeated => refused (pupilPut_repeated (p := heard s ws) (x := x) fields known repeated _), fun known free => ?_⟩⟩
    have taken := pupilPut_taken (p := heard s ws) (x := x) fields known free s.clock
    refine ⟨fun kept vacant closed => run ?_, fun kept vacant _ => run ?_, fun o held => ⟨fun kept enrolled => run ?_,
      fun kept gone same => run ?_, fun gone other => refused ?_⟩⟩
    · rw [taken, writePupil_vacant (p := heard s ws) vacant, stored_kept kept]
      exact congrArg (·, ok [.word "NEW"]) (enrolToday_closed (p := store x) closed s.clock n zone)
    · rw [taken, writePupil_vacant (p := heard s ws) vacant, stored_kept kept]
    · exact taken.trans ((writePupil_enrolled (p := heard s ws) held enrolled x _).trans (stored_kept kept))
    · exact taken.trans (((writePupil_left (p := heard s ws) held gone x _).trans (if_pos same)).trans (stored_kept kept))
    · exact taken.trans ((writePupil_left (p := heard s ws) held gone x _).trans (if_neg other))
  · intro dropped
    refine ⟨fun enrolled opened kept => ?_, fun enrolled closed kept => ?_,
      fun gone opened => request_answers listening (pupilRemove_left (p := heard s ws) range found gone opened _)⟩
    · have taken := pupilRemove_taken (p := heard s ws) range found (.inl enrolled) s.clock
      exact request_answers listening (taken.trans ((removeSlot_open (p := heard s ws) opened _ _ _).trans (stored_kept kept)))
    · have taken := pupilRemove_taken (p := heard s ws) range found (.inl enrolled) s.clock
      exact request_answers listening (taken.trans ((removeSlot_closed (p := heard s ws) closed _ _ _).trans (stored_kept kept)))
  · intro marks q
    have eq := enrolToday_eq day today register c n z
    rw [nextChange_eq] at eq
    exact ⟨_, eq, enrol_tallies _ (enrolledMark_of_period c p r t z)⟩
  · intro fresh off unset
    refine ⟨fun cancelled => ?_, fun x w stands reg sweep => ?_, fun a e lesson times => ?_⟩
    · exact if_pos ((cancelled_iff t m.number z).mpr cancelled)
    · unfold enrolledMark
      rw [cancelled_false stands, reg]
      dsimp only
      rw [sweep_skipped_or_begun sweep]
      cases w.state <;> rfl
    · unfold enrolledMark
      rw [cancelled_false (by rw [times]; nofun), lesson]
      dsimp only
      rw [times]
      rfl
  · refine ⟨fun g register none' => reinstateToday_none (by rw [register]; exact none') c,
      fun none' => reinstateToday_none (by rw [none']; rfl) c, fun g d register held => ?_⟩
    intro begun marks q
    have found : p.reg.register.bind (fun g => g.slot? n) = some d := by
      rw [register]
      exact held
    have eq := reinstateToday_some found c
    refine ⟨fun m x reg unset sweep => reinstatedMark_of_begun reg unset ((sweepBegun_iff p x).mpr sweep) c,
      fun m h => reinstatedMark_of_not (h.imp_right fun idle x reg sweep => idle x reg ((sweepBegun_iff p x).mp sweep)) c,
      fun same => eq.trans (if_pos same), fun moved => ?_⟩
    have run := eq.trans (if_neg moved)
    unfold Part.onRegister Register.replaceMarks at run
    rw [register, Option.map_some, replaceMarks_tallies, nextChange_eq] at run
    refine ⟨_, run, fun once => ⟨foldl_onTally_length (fun m : Mark => m.period.number) _ _ _, fun i y at' => ?_⟩⟩
    have stays : ∀ (m : Mark) (t : Tally), ((t.remove m).add (reinstatedMark c p m)).period = t.period :=
      fun m t => (Tally.add_period _ _).trans (t.remove_period m)
    have at'' := foldl_onTally_getElem? (k := fun m : Mark => m.period.number) stays once at'
    refine ⟨_, at'', ?_, fun m mem mine positive v => ?_⟩
    · cases d.marks.find? (fun m => m.period.number == y.period.number) with
      | none => rfl
      | some m => exact stays m y
    · rw [← mine, find?_of_nodup mem once]
      exact y.move_count m _ v positive

end

section
/-!
What an applied write leaves in the register, and what follows on the outbox (R73, R77 to R80, R82, R86 to R88).
-/

-- One declaration after another: the text is compiled as one, and a declaration that waits for others holds a thread.
set_option Elab.async false

namespace Sys2Proof.Machine

/-! ## The record that a write leaves -/

theorem result_of_set {w : Write} (h : w.value ≠ .unset) (c : Clock) (m : Mark) : w.result c m = ⟨m.period, w.value, some w.writer,
    if w.value = .late ∨ w.value = .lateExcused then
      (if w.writer = .parent then m.minutes else w.minutes.map (fun x => min x 240)) else none,
    some (if w.writer = .sweep ∨ w.writer = .parent ∨ w.writer = .system then 0 else w.reason), c.second?,
    if w.writer = .station ∧ w.value = .late ∧ m.period.reg ≠ none then w.band else none, m.notice⟩ := by
  have reason : w.reasonLeft = if w.writer = .sweep ∨ w.writer = .parent ∨ w.writer = .system then 0 else w.reason := by
    unfold Write.reasonLeft
    cases w.writer <;> rfl
  have holds : holdsMinutes w.value = true ↔ w.value = .late ∨ w.value = .lateExcused := by
    simp only [holdsMinutes, Bool.or_eq_true, beq_iff_eq]
  unfold Write.result Write.minutesLeft Write.bandLeft
  rw [if_neg h, reason]
  simp only [holds, Option.isSome_iff_ne_none]
  rfl

theorem result_of_unset {w : Write} (h : w.value = .unset) (c : Clock) (m : Mark) :
    w.result c m = ⟨m.period, .unset, none, none, none, none, none, m.notice⟩ := if_pos h

/-- A write leaves the period of the record, and its own value. -/
theorem result_period (w : Write) (c : Clock) (m : Mark) : (w.result c m).period = m.period ∧ (w.result c m).value = w.value := by
  by_cases unset : w.value = .unset
  · rw [result_of_unset unset, unset]
    exact ⟨rfl, rfl⟩
  · rw [result_of_set unset]
    exact ⟨rfl, rfl⟩

/-! ## One record and one count moved -/

theorem SlotDay.mark?_setMark (d : SlotDay) (a : Mark) (k : Nat) : (d.setMark a).mark? k
    = if k = a.period.number then (d.mark? k).map (fun _ => a) else d.mark? k := find?_replace a d.marks k

theorem SlotDay.setMark_length (d : SlotDay) (a : Mark) : (d.setMark a).marks.length = d.marks.length := List.length_map ..

/-- The presence after an applied write (R78). -/
theorem presenceAfter_eq (v : MarkValue) (x : Presence) : presenceAfter v x
    = if (v = .present ∨ v = .late ∨ v = .lateExcused) ∧ x = .notArrived then .onSite else x := by
  have arrival : isArrival v = true ↔ v = .present ∨ v = .late ∨ v = .lateExcused := by
    simp only [isArrival, Bool.or_eq_true, beq_iff_eq, or_assoc]
  unfold presenceAfter
  simp only [arrival]

/-- An applied write only ever brings a pupil on site (R78). -/
theorem countAfter_presenceAfter (v : MarkValue) (x : Presence) (n : Nat) : countAfter x (presenceAfter v x) n
    = if presenceAfter v x = .onSite ∧ x ≠ .onSite then n + 1 else n := by
  unfold presenceAfter
  split
  case isTrue arrives =>
    rw [arrives.2]
    rfl
  case isFalse =>
    have stands : countAfter x x n = n := if_pos rfl
    rw [stands, if_neg (fun h => h.2 h.1)]

/-- The tallies of the other periods stand. -/
theorem onTally_filter_ne {k j : Nat} {f : Tally → Tally} (stays : ∀ t, (f t).period = t.period) (other : j ≠ k) (l : List Tally) :
    (onTally k f l).filter (fun x => x.period.number == j) = l.filter (fun x => x.period.number == j) := by
  unfold onTally
  induction l with
  | nil => rfl
  | cons t l ih =>
    rw [List.map_cons]
    by_cases mine : t.period.number = k
    · have not_j : (t.period.number == j) = false := beq_eq_false_iff_ne.mpr fun e => other (e.symm.trans mine)
      rw [if_pos mine, List.filter_cons_of_neg (by rw [stays, not_j]; decide), List.filter_cons_of_neg (by rw [not_j]; decide), ih]
    · rw [if_neg mine, List.filter_cons, List.filter_cons, ih]

/-- The total is the sum of the eight counts (R79). -/
theorem Tally.total_eq (t : Tally) : t.total = t.count .unset + t.count .present + t.count .late + t.count .lateExcused
    + t.count .absent + t.count .absentExcused + t.count .offsite + t.count .notRequired := rfl

theorem Tally.add_total (t : Tally) (m : Mark) : (t.add m).total = t.total + 1 := by
  rw [Tally.total_eq, Tally.total_eq]
  simp only [Tally.add_count]
  cases m.value <;> simp <;> omega

theorem Tally.remove_count (t : Tally) (m : Mark) (v : MarkValue) :
    (t.remove m).count v = if v = m.value then t.count v - 1 else t.count v := by
  unfold Tally.remove
  rw [(Tally.onBand_keeps _ _ _).2, Tally.onValue_count]

theorem Tally.remove_total {t : Tally} {m : Mark} (h : 1 ≤ t.count m.value) : (t.remove m).total + 1 = t.total := by
  rw [Tally.total_eq, Tally.total_eq]
  simp only [Tally.remove_count]
  cases value : m.value <;> rw [value] at h <;> simp <;> omega

/-- A record that moves from one count to another leaves the total (R79). -/
theorem Tally.move_total {t : Tally} {a b : Mark} (h : 1 ≤ t.count a.value) : ((t.remove a).add b).total = t.total := by
  rw [Tally.add_total, Tally.remove_total h]

/-! ## What follows on the outbox -/

theorem isReleasing_iff (v : MarkValue) : isReleasing v = true ↔ v = .absentExcused ∨ v = .offsite ∨ v = .notRequired := by
  simp only [isReleasing, Bool.or_eq_true, beq_iff_eq, or_assoc]

theorem isArrival_iff (v : MarkValue) : isArrival v = true ↔ v = .present ∨ v = .late ∨ v = .lateExcused := by
  simp only [isArrival, Bool.or_eq_true, beq_iff_eq, or_assoc]

theorem writeFollows_reg {m : Mark} {x : Reg} (h : m.period.reg = some x) (c : Clock) (v : MarkValue) (n : Nat) (p : Part) :
    writeFollows c v n m p = lateFollows c v n x m (noticeFollows c v n x m p) := by
  unfold writeFollows
  rw [h]

theorem writeFollows_lesson {m : Mark} (h : m.period.reg = none) (c : Clock) (v : MarkValue) (n : Nat) (p : Part) :
    writeFollows c v n m p = p := by
  unfold writeFollows
  rw [h]

/-- The status stands where it is not PENDING, and under ABSENT and UNSET (R87, R88). -/
theorem noticeFollows_stands {m : Mark} {v : MarkValue} (h : m.notice ≠ some .pending ∨ v = .absent ∨ v = .unset) (c : Clock)
    (n : Nat) (x : Reg) (p : Part) : noticeFollows c v n x m p = p := by
  unfold noticeFollows
  rcases h with settled | rfl | rfl
  · exact if_neg settled
  · exact ite_self _
  · exact ite_self _

theorem noticeFollows_releasing {m : Mark} {v : MarkValue} (pending : m.notice = some .pending)
    (h : v = .absentExcused ∨ v = .offsite ∨ v = .notRequired) (c : Clock) (n : Nat) (x : Reg) (p : Part) :
    noticeFollows c v n x m p = setNotice n x .none (withdrawFor c .absence n x p).1 := by
  have stays : ¬ isArrival v = true := by
    rcases h with rfl | rfl | rfl
    all_goals decide
  unfold noticeFollows
  rw [if_pos pending, if_neg stays, if_pos ((isReleasing_iff v).mpr h)]
  rfl

theorem noticeFollows_arrival {m : Mark} {v : MarkValue} (pending : m.notice = some .pending)
    (h : v = .present ∨ v = .late ∨ v = .lateExcused) (c : Clock) (n : Nat) (x : Reg) (p : Part) :
    noticeFollows c v n x m p = arrivalFollows c n x p := by
  unfold noticeFollows
  rw [if_pos pending, if_pos ((isArrival_iff v).mpr h)]

theorem arrivalFollows_free {c : Clock} {n : Nat} {x : Reg} {p : Part} (h : (withdrawFor c .absence n x p).2.handed = false) :
    arrivalFollows c n x p = setNotice n x .none (withdrawFor c .absence n x p).1 := by
  unfold arrivalFollows
  dsimp only
  rw [h]
  rfl

/-- A handed contact asks for a CORRECTION entry (R87). -/
theorem arrivalFollows_handed {c : Clock} {n : Nat} {x : Reg} {p : Part} (h : (withdrawFor c .absence n x p).2.handed = true) :
    let off := withdrawFor c .absence n x p
    let made := createOrReport c ⟨.correction, .slot n (off.2.contacts.map (fun k => ⟨k, .waiting⟩)), some x,
      .template (p.work.mapped .correction), c.second?, none, none, 0⟩ off.1
    arrivalFollows c n x p = setNotice n x (if made.2 = .refused then .none else .corrected) made.1 := by
  intro off made
  have work : off.1.work = p.work := (withdrawFor_frame c .absence n x p).work
  have asked : createOrReport c (correctionRequest c off.1 n x off.2.contacts) off.1 = made := by
    unfold correctionRequest
    rw [work]
    rfl
  have run : arrivalFollows c n x p = match createOrReport c (correctionRequest c off.1 n x off.2.contacts) off.1 with
      | (q, .refused) => setNotice n x .none q
      | (q, .taken _) => setNotice n x .corrected q
      | (q, .held) => setNotice n x .corrected q := by
    unfold arrivalFollows
    exact if_pos h
  rw [run, asked]
  obtain ⟨q, creation⟩ := made
  cases creation <;> rfl

/-! ## A notice status -/

theorem setNotice_none {p : Part} {n : Nat} {x : Reg} (h : p.regMark? n x = none) (st : NoticeStatus) : setNotice n x st p = p := by
  unfold setNotice
  rw [h]

/-- A status set on the record of r moves that record's status alone (R80, R86). -/
theorem setNotice_some {p : Part} {n : Nat} {x : Reg} {m : Mark} (h : p.regMark? n x = some m) (st : NoticeStatus) :
    let q := setNotice n x st p
    q.regMark? n x = some { m with notice := some st } ∧
    (∀ j k, j ≠ n ∨ k ≠ m.period.number → q.mark? j k = p.mark? j k) ∧
    (∀ g, p.reg.register = some g → ∃ l, q = { p with reg.register := some { g with slots := l } }) := by
  intro q
  obtain ⟨g, d, register, number, slot, eq⟩ := setNotice_found st h
  have register' : q.reg.register = some { g with slots := Table.put g.slots n (d.setMark { m with notice := some st }) } :=
    congrArg (·.reg.register) eq
  have moved : ∀ j k, q.mark? j k = if j = n ∧ k = m.period.number then (p.mark? j k).map (fun _ => { m with notice := some st })
      else p.mark? j k :=
    mark?_setMark (a := { m with notice := some st }) _ register register' slot rfl rfl
  refine ⟨?_, fun j k other => ?_, fun g' same => ?_⟩
  · have found : p.mark? n m.period.number = some m := by
      have read := h
      rw [regMark?_some register, number] at read
      exact read
    rw [regMark?_some register', number, Option.bind_some, moved, if_pos ⟨rfl, rfl⟩, found]
    rfl
  · rw [moved, if_neg]
    rintro ⟨slot', number'⟩
    exact other.elim (fun h => h slot') (fun h => h number')
  · cases register.symm.trans same
    exact ⟨_, eq⟩

theorem reportLeaving_pending {p : Part} {n : Nat} {x : Reg} {m : Mark} (h : p.regMark? n x = some m)
    (pending : m.notice = some .pending) (delivered failed : Bool) : reportLeaving n x delivered failed p
      = setNotice n x (if delivered then .sent else if failed then .expired else .none) p := by
  unfold reportLeaving
  rw [h]
  exact if_pos pending

theorem reportLeaving_settled {p : Part} {n : Nat} {x : Reg} (h : ∀ m, p.regMark? n x = some m → m.notice ≠ some .pending)
    (delivered failed : Bool) : reportLeaving n x delivered failed p = p := by
  unfold reportLeaving
  split
  case h_1 => rfl
  case h_2 m found => exact if_neg (h m found)

end Sys2Proof.Machine

open Sys2Proof.Machine

/-- Settles O34: the record, the slot's items and the tallies of an applied write; then the outbox by the status that stood. -/
theorem appliedWriteMovesRecordCountAndSequence : Obligations.AppliedWriteMovesRecordCountAndSequence := by
  refine ⟨fun c w n d m g => ?_, fun c w n k p g d m register slot record permitted => ?_,
    fun c v n m p => ⟨fun lesson => writeFollows_lesson lesson c v n p, fun x reg => ?_⟩,
    fun n x st p => ⟨fun none' => setNotice_none none' st, fun m found => setNotice_some found st⟩,
    fun n x delivered failed p => ⟨fun m found pending => reportLeaving_pending found pending _ _,
      fun settled => reportLeaving_settled settled _ _⟩⟩
  · obtain ⟨period, value⟩ := result_period w c m
    have stays : ∀ t : Tally, ((t.remove m).add (w.result c m)).period = t.period :=
      fun t => (Tally.add_period _ _).trans (t.remove_period m)
    intro t
    refine ⟨fun set => result_of_set set c m, fun unset => result_of_unset unset c m, nextChange_eq _, rfl, rfl, rfl,
      fun j other => Table.get?_put_ne _ _ _ _ other,
      ⟨{ d.setMark (w.result c m) with presence := presenceAfter w.value d.presence, lastChange := nextChange g.changes },
        Table.get?_put _ _ _, rfl, d.setMark_length _, fun k found => ?_, fun k other => ?_, presenceAfter_eq _ _,
        countAfter_presenceAfter _ _ _⟩,
      fun k other => onTally_filter_ne stays other _, fun x mem mine positive => ?_⟩
    · have moved := d.mark?_setMark (w.result c m) m.period.number
      rw [period, if_pos rfl, found] at moved
      exact moved
    · have moved := d.mark?_setMark (w.result c m) k
      rw [period, if_neg other] at moved
      exact moved
    · refine ⟨(x.remove m).add (w.result c m), List.mem_map.mpr ⟨x, mem, if_pos mine⟩, stays x, Tally.move_total positive,
        fun v => ?_⟩
      have moved := x.move_count m (w.result c m) v positive
      rwa [value] at moved
  · rw [writeMark_of_allowed c register slot record permitted]
    unfold Part.onRegister
    rw [register]
    rfl
  · intro late off arrival
    have run := writeFollows_reg reg c v n p
    refine ⟨fun stands => ?_, fun pending releasing => ?_, fun pending arrives free => ?_, fun pending arrives handed => ?_⟩
    · rw [run, noticeFollows_stands stands]
      rfl
    · rw [run, noticeFollows_releasing pending releasing]
      rfl
    · rw [run, noticeFollows_arrival pending arrives, arrivalFollows_free free]
      rfl
    · intro made
      rw [run, noticeFollows_arrival pending arrives, arrivalFollows_handed handed]
      rfl

end

section
/-!
MARK SET and MARK BATCH in their order of decision, and the blocks in which a register is sent (R81 to R83, R89, R90).
-/

-- One declaration after another: the text is compiled as one, and a declaration that waits for others holds a thread.
set_option Elab.async false

namespace Sys2Proof.Machine

/-! ## Reading a host mark -/

theorem minutesFit_iff (v : MarkValue) (m : Option Nat) : minutesFit v m = true ↔ (m ≠ none ↔ (v = .late ∨ v = .lateExcused)) := by
  cases v <;> cases m <;> simp [minutesFit, holdsMinutes]

theorem readMark_unfit {h : HostMark} {v : MarkValue} (value : h.value = some v)
    (unfit : h.minutes ≠ none ↔ (v ≠ .late ∧ v ≠ .lateExcused)) (b : Bool) (p : Part) : readMark h b p = .error .malformed := by
  have bad : minutesFit v h.minutes = false := by
    rw [← Bool.not_eq_true, minutesFit_iff]
    tauto
  unfold readMark
  rw [value]
  dsimp only
  rw [bad]
  rfl

/-- The fields of a host mark, once its value and minutes go together (R81, step 2). -/
theorem readMark_fit {h : HostMark} {v : MarkValue} (value : h.value = some v)
    (fit : h.minutes ≠ none ↔ (v = .late ∨ v = .lateExcused)) (b : Bool) (p : Part) : readMark h b p = match h.source with
      | none => .error .range
      | some src =>
        if !b || decide (7 < h.reason) || !p.periodInRange h.period || h.minutes == some 0 then .error .range
        else match p.openDay, p.bells.today.bind (fun t => t.markedPeriod h.period) with
          | some _, some k => .ok ⟨k, ⟨hostWriter src, v, h.minutes, h.reason, none⟩⟩
          | _, _ => .error .state := by
  unfold readMark
  rw [value]
  dsimp only
  rw [(minutesFit_iff v h.minutes).mpr fit]
  rfl

theorem readMark_outOfRange {h : HostMark} {v : MarkValue} {b : Bool} {p : Part} (value : h.value = some v)
    (fit : h.minutes ≠ none ↔ (v = .late ∨ v = .lateExcused))
    (bad : h.source = none ∨ b = false ∨ 7 < h.reason ∨ p.periodInRange h.period = false ∨ h.minutes = some 0) :
    readMark h b p = .error .range := by
  rw [readMark_fit value fit]
  split
  case h_1 => rfl
  case h_2 src source =>
    refine if_pos ?_
    simp only [Bool.or_eq_true, Bool.not_eq_true', decide_eq_true_eq, beq_iff_eq]
    rcases bad with none' | pupil | reason | period | minutes
    · rw [none'] at source; cases source
    · exact .inl (.inl (.inl pupil))
    · exact .inl (.inl (.inr reason))
    · exact .inl (.inr period)
    · exact .inr minutes

theorem readMark_inRange {h : HostMark} {v : MarkValue} {src : HostSource} {p : Part} (value : h.value = some v)
    (fit : h.minutes ≠ none ↔ (v = .late ∨ v = .lateExcused)) (source : h.source = some src) (reason : h.reason ≤ 7)
    (period : p.periodInRange h.period = true) (minutes : h.minutes ≠ some 0) : readMark h true p
      = match p.openDay, p.bells.today.bind (fun t => t.markedPeriod h.period) with
        | some _, some k => .ok ⟨k, ⟨hostWriter src, v, h.minutes, h.reason, none⟩⟩
        | _, _ => .error .state := by
  have fine : ¬ (!true || decide (7 < h.reason) || !p.periodInRange h.period || h.minutes == some 0) = true := by
    rw [period, decide_eq_false (Nat.not_lt.mpr reason), beq_eq_false_iff_ne.mpr minutes]
    decide
  rw [readMark_fit value fit, source]
  exact if_neg fine

/-! ## The write of a host mark -/

/-- R82: an UNSET write is held back once the sweep of the registration period has begun. -/
theorem unsetRefused_iff {p : Part} {n k : Nat} {m : Mark} (h : p.mark? n k = some m) (v : MarkValue) :
    unsetRefused p n k v = true ↔ v = .unset ∧ ∃ y, m.period.reg = some y ∧ p.sweepBegun y = true := by
  unfold unsetRefused
  rw [h, Option.bind_some]
  cases m.period.reg <;> simp

theorem hostWrite_held {p : Part} {w : Write} {n k : Nat} {m : Mark} (h : p.mark? n k = some m)
    (held : w.value = .unset ∧ ∃ y, m.period.reg = some y ∧ p.sweepBegun y = true) (c : Clock) :
    hostWrite c w n k p = (p, false) := if_pos ((unsetRefused_iff h w.value).mpr held)

theorem hostWrite_free {p : Part} {w : Write} {n k : Nat} {m : Mark} (h : p.mark? n k = some m)
    (free : ¬ (w.value = .unset ∧ ∃ y, m.period.reg = some y ∧ p.sweepBegun y = true)) (c : Clock) :
    hostWrite c w n k p = writeMark c w n k p := if_neg (by rw [unsetRefused_iff h]; exact free)

theorem writeMark_taken {p : Part} {w : Write} {n k : Nat} {m : Mark} (h : p.mark? n k = some m) (may : w.allowed m = true)
    (c : Clock) : (writeMark c w n k p).2 = true := by
  obtain ⟨g, d, register, slot, record⟩ := mark?_eq_some_iff.mp h
  rw [writeMark_of_allowed c register slot record may]

theorem markSet_error {r : PupilRef} {h : HostMark} {p : Part} {e : ErrCode} (read : readMark h (pupilInRange r) p = .error e)
    (c : Clock) : markSet c r h p = refuse e p := by
  unfold markSet
  rw [read]

theorem markSet_notFound {r : PupilRef} {h : HostMark} {p : Part} {k : ReadyMark} (read : readMark h (pupilInRange r) p = .ok k)
    (none' : p.work.pupil r = none) (c : Clock) : markSet c r h p = refuse .notFound p := by
  unfold markSet
  rw [read, none']

theorem markSet_skipped {r : PupilRef} {h : HostMark} {p : Part} {k : ReadyMark} {n : Nat} {x : Slot}
    (read : readMark h (pupilInRange r) p = .ok k) (pupil : p.work.pupil r = some (n, x)) {c : Clock}
    (skipped : hostWrite c k.write n k.period p = (p, false)) : markSet c r h p = refuse .state p := by
  unfold markSet
  rw [read, pupil]
  dsimp only
  rw [skipped]
  rfl

theorem markSet_written {r : PupilRef} {h : HostMark} {p q : Part} {k : ReadyMark} {n : Nat} {x : Slot}
    (read : readMark h (pupilInRange r) p = .ok k) (pupil : p.work.pupil r = some (n, x)) {c : Clock}
    (wrote : hostWrite c k.write n k.period p = (q, true)) :
    markSet c r h p = (q, ok [.word (valueWord k.write.value), nat q.changes]) := by
  unfold markSet
  rw [read, pupil]
  dsimp only
  rw [wrote]

/-! ## MARK BATCH -/

theorem markBatch_length {l : List WrittenPupil} (bad : l = [] ∨ 32 < l.length) (c : Clock) (h : HostMark) (p : Part) :
    markBatchRequest c h l p = refuse .malformed p := if_pos (bad.imp_left List.isEmpty_iff.mpr)

theorem markBatch_sized {l : List WrittenPupil} (some' : l ≠ []) (short : l.length ≤ 32) : ¬ (l.isEmpty = true ∨ 32 < l.length) := by
  rintro (empty | long)
  · exact some' (List.isEmpty_iff.mp empty)
  · omega

theorem markBatch_error {l : List WrittenPupil} {h : HostMark} {p : Part} {e : ErrCode} (some' : l ≠ []) (short : l.length ≤ 32)
    (read : readMark h true p = .error e) (c : Clock) : markBatchRequest c h l p = refuse e p := by
  refine (if_neg (markBatch_sized some' short)).trans ?_
  rw [read]

theorem markBatch_taken {l : List WrittenPupil} {h : HostMark} {p : Part} {k : ReadyMark} (some' : l ≠ []) (short : l.length ≤ 32)
    (read : readMark h true p = .ok k) (c : Clock) :
    markBatchRequest c h l p = ((batchItems c k l p).1, counted (batchItems c k l p).2) := by
  refine (if_neg (markBatch_sized some' short)).trans ?_
  rw [read]

theorem batchItems_length (c : Clock) (k : ReadyMark) (l : List WrittenPupil) (p : Part) : (batchItems c k l p).2.length = l.length := by
  induction l generalizing p with
  | nil => rfl
  | cons r l ih => exact congrArg (· + 1) (ih _)

theorem batchItem_outOfRange {r : PupilRef} (bad : pupilInRange r = false) (c : Clock) (k : ReadyMark) (p : Part) :
    batchItem c k p r = (p, [.word "RANGE"]) := by
  unfold batchItem
  rw [bad]
  rfl

theorem batchItem_notFound {r : PupilRef} {p : Part} (range : pupilInRange r = true) (none' : p.work.pupil r = none) (c : Clock)
    (k : ReadyMark) : batchItem c k p r = (p, [.word "NOTFOUND"]) := by
  unfold batchItem
  rw [range, none']
  rfl

theorem batchItem_skipped {r : PupilRef} {p : Part} {n : Nat} {x : Slot} {k : ReadyMark} (range : pupilInRange r = true)
    (pupil : p.work.pupil r = some (n, x)) {c : Clock} (skipped : hostWrite c k.write n k.period p = (p, false)) :
    batchItem c k p r = (p, [.word "STATE"]) := by
  unfold batchItem
  rw [range, pupil]
  dsimp only
  rw [skipped]
  rfl

theorem batchItem_written {r : PupilRef} {p q : Part} {n : Nat} {x : Slot} {k : ReadyMark} (range : pupilInRange r = true)
    (pupil : p.work.pupil r = some (n, x)) {c : Clock} (wrote : hostWrite c k.write n k.period p = (q, true)) :
    batchItem c k p r = (q, [.word "OK", .word (valueWord k.write.value)]) := by
  unfold batchItem
  rw [range, pupil]
  dsimp only
  rw [wrote]
  rfl

/-! ## EXPORT -/

theorem exportFieldsOk_iff (first count block : Nat) : exportFieldsOk first count block = true
    ↔ first ≤ 3071 ∧ 1 ≤ count ∧ count ≤ 3072 ∧ 1 ≤ block ∧ block ≤ 64 := by
  have slots : Config.slotCount = 3072 := rfl
  simp only [exportFieldsOk, Bool.and_eq_true, decide_eq_true_eq, slots]
  omega

theorem exportRequest_outOfRange {first count block : Nat} {dir : Option Direction} {e : Option EndMode}
    (bad : exportFieldsOk first count block = false ∨ dir = none ∨ e = none) (f : PeriodsField) (p : Part) :
    exportRequest first count dir f block e p = refuse .range p := by
  unfold exportRequest
  split
  case h_1 d w =>
    rcases bad with bad | none' | none'
    · rw [bad]
      rfl
    · cases none'
    · cases none'
  case h_2 => rfl

theorem exportRequest_closed {first count block : Nat} {p : Part} (fine : exportFieldsOk first count block = true)
    (none' : p.reg.register = none) (d : Direction) (f : PeriodsField) (w : EndMode) :
    exportRequest first count (some d) f block (some w) p = refuse (if bareListOk f then .state else .range) p := by
  unfold exportRequest Part.register?
  dsimp only
  rw [fine, none']
  rfl

theorem exportRequest_open {first count block : Nat} {p : Part} {g : Register} {t : Today}
    (fine : exportFieldsOk first count block = true) (register : p.reg.register = some g) (today : p.bells.today = some t)
    (d : Direction) (f : PeriodsField) (w : EndMode) : exportRequest first count (some d) f block (some w) p
      = match exportPeriods t f with
        | none => refuse .range p
        | some l => exportBlock ⟨first, count, d, l, block, w, first, 0, g.changes⟩ p := by
  unfold exportRequest Part.register?
  dsimp only
  rw [fine, register, today]
  rfl

theorem exportNext_none {p : Part} (h : p.reg.register = none ∨ ∃ g, p.reg.register = some g ∧ g.exporting = none) :
    exportNextRequest p = refuse .state p := by
  unfold exportNextRequest Part.register?
  rcases h with none' | ⟨g, register, none'⟩
  · rw [none']
    rfl
  · rw [register, Option.bind_some, none']

theorem exportNext_some {p : Part} {g : Register} {x : Export} (register : p.reg.register = some g) (h : g.exporting = some x) :
    exportNextRequest p = exportBlock x p := by
  unfold exportNextRequest Part.register?
  rw [register, Option.bind_some, h]

theorem bareListOk_list (l : List PeriodRef) :
    bareListOk (.list l) = true ↔ l.Nodup ∧ ∀ n, PeriodRef.number n ∈ l → n ≤ 13 := by
  unfold bareListOk
  rw [Bool.and_eq_true, noRepeat_iff, List.all_eq_true]
  refine and_congr_right fun _ => ⟨fun h n mem => of_decide_eq_true (h _ mem), fun h r mem => ?_⟩
  cases r with
  | number n => exact decide_eq_true (h n mem)
  | reg x => rfl

theorem exportPeriods_list (t : Today) (l : List PeriodRef) (ks : List Nat) :
    exportPeriods t (.list l) = some ks ↔ l.map t.markedPeriod = ks.map some ∧ ks.Nodup := by
  rw [← allKnown_eq_some_iff, ← noRepeat_iff]
  unfold exportPeriods
  dsimp only
  cases allKnown (l.map t.markedPeriod) with
  | none => simp
  | some ks' =>
    simp only [Option.ite_none_right_eq_some, Option.some.injEq]
    constructor
    · rintro ⟨once, rfl⟩
      exact ⟨rfl, once⟩
    · rintro ⟨rfl, once⟩
      exact ⟨once, rfl⟩

theorem exportBlock_register {p : Part} {g : Register} (register : p.reg.register = some g) (x : Export) : exportBlock x p =
    let v := visit (exportLine p.work g x) x.dir (x.count - x.visited) x.position x.block
    let a := afterBlock x g.changes v.2.1 v.2.2
    ({ p with reg.register := some { g with exporting := a.2 } },
      ⟨v.1, [.word "OK", nat v.1.length, .word a.1], false⟩) := by
  unfold exportBlock Part.register? Part.onRegister
  rw [register]
  rfl

theorem afterBlock_more {x : Export} {left : Nat} (h : left ≠ 0) (changes next : Nat) :
    afterBlock x changes next left = ("MORE", some { x with position := next, visited := x.count - left }) := if_neg h

theorem afterBlock_once {x : Export} (h : x.endMode = .once) (changes next : Nat) :
    afterBlock x changes next 0 = ("END", none) := by
  unfold afterBlock
  rw [h]
  rfl

theorem afterBlock_wrap {x : Export} (h : x.endMode = .wrap) (changes next : Nat) :
    afterBlock x changes next 0 = ("WRAP", some { x with position := x.first, visited := 0, epoch := changes }) := by
  unfold afterBlock
  rw [h]
  rfl

theorem exportLine_vacant {img : Image} {n : Nat} (h : Table.get? img.slots n = none) (g : Register) (x : Export) :
    exportLine img g x n = none := by
  unfold exportLine
  rw [h]

theorem exportLine_some {img : Image} {g : Register} {n : Nat} {y : Slot} {d : SlotDay} (slot : Table.get? img.slots n = some y)
    (records : g.slot? n = some d) (x : Export) : exportLine img g x n
      = some (nat n :: nat y.number :: changedFlag d.lastChange x.epoch :: .word (presenceWord d.presence)
          :: x.periods.flatMap (exportMark d)) := by
  unfold exportLine
  rw [slot, records]
  rfl

end Sys2Proof.Machine

open Sys2Proof.Machine

/-- Settles O35: the steps of R81 in turn; a batch takes its items one after another. -/
theorem markRequestsAreDecidedInOrder : Obligations.MarkRequestsAreDecidedInOrder := by
  intro s sfx h listening
  refine ⟨fun b none' => ?_, fun b v value unfit => readMark_unfit value unfit b _, fun b v value fit =>
      ⟨fun bad => readMark_outOfRange value fit bad, fun src source pupil reason period minutes => ?_⟩,
    fun r e read => request_refuses listening (markSet_error (p := heard s []) read _), fun r k read => ?_,
    fun l bad => request_refuses listening (markBatch_length bad _ _ _),
    fun l e some' short read => request_refuses listening (markBatch_error (p := heard s []) some' short read _),
    fun l k some' short read => ?_, fun c k p => ⟨rfl, fun r l => ?_⟩⟩
  · unfold readMark
    rw [none']
  · subst pupil
    have decided := readMark_inRange value fit source reason period minutes
    refine ⟨fun closed => ?_, fun t k opened today marked => ?_⟩
    · rw [decided, closed]
    · obtain ⟨r, day⟩ := Option.ne_none_iff_exists'.mp opened
      rw [decided, day, today, Option.bind_some, marked]
  · intro go
    refine ⟨fun none' => request_refuses listening (markSet_notFound (p := heard s []) read none' _),
      fun n x m pupil record => ⟨fun y unset reg begun => ?_, fun free may => ?_⟩⟩
    · have held := hostWrite_held (p := heard s []) record ⟨unset, y, reg, begun⟩ s.clock
      exact request_refuses listening (markSet_skipped (p := heard s []) read pupil held)
    · intro q
      have clear : ¬ (k.write.value = .unset ∧ ∃ y, m.period.reg = some y ∧ (heard s []).sweepBegun y = true) := by
        rintro ⟨unset, y, reg, begun⟩
        rcases free with set | lesson | ⟨z, reg', idle⟩
        · exact set unset
        · rw [lesson] at reg; cases reg
        · cases reg.symm.trans reg'
          exact absurd begun (by rw [show (heard s []).sweepBegun y = false from idle]; decide)
      have wrote : hostWrite s.clock k.write n k.period (heard s []) = (q, true) :=
        (hostWrite_free (p := heard s []) record clear s.clock).trans (Prod.ext rfl (writeMark_taken (p := heard s []) record may s.clock))
      exact request_answers listening (markSet_written (p := heard s []) read pupil wrote)
  · intro x
    have length : x.2.length = l.length := batchItems_length s.clock k l (heard s [])
    refine ⟨length, ?_⟩
    have taken := markBatch_taken (p := heard s []) some' short read s.clock
    rw [← length]
    exact request_answers listening taken
  · intro x y
    refine ⟨rfl, fun bad => batchItem_outOfRange bad c k p, fun range none' => batchItem_notFound range none' c k,
      fun n v m range pupil record => ?_⟩
    intro held
    refine ⟨fun refused => batchItem_skipped range pupil ?_, fun free may => batchItem_written range pupil ?_⟩
    · rcases refused with held | denied
      · exact hostWrite_held record held c
      · exact hostWrite_of_not_allowed c record denied
    · exact (hostWrite_free record free c).trans (Prod.ext rfl (writeMark_taken record may c))

/-- Settles O36: the fields and the register decide the request; a block is one run of visits. -/
theorem exportVisitsSlotsInBlocks : Obligations.ExportVisitsSlotsInBlocks := by
  refine ⟨fun s sfx first count dir f block e listening => ?_, fun s sfx listening => ⟨
      fun none' => request_refuses listening (exportNext_none (p := heard s []) none'), fun g x register exporting => ?_⟩,
    ⟨rfl, bareListOk_list⟩, fun t => ⟨rfl, exportPeriods_list t⟩, fun x p g register more room inside => ?_,
    fun img g x n => ⟨fun vacant => exportLine_vacant vacant g x, fun y d slot records => ?_⟩⟩
  · intro go fits
    refine ⟨fun bad => request_refuses listening (exportRequest_outOfRange ?_ _ _), fun d w fine way mode => ?_⟩
    · rw [← Bool.not_eq_true, exportFieldsOk_iff]
      exact bad
    · subst way mode
      have fine := (exportFieldsOk_iff first count block).mpr fine
      refine ⟨fun none' list => ?_, fun none' list => ?_, fun g t register today => ⟨fun bad => ?_, fun l given => ?_⟩⟩
      · have refused := exportRequest_closed (p := heard s []) fine none' d f w
        rw [list] at refused
        exact request_refuses listening refused
      · have refused := exportRequest_closed (p := heard s []) fine none' d f w
        rw [list] at refused
        exact request_refuses listening refused
      · have decided := exportRequest_open (p := heard s []) fine register today d f w
        rw [bad] at decided
        exact request_refuses listening decided
      · have decided := exportRequest_open (p := heard s []) fine register today d f w
        rw [given] at decided
        exact request_answers listening decided
  · exact request_answers listening (exportNext_some (p := heard s []) register exporting)
  · intro place lines left y
    have places : ∀ k, visitPlace x.dir x.position k = place k := by
      intro k
      rfl
    obtain ⟨v, pos, most, eq, early, full, fits⟩ :=
      visit_spec (exportLine p.work g x) x.dir (x.count - x.visited) x.position x.block inside room (by omega)
    have block := exportBlock_register register x
    rw [eq] at block
    refine ⟨v, (afterBlock x g.changes (place v) (left - v)).2, (afterBlock x g.changes (place v) (left - v)).1, pos, most, early,
      full, fits, congrArg Prod.fst block, congrArg Prod.snd block, fun unfinished => ?_, fun done once => ?_, fun done wrap => ?_⟩
    · rw [afterBlock_more (by omega)]
      have visits : x.count - (left - v) = x.visited + v := by omega
      exact ⟨rfl, by rw [visits]⟩
    · rw [done, Nat.sub_self, afterBlock_once once]
      exact ⟨rfl, rfl⟩
    · rw [done, Nat.sub_self, afterBlock_wrap wrap]
      exact ⟨rfl, rfl⟩
  · intro changed mark
    have line := exportLine_some slot records x
    refine ⟨fun moved => ?_, fun same => ?_⟩
    · rw [line, show changedFlag d.lastChange x.epoch = .word "CHANGED" from if_pos moved]
      rfl
    · rw [line, show changedFlag d.lastChange x.epoch = dash from if_neg same]
      rfl

end

section
/-!
The Arrival Desk: the exchanges of a poll cycle, ENTRY answers, and the processing of the queue (R99 to R112).
-/

-- One declaration after another: the text is compiled as one, and a declaration that waits for others holds a thread.
set_option Elab.async false

namespace Sys2Proof.Machine

/-! ## One station changed, and STATION_OK -/

/-- Station n holds the record y. -/
def putStation (n : Nat) (y : Station) (p : Part) : Part := { p with desk.stations := p.desk.stations.setIfInBounds n y }

/-- STATION_OK is raised under a condition (R101). -/
def okWhen (c : Clock) (n : Nat) (b : Bool) (p : Part) : Part := if b then raise c (.stationOk n) p else p

theorem onStation_eq (n : Nat) (f : Station → Station) (p : Part) : onStation n f p = putStation n (f (p.station n)) p := rfl

theorem station_lt {p : Part} {n : Nat} (h : (p.station n).state ≠ .absent) : n < 4 := by
  by_contra out
  have absent : p.station n = Station.absent := by simp [Part.station, Vector.getD, out]
  exact h (by rw [absent]; rfl)

theorem station_putStation {n : Nat} (h : n < 4) (y : Station) (p : Part) : (putStation n y p).station n = y := by
  have set := station_onStation n n (fun _ => y) p
  rwa [if_pos ⟨rfl, h⟩] at set

@[simp] theorem station_raise (c : Clock) (b : NoticeBody) (p : Part) (n : Nat) : (raise c b p).station n = p.station n := by
  unfold Part.station
  rw [raise_desk]

@[simp] theorem station_okWhen (c : Clock) (n : Nat) (b : Bool) (p : Part) (k : Nat) : (okWhen c n b p).station k = p.station k := by
  unfold okWhen
  split
  case isTrue => exact station_raise ..
  case isFalse => rfl

theorem putStation_twice (n : Nat) (x y : Station) (p : Part) : putStation n x (putStation n y p) = putStation n x p := by
  have stations : (p.desk.stations.setIfInBounds n y).setIfInBounds n x = p.desk.stations.setIfInBounds n x := by
    ext i bound
    simp only [Vector.getElem_setIfInBounds]
    split <;> rfl
  unfold putStation
  rw [stations]

theorem putStation_raise (n : Nat) (y : Station) (c : Clock) (b : NoticeBody) (p : Part) :
    putStation n y (raise c b p) = raise c b (putStation n y p) := by
  unfold raise
  split
  case isTrue room => exact (if_pos room).symm
  case isFalse full => exact (if_neg full).symm

theorem putStation_okWhen (n : Nat) (y : Station) (c : Clock) (k : Nat) (b : Bool) (p : Part) :
    putStation n y (okWhen c k b p) = okWhen c k b (putStation n y p) := by
  unfold okWhen
  split
  case isTrue => exact putStation_raise ..
  case isFalse => rfl

/-- A further change of the record of a station that has just been put. -/
theorem onStation_put {n : Nat} (h : n < 4) (f : Station → Station) (y : Station) (p : Part) :
    onStation n f (putStation n y p) = putStation n (f y) p := by
  rw [onStation_eq, station_putStation h, putStation_twice]

theorem onStation_okWhen (n : Nat) (f : Station → Station) (c : Clock) (b : Bool) (p : Part) :
    onStation n f (okWhen c n b p) = okWhen c n b (onStation n f p) := by
  rw [onStation_eq, station_okWhen, putStation_okWhen]
  rfl

/-! ## Answers -/

/-- What a good answer leaves, with the station's record y: STATION_OK for a station that returns, and for a
condition that ends (R101). -/
def goodWith (c : Clock) (n : Nat) (st y : Station) (p : Part) : Part :=
  okWhen c n st.condition.isSome (okWhen c n (st.state == .faulted) (putStation n y p))

/-- The record of a station after a good answer (R101, R102). -/
def Station.answered (carried : Bool) (st : Station) : Station :=
  { st with misses := 0, state := .ready, condition := none, slips := if carried then st.slips.tail else st.slips }

theorem onStation_goodWith {n : Nat} (h : n < 4) (f : Station → Station) (c : Clock) (st y : Station) (p : Part) :
    onStation n f (goodWith c n st y p) = goodWith c n st (f y) p := by
  unfold goodWith
  rw [onStation_okWhen, onStation_okWhen, onStation_put h]

theorem station_goodWith {n : Nat} (h : n < 4) (c : Clock) (st y : Station) (p : Part) : (goodWith c n st y p).station n = y := by
  unfold goodWith
  rw [station_okWhen, station_okWhen, station_putStation h]

theorem okWhen_activity (c : Clock) (n : Nat) (b : Bool) (p : Part) : (okWhen c n b p).hl.activity = p.hl.activity := by
  unfold okWhen
  split
  case isTrue => exact (raise_hl ..).1
  case isFalse => rfl

theorem goodWith_activity (c : Clock) (n : Nat) (st y : Station) (p : Part) : (goodWith c n st y p).hl.activity = p.hl.activity := by
  unfold goodWith
  rw [okWhen_activity, okWhen_activity]
  rfl

theorem okWhen_queue (c : Clock) (n : Nat) (b : Bool) (p : Part) : (okWhen c n b p).desk.queue = p.desk.queue := by
  unfold okWhen
  split
  case isTrue => rw [raise_desk]
  case isFalse => rfl

theorem goodWith_queue (c : Clock) (n : Nat) (st y : Station) (p : Part) : (goodWith c n st y p).desk.queue = p.desk.queue := by
  unfold goodWith
  rw [okWhen_queue, okWhen_queue]
  rfl

theorem anyAnswer_eq (c : Clock) (n : Nat) (p : Part) : anyAnswer c n p = okWhen c n ((p.station n).state == .faulted)
    (putStation n { p.station n with misses := 0, state := .ready } p) := by
  unfold anyAnswer okWhen
  simp only [beq_iff_eq]
  rfl

theorem goodAnswer_eq {n : Nat} (h : n < 4) (c : Clock) (x : Exchange) (p : Part) :
    goodAnswer c n x p = goodWith c n (p.station n) ((p.station n).answered x.carriedSlip) p := by
  have condition : ((anyAnswer c n p).station n).condition = (p.station n).condition := by
    rw [anyAnswer_eq, station_okWhen, station_putStation h]
  have run : goodAnswer c n x p = okWhen c n ((anyAnswer c n p).station n).condition.isSome (onStation n (fun s =>
      { s with condition := none, slips := if x.carriedSlip then s.slips.tail else s.slips }) (anyAnswer c n p)) := rfl
  rw [run, condition, anyAnswer_eq, onStation_okWhen, onStation_put h]
  rfl

theorem noCall_goodWith {n : Nat} (h : n < 4) (c : Clock) (st y : Station) (p : Part) :
    noCall n (goodWith c n st y p) = goodWith c n st { y with calls := 0, callRaised := false } p := onStation_goodWith h _ c st y p

/-- IDLE (R101, R102). -/
theorem idleAnswer_eq {n : Nat} (h : n < 4) (c : Clock) (x : Exchange) (p : Part) : noCall n (goodAnswer c n x p)
    = goodWith c n (p.station n) { (p.station n).answered x.carriedSlip with calls := 0, callRaised := false } p := by
  rw [goodAnswer_eq h, noCall_goodWith h]

theorem callThreshold_eq (a : Activity) : callThreshold a = if a = .dormant then 4 else 8 := by cases a <;> rfl

/-- CALL counts, and at the threshold it is counted once (R112). -/
theorem callAnswer_eq {n : Nat} (h : n < 4) (c : Clock) (st y : Station) (p : Part) :
    let k := min (y.calls + 1) 255
    callAnswer c n (goodWith c n st y p) = if (if p.hl.activity = .dormant then 4 else 8) ≤ k ∧ (!y.callRaised) = true
      then setFlag c .call (raise c (.doorCall n c.second?) (goodWith c n st { y with calls := k, callRaised := true } p))
      else goodWith c n st { y with calls := k } p := by
  intro k
  unfold callAnswer
  dsimp only
  rw [station_goodWith h, goodWith_activity, callThreshold_eq, onStation_goodWith h, onStation_goodWith h]
  rfl

/-- FAULT with a code (R101). -/
theorem faultAnswer_eq {n : Nat} (h : n < 4) (c : Clock) (f : StationFault) (p : Part) :
    let q := okWhen c n ((p.station n).state == .faulted) (putStation n
      { p.station n with misses := 0, state := .ready, condition := some f, calls := 0, callRaised := false } p)
    faultAnswer c n f p = if (p.station n).condition = some f then q else raise c (.stationFault n (.code f)) q := by
  intro q
  have answered : noCall n (anyAnswer c n p) = okWhen c n ((p.station n).state == .faulted) (putStation n
      { p.station n with misses := 0, state := .ready, calls := 0, callRaised := false } p) := by
    unfold noCall
    rw [anyAnswer_eq, onStation_okWhen, onStation_put h]
  unfold faultAnswer
  dsimp only
  rw [answered, station_okWhen, station_putStation h, onStation_okWhen, onStation_put h]

/-- A miss of a READY station below the greatest count. -/
theorem missOutcome_ready {n : Nat} {p : Part} (ready : (p.station n).state = .ready) (h : (p.station n).misses + 1 < 12)
    (c : Clock) : missOutcome c n p
      = putStation n { p.station n with misses := (p.station n).misses + 1, calls := 0, callRaised := false } p := by
  have bound : n < 4 := station_lt (by rw [ready]; nofun)
  unfold missOutcome
  dsimp only
  split
  case h_1 => exact (if_pos h).trans (onStation_put bound _ _ p)
  case h_2 other => cases ready.symm.trans other
  case h_3 other => cases ready.symm.trans other

theorem missOutcome_twelfth {n : Nat} {p : Part} (ready : (p.station n).state = .ready) (h : 12 ≤ (p.station n).misses + 1)
    (c : Clock) : missOutcome c n p = raise c (.stationFault n .noReply)
      (putStation n { p.station n with misses := 12, state := .faulted, calls := 0, callRaised := false } p) := by
  have bound : n < 4 := station_lt (by rw [ready]; nofun)
  unfold missOutcome
  dsimp only
  split
  case h_1 => exact (if_neg (Nat.not_lt.mpr h)).trans (congrArg (raise c _) (onStation_put bound _ _ p))
  case h_2 other => cases ready.symm.trans other
  case h_3 other => cases ready.symm.trans other

theorem missOutcome_faulted {n : Nat} {p : Part} (faulted : (p.station n).state = .faulted) (c : Clock) :
    missOutcome c n p = putStation n { p.station n with calls := 0, callRaised := false } p := by
  unfold missOutcome
  dsimp only
  split
  case h_1 other => cases faulted.symm.trans other
  case h_2 => rfl
  case h_3 other => cases faulted.symm.trans other

/-! ## Exchanges -/

theorem exchangeWith_live {p : Part} {n : Nat} {carried : Bool} (h : p.desk.asking = some ⟨n, carried, false⟩)
    (f : Exchange → Part → Part) : exchangeWith n f p = nextExchange (f ⟨n, carried, false⟩ p) := exchangeWith_open f h

theorem exchangeWith_void {p : Part} {n : Nat} {carried : Bool} (h : p.desk.asking = some ⟨n, carried, true⟩)
    (f : Exchange → Part → Part) : exchangeWith n f p = nextExchange p := exchangeWith_open f h

theorem nextExchange_cons {p : Part} {n : Nat} {rest : List Nat} (h : p.desk.toPoll = n :: rest) :
    nextExchange p = sendPoll n rest p := by
  unfold nextExchange
  rw [h]

theorem nextExchange_nil {p : Part} (h : p.desk.toPoll = []) : nextExchange p = { p with desk.asking := none } := by
  unfold nextExchange
  rw [h]

theorem execStationPollMiss_open {s : State} {x : Exchange} (h : s.part.desk.asking = some x) :
    exec .stationPollMiss s
      = .next (left s (exchangeWith x.station (fun _ q => missOutcome s.clock x.station q) (met s []))) := by
  have run : exec .stationPollMiss s = .next (left s (match (met s []).desk.asking with
    | none => met s []
    | some x => exchangeWith x.station (fun _ q => missOutcome s.clock x.station q) (met s []))) := rfl
  rw [run, show (met s []).desk.asking = some x from h]

theorem execStationPollMiss_none {s : State} (h : s.part.desk.asking = none) : exec .stationPollMiss s = .next (left s (met s [])) := by
  have run : exec .stationPollMiss s = .next (left s (match (met s []).desk.asking with
    | none => met s []
    | some x => exchangeWith x.station (fun _ q => missOutcome s.clock x.station q) (met s []))) := rfl
  rw [run, show (met s []).desk.asking = none from h]

/-! ## ENTRY answers -/

theorem entryReadable_iff (tag : Nat) (number : Text) (reason : Nat) :
    entryReadable tag number reason = true ↔ tag ≤ 255 ∧ allDigits number = true ∧ number.length ≤ 9 ∧ reason ≤ 7 := by
  simp [entryReadable, and_assoc]

theorem execStationEntry_readable {s : State} {n tag reason : Nat} {kind : EntryKind} {number : Text}
    (h : entryReadable tag number reason = true) : exec (.stationEntry n tag kind number reason) s
      = .next (left s (exchangeWith n (fun x q => entryAnswer n tag ⟨n, tag, kind, number, reason, s.clock.stamp⟩
          (noCall n (goodAnswer s.clock n x q))) (met s []))) := next_left (if_pos h)

theorem execStationEntry_unreadable {s : State} {n tag reason : Nat} {kind : EntryKind} {number : Text}
    (h : ¬ entryReadable tag number reason = true) :
    exec (.stationEntry n tag kind number reason) s = .next (left s (met s [])) := next_left (if_neg h)

theorem entryAnswer_again {n tag : Nat} {p : Part} (h : (p.station n).lastTag = some tag) (e : QueueEntry) :
    entryAnswer n tag e p = onStation n (fun s => { s with ack := some tag }) p := if_pos h

theorem entryAnswer_held {n tag : Nat} {p : Part} (fresh : (p.station n).lastTag ≠ some tag)
    (h : p.hl.activity = .dormant ∨ 32 ≤ p.desk.queue.length ∨ 8 ≤ p.stationLoad n) (e : QueueEntry) : entryAnswer n tag e p = p := by
  unfold entryAnswer
  rw [if_neg fresh]
  by_cases asleep : p.hl.activity = .dormant
  · exact if_pos asleep
  · exact (if_neg asleep).trans (if_pos (h.resolve_left asleep))

theorem entryAnswer_taken {n tag : Nat} {p : Part} (fresh : (p.station n).lastTag ≠ some tag) (awake : p.hl.activity ≠ .dormant)
    (room : p.desk.queue.length < 32) (share : p.stationLoad n < 8) (e : QueueEntry) :
    entryAnswer n tag e p = takeEntry n tag e p := by
  have free : ¬ (32 ≤ p.desk.queue.length ∨ 8 ≤ p.stationLoad n) := by omega
  exact (if_neg fresh).trans ((if_neg awake).trans (if_neg free))

/-! ## The queue -/

theorem processHead_empty {p : Part} (h : p.desk.queue = []) (c : Clock) : processHead c p = p := by
  unfold processHead
  rw [h]

theorem processHead_entry {p : Part} {e : QueueEntry} {rest : List QueueEntry} (h : p.desk.queue = e :: rest) (c : Clock) :
    processHead c p = giveSlip e.station (slipOf c { p with desk.queue := rest } e (processEntry c e { p with desk.queue := rest }).2)
      (processEntry c e { p with desk.queue := rest }).1 := by
  unfold processHead
  rw [h]

theorem processEntry_closed {p : Part} {e : QueueEntry} (h : p.openDay = none ∨ e.taken = none) (c : Clock) :
    processEntry c e p = (p, .closed) := by
  unfold processEntry
  split
  case h_1 r t x day _ taken =>
    rcases h with none' | none'
    · rw [none'] at day; cases day
    · rw [none'] at taken; cases taken
  case h_2 => rfl

/-- An entry on an OPEN day goes by its date and the alert (R105). -/
theorem processEntry_open {p : Part} {e : QueueEntry} {r : DayRecord} {t : Today} {x : Stamp} (day : p.openDay = some r)
    (today : p.bells.today = some t) (taken : e.taken = some x) (c : Clock) : processEntry c e p
      = if x.date = r.date then
          if p.alertState = some .evacuate then (p, .evacuation) else processKnown c e t r.date x.second p
        else (p, .closed) := by
  unfold processEntry
  rw [day, today, taken]

theorem processKnown_unknown {p : Part} {e : QueueEntry} (h : p.work.pupilOffered e.number = none) (c : Clock) (t : Today) (d : Date)
    (k : Nat) : processKnown c e t d k p = (raise c (.unknownPupil e.station e.number e.kind k) p, .unknown) := by
  unfold processKnown
  rw [h]

theorem processKnown_known {p : Part} {e : QueueEntry} {n : Nat} {y : Slot} (h : p.work.pupilOffered e.number = some (n, y)) (c : Clock)
    (t : Today) (d : Date) (k : Nat) :
    processKnown c e t d k p = processPupil c e ⟨k, n, y, t, p.work.gateway.band, e.reason⟩ d p := by
  unfold processKnown
  rw [h]

end Sys2Proof.Machine

open Sys2Proof.Machine

/-- Settles O38: the cycle begins when it is ready; each outcome by the record of the station that is asked. -/
theorem pollCycleAndStationOutcomes : Obligations.PollCycleAndStationOutcomes := by
  refine ⟨fun s => ?_, fun s n carried asking present => ?_, fun s n carried asking => ?_, fun s none' n => ?_⟩
  · intro ready nextAt
    have ready_iff : ((met s []).desk.cycleNext ≤ s.clock.crystal ∧ (met s []).desk.toPoll.isEmpty = true
        ∧ (met s []).desk.asking.isNone = true) ↔ ready :=
      and_congr_right fun _ => and_congr List.isEmpty_iff Option.isNone_iff_eq_none
    refine ⟨fun n rest set stations => ?_, fun set none' => ?_, fun unset => next_left (if_neg fun h => unset (ready_iff.mp h))⟩
    · intro st
      refine next_left ((if_pos (ready_iff.mpr set)).trans ?_)
      exact nextExchange_cons stations
    · refine next_left ((if_pos (ready_iff.mpr set)).trans ?_)
      refine (nextExchange_nil none').trans ?_
      rw [show (begin [] s.part).work.stations = [] from none']
      rfl
  · have bound : n < 4 := station_lt present
    have live := fun f => exchangeWith_live (p := met s []) asking f
    intro c st put okIf back heard' settled good next calls counted
    refine ⟨next_left ((live _).trans (congrArg nextExchange (idleAnswer_eq bound _ _ _))), fun few => ?_, fun many => ?_,
      fun f => ?_, fun ready few => ?_, fun ready twelve => ?_, fun faulted => ?_, fun k other => ?_⟩
    · have call := callAnswer_eq bound c st settled (met s [])
      have short : ¬ ((if (met s []).hl.activity = .dormant then 4 else 8) ≤ calls ∧ (!st.callRaised) = true) := by
        rintro ⟨reached, fresh⟩
        have all : counted = true := by
          rw [Bool.and_eq_true]
          exact ⟨decide_eq_true reached, fresh⟩
        rw [few] at all
        cases all
      refine next_left ((live _).trans (congrArg nextExchange ?_))
      rw [goodAnswer_eq bound]
      exact call.trans (if_neg short)
    · have call := callAnswer_eq bound c st settled (met s [])
      obtain ⟨reached, fresh⟩ := Bool.and_eq_true_iff.mp many
      refine next_left ((live _).trans (congrArg nextExchange ?_))
      rw [goodAnswer_eq bound]
      exact call.trans (if_pos ⟨of_decide_eq_true reached, fresh⟩)
    · exact next_left ((live _).trans (congrArg nextExchange (faultAnswer_eq bound c f (met s []))))
    · rw [execStationPollMiss_open asking]
      exact next_left ((live _).trans (congrArg nextExchange (missOutcome_ready (p := met s []) ready few c)))
    · rw [execStationPollMiss_open asking]
      exact next_left ((live _).trans (congrArg nextExchange (missOutcome_twelfth (p := met s []) ready twelve c)))
    · rw [execStationPollMiss_open asking]
      exact next_left ((live _).trans (congrArg nextExchange (missOutcome_faulted (p := met s []) faulted c)))
    · have away := fun f => exchangeWith_other (p := met s []) k f asking (Ne.symm other)
      exact ⟨next_left (away _), next_left (away _), fun f => next_left (away _)⟩
  · intro t
    have void := fun f => exchangeWith_void (p := met s []) asking f
    refine ⟨next_left (void _), next_left (void _), ?_, fun f => next_left (void _), fun tag kind number reason low digits short few => ?_⟩
    · rw [execStationPollMiss_open asking]
      exact next_left (void _)
    · rw [execStationEntry_readable ((entryReadable_iff ..).mpr ⟨low, digits, short, few⟩)]
      exact next_left (void _)
  · have idle := fun f => exchangeWith_none (p := met s []) n f none'
    exact ⟨next_left (idle _), next_left (idle _), execStationPollMiss_none none'⟩

/-- Settles O39: a readable answer by its tag, the activity, and the room in the queue. -/
theorem entryAnswerIsTakenHeldOrRepeated : Obligations.EntryAnswerIsTakenHeldOrRepeated := by
  intro s n carried tag kind number reason asking present
  have bound : n < 4 := station_lt present
  intro c st slips settled put okIf good next readable share answer
  have readable_iff : entryReadable tag number reason = true ↔ readable := entryReadable_iff ..
  let e : QueueEntry := ⟨n, tag, kind, number, reason, c.stamp⟩
  have run : readable → exec answer s = .next (next (entryAnswer n tag e (goodWith c n st settled (met s [])))) := by
    intro fine
    refine (execStationEntry_readable (readable_iff.mpr fine)).trans (next_left ?_)
    refine (exchangeWith_live (p := met s []) asking _).trans (congrArg nextExchange ?_)
    exact congrArg (entryAnswer n tag e) (idleAnswer_eq bound c _ (met s []))
  have record : (goodWith c n st settled (met s [])).station n = settled := station_goodWith bound ..
  have tag' : ((goodWith c n st settled (met s [])).station n).lastTag = st.lastTag := by rw [record]
  have queue : (goodWith c n st settled (met s [])).desk.queue = s.part.desk.queue := goodWith_queue ..
  have activity : (goodWith c n st settled (met s [])).hl.activity = s.part.hl.activity := goodWith_activity ..
  have load : (goodWith c n st settled (met s [])).stationLoad n = share := by
    unfold Part.stationLoad
    rw [queue, record]
  refine ⟨fun bad => execStationEntry_unreadable fun h => bad (readable_iff.mp h), fun fine same => ?_, fun fine fresh held => ?_,
    fun fine fresh awake room light => ?_⟩
  · refine (run fine).trans (congrArg (fun p => Host.Outcome.next (next p)) ?_)
    exact (entryAnswer_again (tag'.trans same) e).trans (onStation_goodWith bound _ c st settled (met s []))
  · refine (run fine).trans (congrArg (fun p => Host.Outcome.next (next p)) ?_)
    refine entryAnswer_held (by rw [tag']; exact fresh) ?_ e
    rw [activity, queue, load]
    exact held
  · intro p
    refine (run fine).trans (congrArg (fun p => Host.Outcome.next (next p)) ?_)
    have taken := entryAnswer_taken (p := goodWith c n st settled (met s [])) (tag := tag) (by rw [tag']; exact fresh)
      (by rw [activity]; exact awake) (by rw [queue]; exact room) (by rw [load]; exact light) e
    refine taken.trans ?_
    have eq : p = onStation n (fun s => { s with lastTag := some tag, ack := some tag }) (goodWith c n st settled (met s [])) :=
      (onStation_goodWith bound (fun s => { s with lastTag := some tag, ack := some tag }) c st settled (met s [])).symm
    rw [eq]
    unfold takeEntry
    rw [queue]
    rfl

/-- Settles O40: the head of the queue by the first case that applies. -/
theorem queueHeadIsProcessedByCase : Obligations.QueueHeadIsProcessedByCase := by
  intro s ws
  refine ⟨fun none' => next_left (processHead_empty (p := met s ws) none' s.clock), fun e rest queue => ?_⟩
  intro c p give go
  have run : ∀ {q : Part} {k : SlipKind}, processEntry c e p = (q, k) → go = .next (give q k) := by
    intro q k case'
    have head := processHead_entry (p := met s ws) queue c
    rw [show processEntry c e { met s ws with desk.queue := rest } = (q, k) from case'] at head
    exact next_left head
  refine ⟨fun closed => run (processEntry_closed (p := p) closed c), fun r t x day today taken => ?_⟩
  have decided := processEntry_open (p := p) day today taken c
  refine ⟨fun other => run (decided.trans (if_neg other)), fun same evacuate => run (decided.trans ((if_pos same).trans (if_pos evacuate))),
    fun same calm => ?_⟩
  have known := decided.trans ((if_pos same).trans (if_neg calm))
  refine ⟨fun none' => run (known.trans (processKnown_unknown (p := p) none' c t r.date x.second)), fun n y pupil => ?_⟩
  intro a
  have pupil' : processEntry c e p = processPupil c e a r.date p := known.trans (processKnown_known (p := p) pupil c t r.date x.second)
  have here : p.presence a.slot = s.part.presence n := rfl
  unfold processPupil at pupil'
  rw [here] at pupil'
  refine ⟨fun kind presence => run ?_, fun kind presence => run ?_, fun kind presence => ?_, fun kind presence => run ?_,
    fun kind presence none' => run ?_, fun kind presence some' => run ?_⟩
  · rw [pupil', kind, presence]
    rfl
  · rw [pupil', kind]
    cases held : s.part.presence n with
    | onSite => exact absurd held presence
    | notArrived => rfl
    | signedOut => rfl
  · intro z q
    refine run ?_
    rw [pupil', kind, presence]
    rfl
  · rw [pupil', kind, presence]
    rfl
  · rw [pupil', kind, presence]
    have quiet : a.reason = 0 := none'
    dsimp only [signOut]
    rw [if_pos quiet, quiet]
  · rw [pupil', kind, presence]
    dsimp only [signOut]
    rw [if_neg (show a.reason ≠ 0 from some')]

end

section
/-!
Lateness: the class of an arrival, and the tardy score with its level (R117 to R121, R127 to R131).
-/

-- One declaration after another: the text is compiled as one, and a declaration that waits for others holds a thread.
set_option Elab.async false

namespace Sys2Proof.Machine

/-! ## The class of an arrival -/

theorem Arrival.choose_pm {a : Arrival} {q : Chosen} (h : a.candidate .pm = some q) :
    a.choose = if q.start ≤ a.time then some q else a.candidate .am := by
  unfold Arrival.choose
  rw [h]

theorem Arrival.choose_am {a : Arrival} (h : a.candidate .pm = none) : a.choose = a.candidate .am := by
  unfold Arrival.choose
  rw [h]

theorem Arrival.measure_onTime {a : Arrival} {q : Chosen} (h : a.time ≤ q.start + a.today.plan.grace) :
    a.measure (some q) = ⟨.onTime, some q.reg, none, none, false, false⟩ := if_pos h

theorem Arrival.measure_late {a : Arrival} {q : Chosen} (h : q.start + a.today.plan.grace < a.time) : a.measure (some q)
    = ⟨.late, some q.reg, some (minutesLate a.time q.start), some (bandOf a.time q.start a.today.plan.close a.bandLimit), false, false⟩ :=
  if_neg (Nat.not_le.mpr h)

/-! ## The day lateness and the score -/

/-- The sum of what some elements count is the sum over those elements. -/
theorem sum_map_ite {α : Type} (f : α → Bool) (g : α → Nat) (l : List α) :
    (l.map (fun a => if f a then g a else 0)).sum = ((l.filter f).map g).sum := by
  induction l with
  | nil => rfl
  | cons a l ih => cases h : f a <;> simp [h, ih]

theorem SlotDay.lateness_eq (d : SlotDay) : d.lateness
    = min ((d.marks.filter (fun m => m.period.reg.isSome && m.value == .late)).map (fun m => m.minutes.getD 0)).sum 240 := by
  have late : Mark.lateMinutes = fun m => if (m.period.reg.isSome && m.value == .late) then m.minutes.getD 0 else 0 := by
    funext m
    simp only [Mark.lateMinutes, Bool.and_eq_true, beq_iff_eq]
  unfold SlotDay.lateness
  rw [late, sum_map_ite]
  rfl

theorem decay_le {d q : Nat} (h : d ≤ 255) : q * d / 256 ≤ q := by
  have product : q * d ≤ q * 256 := Nat.mul_le_mul_left q (by omega)
  omega

/-! ## The level -/

/-- How many of 1 to 3 pass a test that passes below wherever it passes. -/
theorem count_of_downward {f : Nat → Bool} (two : f 3 = true → f 2 = true) (one : f 2 = true → f 1 = true) :
    ([1, 2, 3].filter f).length ≤ 3 ∧ ∀ i, 1 ≤ i → i ≤ 3 → (i ≤ ([1, 2, 3].filter f).length ↔ f i = true) := by
  refine ⟨List.length_filter_le _ _, fun i low high => ?_⟩
  obtain rfl | rfl | rfl : i = 1 ∨ i = 2 ∨ i = 3 := by omega
  all_goals cases h1 : f 1 <;> cases h2 : f 2 <;> cases h3 : f 3 <;> simp_all

/-- The level reached upward: the number of thresholds met (R129). -/
theorem Policy.met_spec {pol : Policy} (less : pol.t1 < pol.t2) (less' : pol.t2 < pol.t3) (q : Nat) :
    pol.met q ≤ 3 ∧ ∀ i, 1 ≤ i → i ≤ 3 → (i ≤ pol.met q ↔ pol.threshold i ≤ q) := by
  have count := count_of_downward (f := fun i => decide (pol.threshold i ≤ q))
    (fun h => decide_eq_true (le_trans (show pol.t2 ≤ pol.t3 from less'.le) (of_decide_eq_true h)))
    (fun h => decide_eq_true (le_trans (show pol.t1 ≤ pol.t2 from less.le) (of_decide_eq_true h)))
  simp only [decide_eq_true_eq] at count
  exact count

/-- The levels that the hysteresis holds (R130). -/
theorem Policy.held_spec {pol : Policy} (less : pol.t1 < pol.t2) (less' : pol.t2 < pol.t3) (l q : Nat) :
    pol.held l q ≤ 3 ∧ ∀ i, 1 ≤ i → i ≤ 3 → (i ≤ pol.held l q ↔ i ≤ l ∧ pol.threshold i ≤ q + pol.h) := by
  have count := count_of_downward (f := fun i => decide (i ≤ l) && decide (pol.threshold i ≤ q + pol.h))
    (fun h => by
      obtain ⟨level, threshold⟩ := Bool.and_eq_true_iff.mp h
      exact Bool.and_eq_true_iff.mpr ⟨decide_eq_true (by have := of_decide_eq_true level; omega),
        decide_eq_true (le_trans (show pol.t2 ≤ pol.t3 from less'.le) (of_decide_eq_true threshold))⟩)
    (fun h => by
      obtain ⟨level, threshold⟩ := Bool.and_eq_true_iff.mp h
      exact Bool.and_eq_true_iff.mpr ⟨decide_eq_true (by have := of_decide_eq_true level; omega),
        decide_eq_true (le_trans (show pol.t1 ≤ pol.t2 from less.le) (of_decide_eq_true threshold))⟩)
  simp only [Bool.and_eq_true, decide_eq_true_eq] at count
  exact count

theorem Policy.held_eq (pol : Policy) (l q : Nat) : pol.held l q
    = ([1, 2, 3].filter (fun i => decide (i ≤ l ∧ [pol.t1, pol.t2, pol.t3].getD (i - 1) 0 ≤ q + pol.h))).length := by
  have same : [1, 2, 3].filter (fun i => decide (i ≤ l) && decide (pol.threshold i ≤ q + pol.h))
      = [1, 2, 3].filter (fun i => decide (i ≤ l ∧ [pol.t1, pol.t2, pol.t3].getD (i - 1) 0 ≤ q + pol.h)) := by
    refine List.filter_congr fun i mem => ?_
    rw [Bool.decide_and]
    simp only [List.mem_cons, List.not_mem_nil, or_false] at mem
    rcases mem with rfl | rfl | rfl
    all_goals rfl
  unfold Policy.held
  rw [same]

/-- What the new level satisfies (R129, R130). -/
theorem Policy.level_spec {pol : Policy} (less : pol.t1 < pol.t2) (less' : pol.t2 < pol.t3) (l q : Nat) :
    (pol.met q < l → pol.met q ≤ pol.level l q ∧ pol.level l q ≤ l) ∧ pol.level l q ≤ 3 ∧
    (∀ i, 1 ≤ i → i ≤ 3 → i ≤ l → pol.threshold i ≤ q + pol.h → i ≤ pol.level l q) ∧
    (∀ i, 1 ≤ i → i ≤ pol.level l q → pol.threshold i ≤ q + pol.h) ∧
    (pol.level l q < 3 → q < pol.threshold (pol.level l q + 1)) := by
  obtain ⟨metMost, met⟩ := Policy.met_spec less less' q
  obtain ⟨heldMost, held⟩ := Policy.held_spec less less' l q
  have heldLe : pol.held l q ≤ l := by
    by_cases zero : pol.held l q = 0
    · omega
    · exact ((held (pol.held l q) (by omega) heldMost).mp le_rfl).1
  have level : pol.level l q = if l ≤ pol.met q then pol.met q else max (pol.met q) (pol.held l q) := rfl
  refine ⟨fun above => ?_, ?_, fun i low high within kept => ?_, fun i low within => ?_, fun below => ?_⟩
  · rw [level, if_neg (by omega)]
    omega
  · rw [level]
    split <;> omega
  · have kept' := (held i low high).mpr ⟨within, kept⟩
    rw [level]
    split <;> omega
  · have high : i ≤ 3 := by
      rw [level] at within
      split at within <;> omega
    have either : i ≤ pol.met q ∨ i ≤ pol.held l q := by
      rw [level] at within
      split at within <;> omega
    rcases either with reached | kept
    · exact le_trans ((met i low high).mp reached) (Nat.le_add_right _ _)
    · exact ((held i low high).mp kept).2
  · have beyond : pol.met q < pol.level l q + 1 := by
      rw [level]
      split <;> omega
    by_contra reached
    have := (met (pol.level l q + 1) (by omega) (by omega)).mpr (by omega)
    omega

/-! ## The score update at day close -/

theorem scoreSlot_eq (c : Clock) (n : Nat) (x : Slot) (d : SlotDay) (p : Part) :
    let q := newScore p.work.policy.d x.score d.lateness
    let l := p.work.policy.level x.level q
    let r := p.setSlot n { x with score := q, level := l }
    scoreSlot c n x d p = if x.level < l then (createOrReport c (escalationRequest r n x l) r).1
      else if l < x.level then raise c (.levelDown n x.number x.level l q) r else r := rfl

theorem scoreSlot_policy (c : Clock) (n : Nat) (x : Slot) (d : SlotDay) (p : Part) :
    (scoreSlot c n x d p).work.policy = p.work.policy := by
  rw [scoreSlot_work]
  rfl

/-- The slots after the score update of one (R131). -/
theorem scoreSlot_slot? (c : Clock) (n k : Nat) (x : Slot) (d : SlotDay) (p : Part) : (scoreSlot c n x d p).slot? k
    = if k = n then some { x with score := newScore p.work.policy.d x.score d.lateness
                                  level := p.work.policy.level x.level (newScore p.work.policy.d x.score d.lateness) }
      else p.slot? k := by
  unfold Part.slot?
  rw [scoreSlot_work, setSlot_slots]
  by_cases same : k = n
  · rw [if_pos same, same, Table.get?_put]
  · rw [if_neg same, Table.get?_put_ne _ _ _ _ same]

/-- The score update of one slot of a list, when it is ENROLLED (R71). -/
def scoreStep (c : Clock) (day : Nat → SlotDay) (q : Part) (e : Nat × Slot) : Part :=
  if e.2.state = .enrolled then scoreSlot c e.1 e.2 (day e.1) q else q

theorem scoreStep_policy (c : Clock) (day : Nat → SlotDay) (q : Part) (e : Nat × Slot) :
    (scoreStep c day q e).work.policy = q.work.policy := by
  unfold scoreStep
  split
  case isTrue => exact scoreSlot_policy ..
  case isFalse => rfl

theorem scoreStep_other {e : Nat × Slot} {n : Nat} (h : e.1 ≠ n ∨ e.2.state ≠ .enrolled) (c : Clock) (day : Nat → SlotDay) (q : Part) :
    (scoreStep c day q e).slot? n = q.slot? n := by
  unfold scoreStep
  split
  case isTrue enrolled =>
    rw [scoreSlot_slot?, if_neg]
    exact fun same => h.elim (fun other => other same.symm) (fun other => other enrolled)
  case isFalse => rfl

/-- Score updates of other slots, and of slots that are not ENROLLED, leave a slot. -/
theorem foldl_scoreStep_other {l : List (Nat × Slot)} {n : Nat} (h : ∀ e ∈ l, e.1 ≠ n ∨ e.2.state ≠ .enrolled) (c : Clock)
    (day : Nat → SlotDay) (q : Part) : (l.foldl (scoreStep c day) q).slot? n = q.slot? n := by
  induction l generalizing q with
  | nil => rfl
  | cons e l ih =>
    rw [List.foldl_cons, ih (fun e mem => h e (List.mem_cons_of_mem _ mem)), scoreStep_other (h e List.mem_cons_self)]

/-- The score update of an ENROLLED slot among those of others. -/
theorem foldl_scoreStep_mine {l : List (Nat × Slot)} {n : Nat} {x : Slot} (mem : (n, x) ∈ l) (once : (l.map (·.1)).Nodup)
    (enrolled : x.state = .enrolled) (c : Clock) (day : Nat → SlotDay) (q : Part) : (l.foldl (scoreStep c day) q).slot? n
      = some { x with score := newScore q.work.policy.d x.score (day n).lateness
                      level := q.work.policy.level x.level (newScore q.work.policy.d x.score (day n).lateness) } := by
  induction l generalizing q with
  | nil => cases mem
  | cons e l ih =>
    rw [List.map_cons, List.nodup_cons] at once
    obtain ⟨fresh, once⟩ := once
    rw [List.foldl_cons]
    rcases List.mem_cons.mp mem with rfl | mem
    · have others : ∀ e ∈ l, e.1 ≠ n ∨ e.2.state ≠ .enrolled :=
        fun e mem => .inl fun same => fresh (List.mem_map.mpr ⟨e, mem, same⟩)
      rw [foldl_scoreStep_other others]
      have step : scoreStep c day q (n, x) = scoreSlot c n x (day n) q := if_pos enrolled
      rw [step, scoreSlot_slot?, if_pos rfl]
    · rw [ih mem once, scoreStep_policy]

theorem Table.mem_of_get? {α : Type} {t : Table α} {n : Nat} {a : α} (h : Table.get? t n = some a) : (n, a) ∈ t := by
  induction t with
  | nil => cases h
  | cons e t ih =>
    obtain ⟨j, b⟩ := e
    unfold Table.get? at h
    split at h
    case isTrue same =>
      cases h
      rw [same]
      exact List.mem_cons_self
    case isFalse => exact List.mem_cons_of_mem _ (ih h)

theorem Table.keys_nodup {α : Type} {t : Table α} (h : Table.wf t = true) : (t.map (·.1)).Nodup := by
  rw [List.nodup_iff_pairwise_ne, List.pairwise_map]
  exact ((Table.wf_iff t).mp h).imp fun less => Nat.ne_of_lt less

/-- A slot without records has no lateness. -/
theorem dayOf_lateness (p : Part) (n : Nat) :
    (p.dayOf n).lateness = ((p.reg.register.bind (fun g => Table.get? g.slots n)).map SlotDay.lateness).getD 0 := by
  have day : p.dayOf n = (p.reg.register.bind (fun g => Table.get? g.slots n)).getD SlotDay.fresh := rfl
  rw [day]
  cases p.reg.register.bind (fun g => Table.get? g.slots n) <;> rfl

end Sys2Proof.Machine

open Sys2Proof.Machine

/-- Settles O41: the choice by the PM start, the measure by the grace, the allowance by the minutes. -/
theorem arrivalIsClassedAgainstItsPeriod : Obligations.ArrivalIsClassedAgainstItsPeriod := by
  intro a
  refine ⟨fun q pm begun => (Arrival.choose_pm pm).trans (if_pos begun),
    fun q pm before => (Arrival.choose_pm pm).trans (if_neg (Nat.not_le.mpr before)), Arrival.choose_am, rfl,
    fun q within => Arrival.measure_onTime within, fun q past => ?_⟩
  intro m band late
  refine ⟨?_, Arrival.measure_late past, rfl, fun n covered => if_pos covered, fun n short => if_neg (Nat.not_le.mpr short)⟩
  show 1 ≤ min ((a.time - q.start + 59) / 60) 240
  omega

/-- Settles O43: the score and the level in numbers, then the update of one slot and of all. -/
theorem scoreAndLevelFollowTheDay : Obligations.ScoreAndLevelFollowTheDay := by
  refine ⟨fun d q lateness => ⟨rfl, min_le_right _ _, fun low _ => decay_le low⟩, SlotDay.lateness_eq,
    fun pol l q less less' => ?_, fun c n x d p => ?_, fun c p n x wf held => ?_⟩
  · intro up next kept
    have upEq : pol.met q = up := Policy.met_eq pol q
    have keptEq : pol.held l q = kept := Policy.held_eq pol l q
    have level : next = if l ≤ up then up else max up kept := by
      rw [← upEq, ← keptEq]
      rfl
    have spec := Policy.level_spec less less' l q
    rw [upEq] at spec
    exact ⟨fun rise => level.trans (if_pos rise), fun fall => level.trans (if_neg (Nat.not_le.mpr fall)), spec⟩
  · intro pol q l r
    have eq := scoreSlot_eq c n x d p
    refine ⟨fun rise => eq.trans (if_pos rise), fun fall => eq.trans ((if_neg (Nat.lt_asymm fall)).trans (if_pos fall)),
      fun same => eq.trans ((if_neg ?_).trans (if_neg ?_))⟩
    · exact fun rise => absurd same (Nat.ne_of_gt rise)
    · exact fun fall => absurd same (Nat.ne_of_lt fall)
  · intro day q
    have all : scoreAll c p = p.work.slots.foldl (scoreStep c p.dayOf) p := rfl
    have mem : (n, x) ∈ p.work.slots := Table.mem_of_get? held
    have once := Table.keys_nodup wf
    refine ⟨fun enrolled => ?_, fun gone => ?_⟩
    · have mine := foldl_scoreStep_mine mem once enrolled c p.dayOf p
      rw [dayOf_lateness] at mine
      rw [all, mine]
    · have others : ∀ e ∈ p.work.slots, e.1 ≠ n ∨ e.2.state ≠ .enrolled := by
        intro e mem'
        by_cases same : e.1 = n
        · have eq : e = (n, x) := List.inj_on_of_nodup_map once mem' mem same
          rw [eq]
          exact .inr gone
        · exact .inl same
      rw [all, foldl_scoreStep_other others]
      exact held

end

section
/-!
The Absence Sweep: SWEEP NOW and the step at the cursor (R136, R139 to R142).
-/

-- One declaration after another: the text is compiled as one, and a declaration that waits for others holds a thread.
set_option Elab.async false

namespace Sys2Proof.Machine

/-! ## SWEEP NOW -/

theorem regNumber_eq_none_iff (l : List MarkedPeriod) (x : Reg) : regNumber l x = none ↔ ∀ m ∈ l, m.reg ≠ some x := by
  unfold regNumber
  simp [List.find?_eq_none]

/-- r names no REGISTRATION period of the plan of the day (R136, log 46). -/
theorem lacksReg_iff (p : Part) (x : Reg) : p.lacksReg x = true ↔
    (∃ t, p.bells.today = some t ∧ ∀ m ∈ t.plan.marked, m.reg ≠ some x)
      ∨ (p.bells.today = none ∧ ∃ r n, p.day = some r ∧ r.plan = some n ∧ ∀ m ∈ (p.work.plan n).marked, m.reg ≠ some x) := by
  unfold Part.lacksReg Part.planOfDay
  cases p.bells.today with
  | some t => simp [regNumber_eq_none_iff]
  | none =>
    cases p.day with
    | none => simp
    | some r =>
      obtain ⟨date, kind, plan, phase, done⟩ := r
      cases plan <;> simp [regNumber_eq_none_iff]

theorem sweepNow_lacking {p : Part} {x : Reg} (h : p.lacksReg x = true) (c : Clock) :
    sweepNowRequest c (some x) p = refuse .range p := if_pos h

theorem sweepNow_closed {p : Part} {x : Reg} (h : ¬ p.lacksReg x = true) (closed : p.openDay = none) (c : Clock) :
    sweepNowRequest c (some x) p = refuse .state p :=
  (if_neg h).trans (if_pos (by rw [isOpen_false closed]; rfl))

theorem sweepNow_open {p : Part} {x : Reg} (h : ¬ p.lacksReg x = true) (opened : p.openDay ≠ none) (c : Clock) :
    sweepNowRequest c (some x) p = match p.sweeps.get? x with
      | none => refuse .range p
      | some s =>
        if s.state = .waiting then
          (onSweep x (Sweep.start c p.held) p, ok [.word (if p.held then "SUSPENDED" else "RUNNING")])
        else refuse .state p :=
  (if_neg h).trans (if_neg (by rw [(isOpen_iff p).mpr opened]; decide))

/-- A record that no plan of the day has is refused, whatever the plan (R136). -/
theorem sweepNow_noRecord {p : Part} {x : Reg} (opened : p.openDay ≠ none) (none' : p.sweeps.get? x = none) (c : Clock) :
    sweepNowRequest c (some x) p = refuse .range p := by
  by_cases h : p.lacksReg x = true
  · exact sweepNow_lacking h c
  · rw [sweepNow_open h opened, none']

theorem sweepNow_record {p : Part} {x : Reg} {w : Sweep} (h : ¬ p.lacksReg x = true) (opened : p.openDay ≠ none)
    (record : p.sweeps.get? x = some w) (c : Clock) : sweepNowRequest c (some x) p
      = if w.state = .waiting then (onSweep x (Sweep.start c p.held) p, ok [.word (if p.held then "SUSPENDED" else "RUNNING")])
        else refuse .state p := by
  rw [sweepNow_open h opened, record]

/-! ## The step -/

theorem sweepOnce_idle {p : Part} {x : Reg} (h : p.openDay = none ∨ ∀ w, p.sweeps.get? x = some w → w.state ≠ .running) (c : Clock) :
    sweepOnce c x p = p := by
  unfold sweepOnce
  split
  case h_1 r w day record =>
    rcases h with closed | other
    · rw [closed] at day; cases day
    · exact if_neg (other w record)
  case h_2 => rfl

theorem sweepOnce_running {p : Part} {x : Reg} {r : DayRecord} {w : Sweep} (day : p.openDay = some r)
    (record : p.sweeps.get? x = some w) (running : w.state = .running) (c : Clock) :
    sweepOnce c x p = sweepTake c x w.cursor r.date p := by
  unfold sweepOnce
  rw [day, record]
  exact if_pos running

/-- A slot that is not ENROLLED, or whose record is not UNSET, is passed over (R139). -/
theorem sweepTake_passed {p : Part} {n : Nat} {x : Reg}
    (h : p.enrolled? n = none ∨ ∀ m, p.regMark? n x = some m → m.value ≠ .unset) (c : Clock) (d : Date) :
    sweepTake c x n d p = advanceCursor c x p := by
  unfold sweepTake
  split
  case h_1 y m enrolled mark =>
    rcases h with none' | set
    · rw [none'] at enrolled; cases enrolled
    · exact if_neg (set m mark)
  case h_2 => rfl

theorem sweepTake_unset {p : Part} {n : Nat} {x : Reg} {y : Slot} {m : Mark} (enrolled : p.enrolled? n = some y)
    (mark : p.regMark? n x = some m) (unset : m.value = .unset) (c : Clock) (d : Date) :
    sweepTake c x n d p = sweepUnset c x n y m.period.number d p := by
  unfold sweepTake
  rw [enrolled, mark]
  exact if_pos unset

theorem sweepUnset_excused {p : Part} {n : Nat} {d : Date} (h : p.work.activeExcuse n .absenceDay d ≠ none) (c : Clock) (x : Reg)
    (y : Slot) (k : Nat) : sweepUnset c x n y k d p = advanceCursor c x (sweepExcused c x n k d p) :=
  if_pos (Option.isSome_iff_ne_none.mpr h)

theorem sweepUnset_onSite {p : Part} {n : Nat} {d : Date} (h : p.work.activeExcuse n .absenceDay d = none)
    (here : p.presence n ≠ .notArrived) (c : Clock) (x : Reg) (y : Slot) (k : Nat) :
    sweepUnset c x n y k d p = advanceCursor c x (sweepOnSite c x n k y.number (p.presence n) p) := by
  have unexcused : ¬ (p.work.activeExcuse n .absenceDay d).isSome = true := by
    rw [h]
    decide
  exact (if_neg unexcused).trans (if_neg here)

theorem sweepUnset_away {p : Part} {n : Nat} {d : Date} (h : p.work.activeExcuse n .absenceDay d = none)
    (away : p.presence n = .notArrived) (c : Clock) (x : Reg) (y : Slot) (k : Nat) : sweepUnset c x n y k d p
      = if (create c (absenceRequest p n y x) p).2 = .refused then
          onSweep x (fun s => { s with state := .blocked }) (create c (absenceRequest p n y x) p).1
        else advanceCursor c x (sweepNotified c x n k (create c (absenceRequest p n y x) p).1) := by
  have unexcused : ¬ (p.work.activeExcuse n .absenceDay d).isSome = true := by
    rw [h]
    decide
  refine (if_neg unexcused).trans ((if_pos away).trans ?_)
  rcases create c (absenceRequest p n y x) p with ⟨q, _ | _ | _⟩ <;> rfl

/-! ## The cursor -/

/-- The record of r after a change of it. -/
theorem onSweep_get? {p : Part} {x : Reg} {w : Sweep} (h : p.sweeps.get? x = some w) (f : Sweep → Sweep) :
    (onSweep x f p).sweeps.get? x = some (f w) := by
  unfold onSweep
  rw [h]
  cases x <;> rfl

theorem advanceCursor_some {p : Part} {x : Reg} {w : Sweep} (h : p.sweeps.get? x = some w) (c : Clock) : advanceCursor c x p
    = if w.cursor + 1 = 3072 then completeSweep c x (onSweep x (fun s => { s with cursor := s.cursor + 1 }) p)
      else onSweep x (fun s => { s with cursor := s.cursor + 1 }) p := by
  unfold advanceCursor
  rw [h]
  rfl

theorem completeSweep_some {p : Part} {x : Reg} {w : Sweep} (h : p.sweeps.get? x = some w) (c : Clock) : completeSweep c x p
    = raise c (.sweepDone x w.notified w.onSite w.excused w.startedAt c.second?)
        (onSweep x (fun s => { s with state := .done, doneAt := c.second? }) p) := by
  unfold completeSweep
  rw [h]

end Sys2Proof.Machine

open Sys2Proof.Machine

/-- Settles O44: SWEEP NOW by the plan, the day and the record; the step by the slot at the cursor, its excuse and its presence. -/
theorem sweepStartsAndSteps : Obligations.SweepStartsAndSteps := by
  refine ⟨fun s sfx listening => ?_, fun s ws x => ?_, fun c x p w record => ?_⟩
  · intro lacks lacking
    have lacking_iff : ∀ x, (heard s []).lacksReg x = true ↔ lacking x := lacksReg_iff (heard s [])
    refine ⟨request_refuses (ws' := []) listening rfl,
      fun x lack => request_refuses listening (sweepNow_lacking (p := heard s []) ((lacking_iff x).mpr lack) _),
      fun x has closed => request_refuses listening (sweepNow_closed (p := heard s []) (fun h => has ((lacking_iff x).mp h)) closed _),
      fun x opened none' => request_refuses listening (sweepNow_noRecord (p := heard s []) opened none' _),
      fun x w has opened record => ?_⟩
    have decided := sweepNow_record (p := heard s []) (fun h => has ((lacking_iff x).mp h)) opened record s.clock
    refine ⟨fun other => request_refuses listening (decided.trans (if_neg other)), fun waiting free => ?_, fun waiting held => ?_⟩
    · have started := decided.trans (if_pos waiting)
      rw [show (heard s []).held = false from free] at started
      exact request_answers listening started
    · have started := decided.trans (if_pos waiting)
      rw [show (heard s []).held = true from held] at started
      exact request_answers listening started
  · intro c p
    refine ⟨fun idle => next_left (sweepOnce_idle (p := p) idle c), fun r w day record running => ?_⟩
    intro n go
    have run : ∀ {q : Part}, sweepTake c x n r.date p = q → go = .next (left s q) :=
      fun e => next_left ((sweepOnce_running (p := p) day record running c).trans e)
    refine ⟨fun passed => run (sweepTake_passed (p := p) passed c _), fun y m enrolled mark unset => ?_⟩
    intro k absent
    have taken := sweepTake_unset (p := p) enrolled mark unset c r.date
    refine ⟨fun excused => run (taken.trans (sweepUnset_excused (p := p) excused c x y k)),
      fun unexcused here => run (taken.trans (sweepUnset_onSite (p := p) unexcused here c x y k)), fun unexcused away => ?_⟩
    intro made
    have asked := taken.trans (sweepUnset_away (p := p) unexcused away c x y k)
    exact ⟨fun refused => run (asked.trans (if_pos refused)), fun accepted => run (asked.trans (if_neg accepted))⟩
  · intro q
    have advanced := advanceCursor_some record c
    refine ⟨fun more => advanced.trans (if_neg more), fun last => (advanced.trans (if_pos last)).trans ?_⟩
    exact completeSweep_some (onSweep_get? record _) c

end

section
/-!
The two requests on the excuse list: what each refuses, in its order of decision (R148, R149).
-/

-- One declaration after another: the text is compiled as one, and a declaration that waits for others holds a thread.
set_option Elab.async false

namespace Sys2Proof.Machine

theorem stamp_of_unset {c : Clock} (h : c.reading = none) : c.stamp = none := by
  unfold Clock.stamp
  rw [h]
  rfl

/-! ## EXCUSE PUT -/

/-- EXCUSE PUT of an allowance that its kind does not take (R148, step 1). -/
theorem excusePut_malformed {kind : Option ExcuseKind} {a : Option Nat}
    (misfit : ∀ k, kind = some k → ¬ (a ≠ none ↔ k = .lateAllowance)) (c : Clock) (r : PupilRef) (date : DateField) (p : Part) :
    excusePutRequest c r kind a date p = refuse .malformed p := by
  unfold excusePutRequest
  cases kind with
  | none => rfl
  | some k =>
    have unfit : allowanceFits k a = false := Bool.eq_false_iff.mpr (mt (allowanceFits_iff k a).mp (misfit k rfl))
    dsimp only
    rw [unfit]
    rfl

/-- EXCUSE PUT of a date, a pupil or an allowance that is none (R148, step 2). -/
theorem excusePut_outOfRange {k : ExcuseKind} {a : Option Nat} {r : PupilRef} {date : DateField}
    (fits : a ≠ none ↔ k = .lateAllowance)
    (wrong : dateOf date = none ∨ pupilInRange r = false ∨ ¬ ∀ m, a = some m → 1 ≤ m ∧ m ≤ 240) (c : Clock) (p : Part) :
    excusePutRequest c r (some k) a date p = refuse .range p := by
  unfold excusePutRequest
  dsimp only
  rw [(allowanceFits_iff k a).mpr fits, if_neg (by decide)]
  cases given : dateOf date with
  | none => rfl
  | some d =>
    have wrong : (!pupilInRange r || !allowanceInRange a) = true := by
      rcases wrong with missing | out | out
      · rw [given] at missing; cases missing
      · rw [out]; rfl
      · rw [Bool.eq_false_iff.mpr (mt (allowanceInRange_iff a).mp out), Bool.or_comm]; rfl
    dsimp only
    rw [wrong]
    rfl

section Checked

/-! ## EXCUSE PUT of a record in range -/

variable {k : ExcuseKind} {a : Option Nat} {r : PupilRef} {date : DateField} {d : Date} {c : Clock} {p : Part}
  (fits : a ≠ none ↔ k = .lateAllowance) (given : dateOf date = some d) (range : pupilInRange r = true)
  (bounds : ∀ m, a = some m → 1 ≤ m ∧ m ≤ 240)

include fits given range bounds

/-- Without a clock reading it is refused with STATE (R148, step 3). -/
theorem excusePut_unset (unset : c.stamp = none) : excusePutRequest c r (some k) a date p = refuse .state p := by
  unfold excusePutRequest
  dsimp only
  rw [(allowanceFits_iff k a).mpr fits, if_neg (by decide), given]
  dsimp only
  rw [range, (allowanceInRange_iff a).mpr bounds, if_neg (by decide), unset]

/-- For a pupil who is not enrolled it is refused with NOT_FOUND (R148, step 4). -/
theorem excusePut_unknown {now : Stamp} (clock : c.stamp = some now) (unknown : p.work.enrolledPupil r = none) :
    excusePutRequest c r (some k) a date p = refuse .notFound p := by
  unfold excusePutRequest
  dsimp only
  rw [(allowanceFits_iff k a).mpr fits, if_neg (by decide), given]
  dsimp only
  rw [range, (allowanceInRange_iff a).mpr bounds, if_neg (by decide), clock]
  dsimp only
  rw [unknown]

/-- Its date check refuses it (R148, step 5). -/
theorem excusePut_ofDate {now : Stamp} {n : Nat} {y : Slot} {code : ErrCode} (clock : c.stamp = some now)
    (found : p.work.enrolledPupil r = some (n, y)) (refused : excuseDateRefused p now.date d = some code) :
    excusePutRequest c r (some k) a date p = refuse code p := by
  unfold excusePutRequest
  dsimp only
  rw [(allowanceFits_iff k a).mpr fits, if_neg (by decide), given]
  dsimp only
  rw [range, (allowanceInRange_iff a).mpr bounds, if_neg (by decide), clock]
  dsimp only
  rw [found]
  dsimp only
  rw [refused]

end Checked

/-! ## The date check -/

/-- What the calendar says of a date from today on (R148, step 5). -/
def calendarRefuses (p : Part) (today d : Date) : Option ErrCode :=
  if d < today then some .range else if (p.work.dayKind d).1 = .school then none else some .range

theorem calendarRefuses_of {p : Part} {today d : Date} (h : d < today ∨ (p.work.dayKind d).1 = .noSchool) :
    calendarRefuses p today d = some .range := by
  unfold calendarRefuses
  rcases h with past | holiday
  · exact if_pos past
  · rw [holiday]
    exact ite_self _

theorem calendarRefuses_none {p : Part} {today d : Date} (later : today ≤ d) (school : (p.work.dayKind d).1 = .school) :
    calendarRefuses p today d = none := by
  unfold calendarRefuses
  rw [if_neg (Nat.not_lt.mpr later), if_pos school]

/-- A date that no day record has is the calendar's to judge. -/
theorem excuseDateRefused_other {p : Part} {d : Date} (other : p.day.filter (fun g => g.date == d) = none) (today : Date) :
    excuseDateRefused p today d = calendarRefuses p today d := by
  unfold excuseDateRefused
  cases day : p.day with
  | none => rfl
  | some g =>
    have apart : ¬ g.date = d := fun same => by rw [day] at other; simp [Option.filter, same] at other
    dsimp only
    rw [if_neg (fun h => apart h.1), if_neg (fun h => apart h.1)]
    rfl

/-- The date of the day record is the record's to judge, unless it is undone and has no school. -/
theorem excuseDateRefused_record {p : Part} {d : Date} {g : DayRecord} (record : p.day.filter (fun g => g.date == d) = some g)
    (today : Date) : excuseDateRefused p today d
      = if g.done then some .state else if g.kind = .school then none else calendarRefuses p today d := by
  obtain ⟨day, same⟩ := Option.filter_eq_some_iff.mp record
  have same : g.date = d := beq_iff_eq.mp same
  unfold excuseDateRefused
  rw [day]
  simp only [same, true_and]
  rfl

/-- A full list takes no further record (R146). -/
theorem writeExcuse_full {e : Excuse} {p : Part} (fresh : p.work.holdsExcuse e.slot e.kind e.date = false)
    (full : 256 ≤ p.work.excuses.length) (c : Clock) : writeExcuse c e p = refuse .full p := by
  unfold writeExcuse
  rw [fresh]
  exact if_pos (decide_eq_true full)

/-! ## EXCUSE DEL -/

/-- EXCUSE DEL of a date or a pupil that is none (R149). -/
theorem excuseDel_outOfRange {date : DateField} {r : PupilRef} (wrong : dateOf date = none ∨ pupilInRange r = false)
    (k : ExcuseKind) (p : Part) : excuseDelRequest r (some k) date p = refuse .range p := by
  unfold excuseDelRequest
  cases given : dateOf date with
  | none => rfl
  | some d =>
    dsimp only
    rw [wrong.resolve_left (by rw [given]; exact Option.some_ne_none d)]
    rfl

/-- EXCUSE DEL of a record that the list does not hold (R149). -/
theorem excuseDel_missing {date : DateField} {d : Date} {r : PupilRef} {k : ExcuseKind} {p : Part} (given : dateOf date = some d)
    (range : pupilInRange r = true) (missing : ∀ n, p.work.slotNamed r = some n → p.work.holdsExcuse n k d = false) :
    excuseDelRequest r (some k) date p = refuse .notFound p := by
  unfold excuseDelRequest
  dsimp only
  rw [given]
  dsimp only
  rw [range]
  cases named : p.work.slotNamed r with
  | none => rfl
  | some n =>
    dsimp only
    rw [missing n named]
    rfl

end Sys2Proof.Machine

open Sys2Proof.Machine

/-- Settles O45: the refusals of each request in its order of decision, and its write. -/
theorem excuseRequestsWriteTheList : Obligations.ExcuseRequestsWriteTheList := by
  intro s sfx r kind a date ws listening put del misfit
  have fits_of {k} (some' : kind = some k) (fit : ¬ misfit) : a ≠ none ↔ k = .lateAllowance := by
    refine ⟨fun given => ?_, fun late none' => fit (.inr (.inr ⟨some'.trans (congrArg some late), none'⟩))⟩
    cases k with
    | absenceDay => exact (fit (.inr (.inl ⟨some', given⟩))).elim
    | lateAllowance => rfl
  refine ⟨fun unfit => ?_, fun fit wrong => ?_, fun k d some' fit given range bounds => ?_, fun none' => ?_, fun some' wrong => ?_,
    fun k d some' given range => ?_⟩
  · refine request_refuses listening (ws' := ws) (excusePut_malformed (fun k some' fits => ?_) _ _ _ _)
    rcases unfit with none' | ⟨absence, given⟩ | ⟨late, none'⟩
    · rw [none'] at some'; cases some'
    · cases some'.symm.trans absence
      cases fits.mp given
    · cases some'.symm.trans late
      exact fits.mpr rfl none'
  · obtain ⟨k, some'⟩ := Option.ne_none_iff_exists'.mp (fun none' => fit (.inl none'))
    have outside : dateOf date = none ∨ pupilInRange r = false ∨ ¬ ∀ m, a = some m → 1 ≤ m ∧ m ≤ 240 := by
      refine wrong.imp_right (Or.imp_right fun h inside => ?_)
      rcases h with zero | ⟨m, big, most⟩
      · exact absurd (inside 0 zero).1 (by decide)
      · exact Nat.not_le.mpr most (inside m big).2
    cases some'
    exact request_refuses listening (ws' := ws) (excusePut_outOfRange (fits_of rfl fit) outside _ _)
  · have fits := fits_of some' fit
    cases some'
    refine ⟨fun unset => request_refuses listening (ws' := ws) (excusePut_unset fits given range bounds
      (stamp_of_unset unset)), fun x reading => ?_⟩
    · have clock := stamp_of_reading reading
      refine ⟨fun unknown => request_refuses listening (ws' := ws) (excusePut_unknown fits given range bounds clock unknown), ?_⟩
      intro n y found today
      have refusesFor {code : ErrCode} (refused : excuseDateRefused (heard s ws) x.date d = some code) :
          exec put s = .next (refusedWith s sfx code) :=
        request_refuses listening (ws' := ws) (excusePut_ofDate fits given range bounds clock found refused)
      refine ⟨fun g record done => refusesFor ?_, fun holiday closed => refusesFor ?_, ?_⟩
      · rw [excuseDateRefused_record (p := heard s ws) record, done]
        rfl
      · cases record : today with
        | none => exact (excuseDateRefused_other (p := heard s ws) record x.date).trans (calendarRefuses_of closed)
        | some g =>
          obtain ⟨undone, kind⟩ := holiday g record
          rw [excuseDateRefused_record (p := heard s ws) record, undone, kind]
          exact calendarRefuses_of closed
      · intro school held e
        have taken : excuseDateRefused (heard s ws) x.date d = none := by
          rcases school with ⟨g, record, undone, kind⟩ | ⟨undone, later, kind⟩
          · rw [excuseDateRefused_record (p := heard s ws) record, undone, kind]
            rfl
          · have calendar := calendarRefuses_none (p := heard s ws) later kind
            cases record : today with
            | none => exact (excuseDateRefused_other (p := heard s ws) record x.date).trans calendar
            | some g =>
              rw [excuseDateRefused_record (p := heard s ws) record, undone g record, calendar]
              exact ite_self _
        have run := excusePut_taken (p := heard s ws) given range fits bounds clock found taken
        exact ⟨fun fresh full => request_refuses listening (ws' := ws)
            (run.trans (writeExcuse_full (e := e) (p := heard s ws) fresh full s.clock)),
          fun kept room => request_answers listening
            ((run.trans (writeExcuse_taken (e := e) (p := heard s ws) room s.clock)).trans (stored_kept kept))⟩
  · exact request_refuses listening (ws' := ws) (by rw [none']; rfl)
  · obtain ⟨k, some'⟩ := Option.ne_none_iff_exists'.mp some'
    cases some'
    exact request_refuses listening (ws' := ws) (excuseDel_outOfRange wrong k _)
  · cases some'
    have refusesFor (missing : ∀ n, s.part.work.slotNamed r = some n → s.part.work.holdsExcuse n k d = false) :
        exec del s = .next (refusedWith s sfx .notFound) :=
      request_refuses listening (ws' := ws) (excuseDel_missing (p := heard s ws) given range missing)
    refine ⟨fun unnamed => refusesFor fun n named => (nomatch unnamed.symm.trans named), fun n named => ⟨fun missing => ?_,
      fun held kept => request_stores listening kept (excuseDel_taken (p := heard s ws) given range named held)⟩⟩
    exact refusesFor fun m other => by cases named.symm.trans other; exact missing

end

section
/-!
Parent texts: how a text is read, the same-day effect of an excuse record, and a RECV line (R147, R150 to R156).
-/

-- One declaration after another: the text is compiled as one, and a declaration that waits for others holds a thread.
set_option Elab.async false

namespace Sys2Proof.Machine

/-! ## Reading a text -/

theorem readText_unset {c : Clock} (unset : c.stamp = none) (p : Part) (number message : Text) :
    readText c p number message = .error .noClock := by
  unfold readText
  rw [unset]

section Read

variable {c : Clock} {now : Stamp} {p : Part} {number message : Text} (clock : c.stamp = some now)

include clock

theorem readText_noContact (unknown : matchedContacts p.work number = []) : readText c p number message = .error .noContact := by
  unfold readText
  rw [clock]
  dsimp only
  rw [unknown]
  rfl

variable {sender : Nat} (known : (matchedContacts p.work number).head? = some sender)

include known

theorem readText_noPupil (unlinked : linkedSlots p.work (matchedContacts p.work number) = []) :
    readText c p number message = .error .noPupil := by
  unfold readText
  rw [clock]
  dsimp only
  rw [known]
  dsimp only
  rw [unlinked]
  rfl

variable (linked : linkedSlots p.work (matchedContacts p.work number) ≠ [])

include linked

theorem readText_noKeyword (silent : ∀ w, (tokens message).head? = some w → keyword w = none) :
    readText c p number message = .error .noKeyword := by
  unfold readText
  rw [clock]
  dsimp only
  rw [known]
  dsimp only
  rw [if_neg (by rwa [List.isEmpty_iff])]
  cases given : tokens message with
  | nil => rfl
  | cons w rest =>
    dsimp only
    rw [silent w (by rw [given]; rfl)]

variable {w : Text} {rest : List Text} {k : ExcuseKind} (given : tokens message = w :: rest) (word : keyword w = some k)

include given word

theorem readText_noName (unnamed : selectSlots rest (linkedSlots p.work (matchedContacts p.work number)) = none) :
    readText c p number message = .error .noName := by
  unfold readText
  rw [clock]
  dsimp only
  rw [known]
  dsimp only
  rw [if_neg (by rwa [List.isEmpty_iff]), given]
  dsimp only
  rw [word]
  dsimp only
  rw [unnamed]

variable {l : List Nat} (named : selectSlots rest (linkedSlots p.work (matchedContacts p.work number)) = some l)

include named

theorem readText_noDay (dayless : p.textDate now.date rest = none) : readText c p number message = .error .noDay := by
  unfold readText
  rw [clock]
  dsimp only
  rw [known]
  dsimp only
  rw [if_neg (by rwa [List.isEmpty_iff]), given]
  dsimp only
  rw [word]
  dsimp only
  rw [named]
  dsimp only
  rw [dayless]

theorem readText_ok {d : Date} (dated : p.textDate now.date rest = some d) : readText c p number message
      = .ok ⟨k, if k = .lateAllowance then some (textAllowance rest) else none, d, l, sender⟩ := by
  unfold readText
  rw [clock]
  dsimp only
  rw [known]
  dsimp only
  rw [if_neg (by rwa [List.isEmpty_iff]), given]
  dsimp only
  rw [word]
  dsimp only
  rw [named]
  dsimp only
  rw [dated]

end Read

/-! ## What the parser does with it -/

theorem parseText_refused {c : Clock} {p : Part} {number message : Text} {e : TextCause}
    (refused : readText c p number message = .error e) :
    parseText c number message p = raise c (.parentText number message e) p := by
  unfold parseText
  rw [refused]

theorem parseText_read {c : Clock} {p : Part} {number message : Text} {x : ParentText} {now : Stamp}
    (read : readText c p number message = .ok x) (clock : c.stamp = some now) : parseText c number message p
      = if 256 - p.work.excuses.length < addedRecords p x then raise c (.excuseFull number message) p else applyText c now x p := by
  unfold parseText
  rw [read, clock]
  rfl

/-- A line changes nothing of the host's link. -/
theorem lineArrives_hl (c : Clock) (p : Part) : (lineArrives c p).hl = p.hl := by
  unfold lineArrives offerExpires
  split
  · rfl
  · split <;> rfl

/-! ## The same-day effect -/

theorem sameDayEffect_elsewhere {p : Part} {e : Excuse} (elsewhere : ∀ r, p.openDay = some r → r.date ≠ e.date) (c : Clock)
    (w : Writer) : sameDayEffect c w e p = p := by
  unfold sameDayEffect
  split
  case h_1 => rfl
  case h_2 r opened => exact if_neg (elsewhere r opened)

theorem sameDayEffect_absence {p : Part} {e : Excuse} {r : DayRecord} (opened : p.openDay = some r) (dated : r.date = e.date)
    (kind : e.kind = .absenceDay) (c : Clock) (w : Writer) : sameDayEffect c w e p = absenceDayEffect c w e.slot p := by
  unfold sameDayEffect
  rw [opened]
  dsimp only
  rw [if_pos dated, kind]

theorem sameDayEffect_allowance {p : Part} {e : Excuse} {r : DayRecord} (opened : p.openDay = some r) (dated : r.date = e.date)
    (kind : e.kind = .lateAllowance) (c : Clock) (w : Writer) :
    sameDayEffect c w e p = allowanceEffect c w (e.allowance.getD 0) e.slot e.date p := by
  unfold sameDayEffect
  rw [opened]
  dsimp only
  rw [if_pos dated, kind]

theorem excuseAbsence_unmarked {p : Part} {n : Nat} {x : Reg} (unmarked : p.regMark? n x = none) (c : Clock) (w : Writer) :
    excuseAbsence c w n x p = p := by
  unfold excuseAbsence
  rw [unmarked]

theorem excuseAbsence_marked {p : Part} {n : Nat} {x : Reg} {m : Mark} (marked : p.regMark? n x = some m) (c : Clock)
    (w : Writer) : excuseAbsence c w n x p = if m.value = .absent ∧ m.source = some .sweep then
      (writeMark c (plainWrite w .absentExcused) n m.period.number p).1 else p := by
  unfold excuseAbsence
  rw [marked]

theorem excuseLate_unmarked {p : Part} {n : Nat} {x : Reg} (unmarked : p.regMark? n x = none) (c : Clock) (w : Writer) (a : Nat) :
    excuseLate c w a n x p = (p, false) := by
  unfold excuseLate
  rw [unmarked]

theorem excuseLate_marked {p : Part} {n : Nat} {x : Reg} {m : Mark} (marked : p.regMark? n x = some m) (c : Clock)
    (w : Writer) (a : Nat) : excuseLate c w a n x p
      = if m.value = .late ∧ m.source = some .station ∧ m.minutes.getD 0 ≤ a then
          writeMark c (allowanceWrite w m) n m.period.number p else (p, false) := by
  unfold excuseLate
  rw [marked]

theorem noticeIfOnSite_onSite {p : Part} {n : Nat} {y : Slot} (held : p.slot? n = some y) (here : p.presence n = .onSite)
    (c : Clock) : noticeIfOnSite c n p = raise c (.excuseOnsite n y.number c.second) p := by
  unfold noticeIfOnSite
  rw [held]
  exact if_pos here

theorem noticeIfOnSite_away {p : Part} {n : Nat} (away : p.slot? n = none ∨ p.presence n ≠ .onSite) (c : Clock) :
    noticeIfOnSite c n p = p := by
  unfold noticeIfOnSite
  split
  case h_1 => rfl
  case h_2 y held => exact if_neg (away.resolve_left (by rw [held]; exact Option.some_ne_none y))

/-- The allowance acts on AM and then on PM; its record is USED when a mark was excused (R156). -/
theorem allowanceEffect_eq (c : Clock) (w : Writer) (a n : Nat) (d : Date) (p : Part) :
    allowanceEffect c w a n d p = if ((excuseLate c w a n .am p).2 || (excuseLate c w a n .pm (excuseLate c w a n .am p).1).2) then
      useExcuse n .lateAllowance d (excuseLate c w a n .pm (excuseLate c w a n .am p).1).1
    else (excuseLate c w a n .pm (excuseLate c w a n .am p).1).1 := rfl

/-! ## It leaves the templates -/

theorem ownWrite_work (items : List StoreItem) (p : Part) : (ownWrite items p).work = p.work := by
  unfold ownWrite
  split <;> rfl

theorem excuseAbsence_work (c : Clock) (w : Writer) (n : Nat) (x : Reg) (p : Part) : (excuseAbsence c w n x p).work = p.work := by
  unfold excuseAbsence
  split
  case h_1 => rfl
  case h_2 =>
    split
    case isTrue => exact (writeMark_frame c _ _ _ p).work
    case isFalse => rfl

theorem excuseLate_work (c : Clock) (w : Writer) (a n : Nat) (x : Reg) (p : Part) : (excuseLate c w a n x p).1.work = p.work := by
  unfold excuseLate
  split
  case h_1 => rfl
  case h_2 =>
    split
    case isTrue => exact (writeMark_frame c _ _ _ p).work
    case isFalse => rfl

theorem noticeIfOnSite_work (c : Clock) (n : Nat) (p : Part) : (noticeIfOnSite c n p).work = p.work := by
  unfold noticeIfOnSite
  split
  case h_1 => rfl
  case h_2 =>
    split
    case isTrue => exact (raise_frame c _ p).work
    case isFalse => rfl

theorem allowanceEffect_templateMap (c : Clock) (w : Writer) (a n : Nat) (d : Date) (p : Part) :
    (allowanceEffect c w a n d p).work.templateMap = p.work.templateMap := by
  have marks : (excuseLate c w a n .pm (excuseLate c w a n .am p).1).1.work.templateMap = p.work.templateMap := by
    rw [excuseLate_work, excuseLate_work]
  rw [allowanceEffect_eq]
  split
  case isTrue =>
    unfold useExcuse
    rw [ownWrite_work]
    exact marks
  case isFalse => exact marks

theorem sameDayEffect_templateMap (c : Clock) (w : Writer) (e : Excuse) (p : Part) :
    (sameDayEffect c w e p).work.templateMap = p.work.templateMap := by
  unfold sameDayEffect
  split
  case h_1 => rfl
  case h_2 =>
    split
    case isFalse => rfl
    case isTrue =>
      split
      case h_1 =>
        unfold absenceDayEffect
        rw [noticeIfOnSite_work, excuseAbsence_work, excuseAbsence_work]
      case h_2 => exact allowanceEffect_templateMap ..

theorem foldl_sameDayEffect_templateMap (c : Clock) (w : Writer) (l : List Excuse) (p : Part) :
    (l.foldl (fun p e => sameDayEffect c w e p) p).work.templateMap = p.work.templateMap := by
  induction l generalizing p with
  | nil => rfl
  | cons e l ih => exact (ih _).trans (sameDayEffect_templateMap c w e p)

end Sys2Proof.Machine

open Sys2Proof.Machine

/-- Settles O46: the reading in its order of decision, the text that is applied, and the effects of the two kinds. -/
theorem parentTextIsReadOrReported : Obligations.ParentTextIsReadOrReported := by
  refine ⟨fun s number message ws => ?_, fun c now x p => ?_, fun c w e p elsewhere => sameDayEffect_elsewhere elsewhere c w,
    fun c w e p r opened dated kind => ?_, fun c w e p r opened dated kind => ?_⟩
  · intro c line p q contacts linked
    refine ⟨?_, fun e refused => parseText_refused refused, fun x now read clock => ?_, fun unset => ?_, fun now clock => ?_⟩
    · have act : recvLine c number message (met s ws) = if q.hl.service = some .gateway then serviceEnds c q else q := by
        unfold recvLine
        dsimp only
        rw [lineArrives_hl]
        rfl
      exact next_left act
    · have parsed : q = _ := parseText_read read clock
      exact ⟨fun full => parsed.trans (if_pos full), fun room => parsed.trans (if_neg (Nat.not_lt.mpr room))⟩
    · exact readText_unset (stamp_of_unset unset) _ _ _
    · have sender_of (known : contacts ≠ []) : contacts.head? = some (contacts.head known) := List.head?_eq_some_head known
      refine ⟨readText_noContact clock, fun known => readText_noPupil clock (sender_of known),
        fun known => readText_noKeyword clock (sender_of known), fun w rest k known link given word => ?_⟩
      exact ⟨readText_noName clock (sender_of known) link given word, fun l named =>
        ⟨readText_noDay clock (sender_of known) link given word named,
          fun d n dated sender => readText_ok clock sender link given word named dated⟩⟩
  · intro records listed acted
    have template : p.work.mapped .confirm = acted.work.mapped .confirm := by
      have same : acted.work.templateMap = p.work.templateMap := by
        rw [foldl_sameDayEffect_templateMap, ownWrite_work]
      unfold Image.mapped
      rw [same]
    rw [template]
    rfl
  · have one_eq (x) (q : Part) : (match q.regMark? e.slot x with
        | some m => if m.value = .absent ∧ m.source = some .sweep then
            (writeMark c ⟨w, .absentExcused, none, 0, none⟩ e.slot m.period.number q).1 else q
        | none => q) = excuseAbsence c w e.slot x q := by
      cases marked : q.regMark? e.slot x with
      | none => exact (excuseAbsence_unmarked marked c w).symm
      | some m => exact (excuseAbsence_marked marked c w).symm
    intro one q
    have effect : sameDayEffect c w e p = noticeIfOnSite c e.slot q := by
      rw [sameDayEffect_absence opened dated kind]
      exact congrArg _ ((one_eq .pm _).trans (congrArg _ (one_eq .am p))).symm
    exact ⟨fun y held here => effect.trans (noticeIfOnSite_onSite held here c),
      fun away => effect.trans (noticeIfOnSite_away away c)⟩
  · have one_eq (x) (y : Part × Bool) : (match y.1.regMark? e.slot x with
        | some m => if m.value = .late ∧ m.source = some .station ∧ m.minutes.getD 0 ≤ e.allowance.getD 0 then
            let v := writeMark c ⟨w, .lateExcused, m.minutes, 0, none⟩ e.slot m.period.number y.1
            (v.1, y.2 || v.2) else y
        | none => y) = ((excuseLate c w (e.allowance.getD 0) e.slot x y.1).1,
          y.2 || (excuseLate c w (e.allowance.getD 0) e.slot x y.1).2) := by
      cases marked : y.1.regMark? e.slot x with
      | none =>
        rw [excuseLate_unmarked marked]
        simp
      | some m =>
        rw [excuseLate_marked marked]
        dsimp only
        split
        case isTrue => rfl
        case isFalse => simp
    intro one y
    have run : y = _ := (one_eq .pm _).trans (by rw [show one .am (p, false) = _ from one_eq .am (p, false), Bool.false_or])
    have effect := sameDayEffect_allowance opened dated kind c w
    rw [allowanceEffect_eq] at effect
    refine ⟨fun unused => ?_, fun used => ?_⟩
    · rw [run] at unused ⊢
      exact effect.trans (if_neg (Bool.eq_false_iff.mp unused))
    · rw [run] at used ⊢
      exact effect.trans (if_pos used)

end

section
/-!
The outbox: what a creation does, which entry it displaces, how an entry ends and leaves, and the requests SEND and WITHDRAW
(R161, R163, R164, R172, R174, R175).
-/

-- One declaration after another: the text is compiled as one, and a declaration that waits for others holds a thread.
set_option Elab.async false

namespace Sys2Proof.Machine

/-! ## Creation -/

theorem create_held {q : EntryRequest} {p : Part} (held : alreadyHeld q p = true) (c : Clock) : create c q p = (p, .held) :=
  if_pos held

theorem create_room {q : EntryRequest} {p : Part} (fresh : alreadyHeld q p = false) (room : p.pmu.outbox.length < 512)
    (c : Clock) : create c q p = append c q p := by
  unfold create
  rw [fresh, if_neg (by decide)]
  exact if_pos room

theorem create_full {q : EntryRequest} {p : Part} (fresh : alreadyHeld q p = false)
    (full : Config.outboxMax ≤ p.pmu.outbox.length)
    (none' : p.pmu.candidate q.kind.cls = none) (c : Clock) : create c q p = (p, .refused) := by
  unfold create
  rw [fresh, if_neg (by decide), if_neg (Nat.not_lt.mpr full), none']

theorem create_displaces {q : EntryRequest} {p : Part} (fresh : alreadyHeld q p = false)
    (full : Config.outboxMax ≤ p.pmu.outbox.length)
    {e : OutEntry} (old : p.pmu.candidate q.kind.cls = some e) (c : Clock) : create c q p
      = append c q (raise c (.displaced e.id e.kind e.slot? q.kind) (leave c e.cancelled p)) := by
  unfold create
  rw [fresh, if_neg (by decide), if_neg (Nat.not_lt.mpr full), old]

/-- Only an entry that stands already is held (R163). -/
theorem create_not_held {q : EntryRequest} {p : Part} (fresh : alreadyHeld q p = false) (c : Clock) :
    (create c q p).2 ≠ .held := by
  unfold create
  rw [fresh, if_neg (by decide)]
  split
  case isTrue => nofun
  case isFalse =>
    split
    case h_1 => nofun
    case h_2 => nofun

/-- A request for no registration period is never held (R163). -/
theorem alreadyHeld_of_no_reg {q : EntryRequest} (h : q.reg = none) (p : Part) : alreadyHeld q p = false := by
  unfold alreadyHeld
  rw [h]
  cases q.target <;> rfl

theorem createOrReport_made {c : Clock} {q : EntryRequest} {p : Part} (made : (create c q p).2 ≠ .refused) :
    createOrReport c q p = create c q p := by
  unfold createOrReport
  split
  case h_1 e => rw [e] at made; exact (made rfl).elim
  case h_2 e => exact e.symm
  case h_3 e => exact e.symm

theorem createOrReport_refused {c : Clock} {q : EntryRequest} {p : Part} (refused : (create c q p).2 = .refused) :
    createOrReport c q p = (raise c (.outboxFull q.kind q.slot? q.reg) (create c q p).1, .refused) := by
  unfold createOrReport
  split
  case h_1 e => rw [e]
  case h_2 e => rw [e] at refused; cases refused
  case h_3 e => rw [e] at refused; cases refused

/-! ## The entry displaced -/

theorem OutEntry.rank_le (e : OutEntry) : e.rank ≤ 4 := by
  unfold OutEntry.rank
  cases e.kind <;> decide

/-- The ranks below a class, lowest first. -/
def ranksBelow (cls : OutClass) : List Nat := [4, 3, 2, 1].filter (fun r => decide (cls.rank < r))

theorem mem_ranksBelow {cls : OutClass} {e : OutEntry} (below : cls.rank < e.rank) : e.rank ∈ ranksBelow cls := by
  have bound := e.rank_le
  refine List.mem_filter.mpr ⟨?_, decide_eq_true below⟩
  simp only [List.mem_cons, List.not_mem_nil, or_false]
  omega

theorem ranksBelow_lt {cls : OutClass} {r : Nat} (h : r ∈ ranksBelow cls) : cls.rank < r :=
  of_decide_eq_true (List.mem_filter.mp h).2

theorem ranksBelow_ordered (cls : OutClass) : (ranksBelow cls).Pairwise (· > ·) := List.Pairwise.filter _ (by decide)

theorem oldestFree_eq_none_iff {m : Messages} {r : Nat} :
    m.oldestFree r = none ↔ ∀ f ∈ m.outbox, f.rank = r → m.anyHanded f = true := by
  unfold Messages.oldestFree
  rw [List.find?_eq_none]
  exact forall₂_congr fun f _ => by rw [Bool.and_eq_true, beq_iff_eq, not_and, Bool.not_eq_true', Bool.not_eq_false]

theorem oldestFree_spec {m : Messages} {r : Nat} {e : OutEntry} (h : m.oldestFree r = some e) :
    e ∈ m.outbox ∧ e.rank = r ∧ m.anyHanded e = false := by
  have free := List.find?_some h
  rw [Bool.and_eq_true, beq_iff_eq, Bool.not_eq_true'] at free
  exact ⟨List.mem_of_find?_eq_some h, free⟩

/-- Without a candidate every entry below the class has been handed over in part. -/
theorem candidate_none {m : Messages} {cls : OutClass} (h : m.candidate cls = none) {f : OutEntry} (mem : f ∈ m.outbox)
    (below : cls.rank < f.rank) : m.anyHanded f = true :=
  oldestFree_eq_none_iff.mp (List.findSome?_eq_none_iff.mp h _ (mem_ranksBelow below)) f mem rfl

/-- The first answer along an ordered list: whatever else answers comes later in the order. -/
theorem findSome?_first {α β : Type} {R : α → α → Prop} {l : List α} (ordered : l.Pairwise R) {f : α → Option β} {b : β}
    (h : l.findSome? f = some b) : ∃ a ∈ l, f a = some b ∧ ∀ x ∈ l, f x ≠ none → x = a ∨ R a x := by
  obtain ⟨before, a, after, rfl, found, passed⟩ := List.findSome?_eq_some_iff.mp h
  refine ⟨a, List.mem_append_right _ List.mem_cons_self, found, fun x mem answers => ?_⟩
  rcases List.mem_append.mp mem with earlier | later
  · exact (answers (passed x earlier)).elim
  · exact (List.mem_cons.mp later).imp_right ((List.pairwise_cons.mp (List.pairwise_append.mp ordered).2.1).1 x)

/-- The candidate is the oldest free entry of the lowest class below that holds one (R164). -/
theorem candidate_spec {m : Messages} {cls : OutClass} {e : OutEntry} (h : m.candidate cls = some e) :
    m.oldestFree e.rank = some e ∧ cls.rank < e.rank ∧ ∀ f ∈ m.outbox, m.anyHanded f = false → f.rank ≤ e.rank := by
  obtain ⟨r, below, found, first⟩ := findSome?_first (ranksBelow_ordered cls) h
  obtain ⟨_, rank, _⟩ := oldestFree_spec found
  refine ⟨rank ▸ found, rank ▸ ranksBelow_lt below, fun f mem free => rank ▸ ?_⟩
  rcases Nat.lt_or_ge cls.rank f.rank with lower | upper
  · have answers : m.oldestFree f.rank ≠ none := fun none' => by
      rw [oldestFree_eq_none_iff.mp none' f mem rfl] at free
      cases free
    exact (first _ (mem_ranksBelow lower) answers).elim Nat.le_of_eq Nat.le_of_lt
  · exact Nat.le_of_lt (Nat.lt_of_le_of_lt upper (ranksBelow_lt below))

/-! ## An entry that ends -/

theorem finished_slot {m : Messages} {e : OutEntry} {n : Nat} {ps : List Position} (target : e.target = .slot n ps) :
    m.finished e = true ↔ ∀ y ∈ ps, y.state ≠ .waiting ∧ y.state ≠ .inFlight := by
  unfold Messages.finished OutEntry.hasWaiting Messages.hasFlight
  rw [target]
  simp only [Bool.and_eq_true, Bool.not_eq_true', List.any_eq_false, beq_iff_eq]
  exact forall₂_and.symm

theorem finished_broadcast {m : Messages} {e : OutEntry} {cursor d f : Nat} {k : Filter}
    (target : e.target = .broadcast cursor k d f) :
    m.finished e = true ↔ Config.contactCount ≤ cursor ∧ ∀ x ∈ m.inflight, x.handle.id ≠ e.id := by
  unfold Messages.finished OutEntry.hasWaiting Messages.hasFlight Messages.flights
  rw [target]
  simp [List.filter_eq_nil_iff]

theorem follow_gone {p : Part} {id : Nat} (gone : p.entry? id = none) (c : Clock) : follow c id p = p := by
  unfold follow
  rw [gone]

theorem follow_found {p : Part} {id : Nat} {e : OutEntry} (found : p.entry? id = some e) (c : Clock) :
    follow c id p = if p.pmu.finished e then leave c e p else p := by
  unfold follow
  rw [found]

theorem withdrawFor_none {p : Part} {k : OutKind} {n : Nat} {x : Reg} (none' : p.entryFor? k n x = none) (c : Clock) :
    withdrawFor c k n x p = (p, ⟨false, false, []⟩) := by
  unfold withdrawFor
  rw [none']

theorem withdrawFor_found {p : Part} {k : OutKind} {n : Nat} {x : Reg} {e : OutEntry} (found : p.entryFor? k n x = some e)
    (c : Clock) : withdrawFor c k n x p = withdrawEntry c e p := by
  unfold withdrawFor
  rw [found]

/-! ## An entry that leaves -/

/-- What an entry's end tells the host. -/
def failuresTold (c : Clock) (e : OutEntry) (p : Part) : Part :=
  if e.failedCount = 0 then p else raise c (.undelivered e.id e.kind e.slot? e.failedCount) p

theorem afterLeaving_absence {e : OutEntry} {n : Nat} {x : Reg} (kind : e.kind = .absence) (slot : e.slot? = some n)
    (reg : e.reg = some x) (c : Clock) (p : Part) : afterLeaving c e p
      = sweepTold (reportLeaving n x e.anyDelivered (decide (0 < e.failedCount)) (failuresTold c e p)) := by
  have failed : decide (0 < e.failedCount) = (e.failedCount != 0) := by
    rw [Bool.eq_iff_iff, decide_eq_true_iff, bne_iff_ne, Nat.pos_iff_ne_zero]
  unfold afterLeaving
  rw [kind, slot, reg, failed, failuresTold, kind, slot]

theorem afterLeaving_other {e : OutEntry} (kind : e.kind ≠ .absence) (c : Clock) (p : Part) :
    afterLeaving c e p = sweepTold (failuresTold c e p) := by
  unfold afterLeaving
  dsimp only
  split
  case h_1 absence _ _ => exact (kind absence).elim
  case h_2 => rfl

/-! ## SEND and WITHDRAW -/

theorem send_malformed {x : Source} (h : sourceFormed x = false) (c : Clock) (t : SendTarget) (p : Part) :
    sendRequest c t x p = refuse .malformed p := by
  unfold sendRequest
  rw [h]
  rfl

theorem send_outOfRange {x : Source} {t : SendTarget} (formed : sourceFormed x = true) (h : sendInRange t x = false) (c : Clock)
    (p : Part) : sendRequest c t x p = refuse .range p := by
  unfold sendRequest
  rw [formed, h]
  rfl

theorem send_missing {x : Source} {t : SendTarget} {p : Part} (formed : sourceFormed x = true) (range : sendInRange t x = true)
    (h : sendTarget p.work t = none ∨ sourceFound p.work x = false) (c : Clock) :
    sendRequest c t x p = refuse .notFound p := by
  unfold sendRequest
  rw [formed, range, if_neg (by decide), if_neg (by decide)]
  split
  case h_1 => rfl
  case h_2 y target =>
    rw [h.resolve_left (by rw [target]; exact Option.some_ne_none y)]
    rfl

section Send

variable {x : Source} {t : SendTarget} {p : Part} {y : Target} (formed : sourceFormed x = true) (range : sendInRange t x = true)
  (target : sendTarget p.work t = some y) (source : sourceFound p.work x = true) {c : Clock}

include formed range target source

theorem send_taken {id : Nat} (made : (create c (generalRequest c y x) p).2 = .taken id) :
    sendRequest c t x p = ((create c (generalRequest c y x) p).1, ok [nat id]) := by
  unfold sendRequest
  rw [formed, range, if_neg (by decide), if_neg (by decide), target]
  dsimp only
  rw [source, if_neg (by decide)]
  split
  case h_1 e => rw [e] at made ⊢; cases made; rfl
  case h_2 e => rw [e] at made; cases made
  case h_3 e => rw [e] at made; cases made

theorem send_full (made : (create c (generalRequest c y x) p).2 = .refused) : sendRequest c t x p = refuse .full p := by
  have kept := create_refused made
  unfold sendRequest
  rw [formed, range, if_neg (by decide), if_neg (by decide), target]
  dsimp only
  rw [source, if_neg (by decide)]
  split
  case h_1 e => rw [e] at made; cases made
  case h_2 e => rw [e] at made; cases made
  case h_3 e => rw [e] at kept; rw [← kept]; rfl

end Send

theorem withdraw_outOfRange {id : Nat} (h : id < 1 ∨ 65535 < id) (c : Clock) (p : Part) :
    withdrawRequest c id p = refuse .range p := if_pos h

theorem withdraw_missing {id : Nat} {p : Part} (low : 1 ≤ id) (high : id ≤ 65535) (h : p.entry? id = none) (c : Clock) :
    withdrawRequest c id p = refuse .notFound p := by
  unfold withdrawRequest
  rw [if_neg (by omega), h]

theorem withdraw_found {id : Nat} {p : Part} {e : OutEntry} (low : 1 ≤ id) (high : id ≤ 65535) (h : p.entry? id = some e)
    (c : Clock) : withdrawRequest c id p = ((withdrawEntry c e p).1,
      ok [.word (stateOrGone id (withdrawEntry c e p).1), nat (p.pmu.handedCount e)]) := by
  unfold withdrawRequest
  rw [if_neg (by omega), h]

theorem entry?_id {p : Part} {id : Nat} {e : OutEntry} (h : p.entry? id = some e) : e.id = id := beq_iff_eq.mp (List.find?_some h :)

end Sys2Proof.Machine

open Sys2Proof.Machine

/-- Settles O47: creation, SEND, WITHDRAW, the report of a refusal, a withdrawal, and an entry that follows its state or leaves. -/
theorem outboxTakesRefusesOrDisplaces : Obligations.OutboxTakesRefusesOrDisplaces := by
  refine ⟨fun c q p => ?_, fun s sfx target source listening => ?_, fun s sfx id listening => ?_, fun c q p => ?_,
    fun c k n x p => ⟨fun none' => withdrawFor_none none' c, fun e found => withdrawFor_found found c⟩, fun c id p => ?_,
    fun c e p => ?_⟩
  · refine ⟨fun held => create_held held c, fun fresh room => create_room fresh room c,
      fun fresh full => ⟨fun none' => create_full fresh full none' c, fun e old => create_displaces fresh full old c⟩,
      fun e old => ?_, fun none' f mem below => candidate_none none' mem below⟩
    obtain ⟨oldest, below, lowest⟩ := candidate_spec old
    obtain ⟨mem, _, free⟩ := oldestFree_spec oldest
    exact ⟨mem, below, free, lowest, oldest⟩
  · intro go
    refine ⟨fun unformed => request_refuses listening (ws' := []) (send_malformed unformed _ _ _),
      fun formed out => request_refuses listening (ws' := []) (send_outOfRange formed out _ _),
      fun formed range => ⟨fun missing => request_refuses listening (ws' := [])
        (send_missing (p := heard s []) formed range missing _), fun x found there => ?_⟩⟩
    intro q made
    have fresh : alreadyHeld q (heard s []) = false := alreadyHeld_of_no_reg rfl _
    refine ⟨fun id taken => request_answers listening (send_taken (p := heard s []) formed range found there taken),
      fun refused => request_refuses listening (ws' := []) (send_full (p := heard s []) formed range found there refused),
      create_not_held fresh _, fun room refused => ?_⟩
    rw [show made = _ from create_room fresh room _] at refused
    cases refused
  · refine ⟨fun out => request_refuses listening (ws' := []) (withdraw_outOfRange out _ _),
      fun low high missing => request_refuses listening (ws' := []) (withdraw_missing (p := heard s []) low high missing _),
      fun e low high found => ?_⟩
    intro q
    have run := withdraw_found (p := heard s []) low high found s.clock
    have entry : (withdrawEntry s.clock e (heard s [])).1 = q := by
      cases entry?_id found
      rfl
    rw [entry] at run
    exact request_answers listening run
  · refine ⟨createOrReport_made, fun refused => ?_⟩
    have report := createOrReport_refused refused
    refine ⟨fun n ps target => ?_, fun k f d e target => ?_⟩
    · rw [report, EntryRequest.slot?, target]
    · rw [report, EntryRequest.slot?, target]
  · refine ⟨fun gone => follow_gone gone c, fun e found => ?_⟩
    have follow_of {ended : Prop} (finished : p.pmu.finished e = true ↔ ended) :
        (ended → follow c id p = leave c e p) ∧ (¬ ended → follow c id p = p) := by
      rw [follow_found found, ← finished]
      exact ⟨fun h => if_pos h, fun h => if_neg h⟩
    cases target : e.target with
    | slot n ps => exact follow_of (finished_slot target)
    | broadcast cursor k d f => exact follow_of (finished_broadcast target)
  · intro gone told unblocked swept
    have told_eq : failuresTold c e gone = told := rfl
    exact ⟨fun n x kind slot reg => afterLeaving_absence kind slot reg c gone, fun kind => afterLeaving_other kind c gone⟩

end

section
/-!
The gateway's lines and waits: what an offer's window, a line, a TAKEN, a REJECT and a result do (R165, R166, R168 to R170).
-/

-- One declaration after another: the text is compiled as one, and a declaration that waits for others holds a thread.
set_option Elab.async false

namespace Sys2Proof.Machine

/-! ## The offer and its window -/

theorem offers_iff {p : Part} {h : Handle} : p.offers h = true ↔ ∃ o, p.pmu.offer = some o ∧ o.handle = h := by
  unfold Part.offers
  cases p.pmu.offer <;> simp

theorem offers_false {p : Part} {h : Handle} (other : ∀ o, p.pmu.offer = some o → o.handle ≠ h) : p.offers h = false :=
  Bool.eq_false_iff.mpr fun offered => by
    obtain ⟨o, offer, same⟩ := offers_iff.mp offered
    exact other o offer same

theorem offerExpires_none {p : Part} (h : p.pmu.offer = none) (c : Clock) : offerExpires c p = p := by
  unfold offerExpires
  rw [h]

theorem offerExpires_early {p : Part} {o : Offer} {c : Clock} (offer : p.pmu.offer = some o) (early : c.crystal < o.sentAt + 80) :
    offerExpires c p = p := by
  unfold offerExpires Offer.overdue
  rw [offer]
  exact if_neg (by rw [decide_eq_true_iff]; exact Nat.not_le.mpr early)

theorem offerExpires_late {p : Part} {o : Offer} {c : Clock} (offer : p.pmu.offer = some o) (late : o.sentAt + 80 ≤ c.crystal) :
    offerExpires c p = { p with pmu.offer := none, pmu.gateway := .silent, pmu.silentAt := c.crystal } := by
  unfold offerExpires Offer.overdue
  rw [offer]
  exact if_pos (decide_eq_true late)

/-- A line leaves the handovers in flight. -/
theorem lineArrives_inflight (c : Clock) (p : Part) : (lineArrives c p).pmu.inflight = p.pmu.inflight := by
  unfold lineArrives offerExpires
  split
  · rfl
  · split <;> rfl

theorem lineArrives_of {c : Clock} {p q : Part} (h : offerExpires c p = q) : lineArrives c p = { q with pmu.gateway := .ready } := by
  unfold lineArrives
  rw [h]

/-! ## TAKEN and REJECT -/

theorem takenLine_offered {c : Clock} {h : Handle} {p : Part} (offered : (lineArrives c p).offers h = true) :
    takenLine c h p = takeUp c h (closeOffer (lineArrives c p)) := if_pos offered

theorem takenLine_gone {c : Clock} {h : Handle} {p : Part} (other : (lineArrives c p).offers h = false)
    (gone : (lineArrives c p).entry? h.id = none) : takenLine c h p = lineArrives c p := by
  unfold takenLine
  dsimp only
  rw [other, if_neg (by decide), gone]

theorem takenLine_late {c : Clock} {h : Handle} {p : Part} {e : OutEntry} (other : (lineArrives c p).offers h = false)
    (found : (lineArrives c p).entry? h.id = some e) : takenLine c h p
      = if e.waitsAt h.position && (lineArrives c p).pmu.roomForLate then takeUp c h (lineArrives c p) else lineArrives c p := by
  unfold takenLine
  dsimp only
  rw [other, if_neg (by decide), found]

theorem roomForLate_iff {m : Messages} : m.roomForLate = true ↔ m.inflight.length < if m.offer = none then 8 else 7 := by
  unfold Messages.roomForLate
  rw [decide_eq_true_iff]
  cases m.offer <;> exact Iff.rfl

/-- A REJECT line meets the offer as its window has left it. -/
theorem rejectLine_of {c : Clock} {p q : Part} (h : offerExpires c p = q) (x : Handle) :
    rejectLine c x p = if q.offers x then { closeOffer q with pmu.gateway := .notReady } else q := by
  unfold rejectLine
  rw [h]

/-! ## Results -/

/-- The record of a handover removed, and its contact settled. -/
def settle (h : Handle) (d : Delivery) (p : Part) : Part :=
  onEntry h.id (OutEntry.result h.position d) { p with pmu.inflight := p.pmu.inflight.filter (fun f => f.handle != h) }

theorem inFlight_iff {p : Part} {h : Handle} : p.inFlight h = true ↔ ∃ f ∈ p.pmu.inflight, f.handle = h := by
  unfold Part.inFlight
  rw [List.any_eq_true]
  exact exists_congr fun f => and_congr_right fun _ => beq_iff_eq

theorem lineArrives_inFlight {c : Clock} {p : Part} {h : Handle} :
    (lineArrives c p).inFlight h = true ↔ ∃ f ∈ p.pmu.inflight, f.handle = h := by
  rw [inFlight_iff, lineArrives_inflight]

theorem resultLine_inFlight {c : Clock} {h : Handle} {p : Part} (flies : ∃ f ∈ p.pmu.inflight, f.handle = h) (d : Delivery) :
    resultLine c h d p = endHandover c h d (lineArrives c p) := if_pos (lineArrives_inFlight.mpr flies)

theorem resultLine_offered {c : Clock} {h : Handle} {p : Part} (landed : ¬ ∃ f ∈ p.pmu.inflight, f.handle = h)
    (offered : ∃ o, (lineArrives c p).pmu.offer = some o ∧ o.handle = h) (d : Delivery) :
    resultLine c h d p = endHandover c h d (takeUp c h (closeOffer (lineArrives c p))) := by
  unfold resultLine
  dsimp only
  rw [if_neg (mt lineArrives_inFlight.mp landed), if_pos (offers_iff.mpr offered)]

theorem resultLine_stray {c : Clock} {h : Handle} {p : Part} (landed : ¬ ∃ f ∈ p.pmu.inflight, f.handle = h)
    (other : ∀ o, (lineArrives c p).pmu.offer = some o → o.handle ≠ h) (d : Delivery) :
    resultLine c h d p = lineArrives c p := by
  unfold resultLine
  dsimp only
  rw [if_neg (mt lineArrives_inFlight.mp landed), offers_false other]
  rfl

/-- A result that bars no contact: another than FAILED INVALID, or of no contact. -/
theorem endHandover_settles {h : Handle} {d : Delivery} {p : Part}
    (plain : d ≠ .failed (.gateway .invalid) ∨ (settle h d p).contactOf h = none) (c : Clock) : endHandover c h d p
      = follow c h.id (settle h d p) := by
  unfold endHandover
  refine congrArg (follow c h.id) ?_
  split
  case h_1 found =>
    rcases plain with other | unknown
    · exact (other rfl).elim
    · exact nomatch unknown.symm.trans found
  case h_2 => rfl

theorem endHandover_bars {h : Handle} {p : Part} {n : Nat}
    (found : (settle h (.failed (.gateway .invalid)) p).contactOf h = some n) (c : Clock) : endHandover c h (.failed (.gateway .invalid)) p
      = follow c h.id (barContact n (settle h (.failed (.gateway .invalid)) p)) := by
  unfold settle at found
  unfold endHandover settle
  dsimp only
  rw [found]

theorem endHandover_delivered (c : Clock) (h : Handle) (p : Part) : endHandover c h .delivered p
      = follow c h.id (settle h .delivered p) := endHandover_settles (.inl (by simp)) c

theorem endHandover_timeout (c : Clock) (h : Handle) (p : Part) : endHandover c h (.failed .timeout) p
      = follow c h.id (settle h (.failed .timeout) p) := endHandover_settles (.inl (by simp)) c

theorem failed_ne_invalid {why : GatewayReason} (h : why ≠ .invalid) :
    Delivery.failed (.gateway why) ≠ .failed (.gateway .invalid) := fun same => by cases same; exact h rfl

theorem resultTimesOut_iff {c : Clock} {h : Handle} {p : Part} :
    p.pmu.inflight.any (fun f => f.handle == h && decide (f.takenAt + Config.resultWait ≤ c.crystal)) = true
      ↔ ∃ f ∈ p.pmu.inflight, f.handle = h ∧ f.takenAt + 9600 ≤ c.crystal := by
  rw [List.any_eq_true]
  exact exists_congr fun f => and_congr_right fun _ => by rw [Bool.and_eq_true, beq_iff_eq, decide_eq_true_iff]; rfl

/-! ## The silence -/

theorem silenceEnds_over {c : Clock} {p : Part} (silent : p.pmu.gateway = .silent) (late : p.pmu.silentAt + 480 ≤ c.crystal) :
    silenceEnds c p = { p with pmu.gateway := .ready } := if_pos ⟨silent, late⟩

theorem silenceEnds_early {c : Clock} {p : Part} (h : p.pmu.gateway ≠ .silent ∨ c.crystal < p.pmu.silentAt + 480) :
    silenceEnds c p = p := if_neg fun ⟨silent, late⟩ => h.elim (· silent) (Nat.not_lt.mpr late)

end Sys2Proof.Machine

open Sys2Proof.Machine

/-- Settles O48: the offer as its window leaves it, then the line or the wait. -/
theorem gatewayLinesSettleHandovers : Obligations.GatewayLinesSettleHandovers := by
  refine ⟨fun c p => ⟨fun none' => lineArrives_of (offerExpires_none none' c), fun o offer =>
    ⟨fun early => lineArrives_of (offerExpires_early offer early), fun late => lineArrives_of (offerExpires_late offer late)⟩⟩,
    fun s h => ?_⟩
  intro c p inFlight settled flies
  refine ⟨rfl, fun line => rfl, fun offered => ?_, fun e other found waits room => ?_, fun e other found shut => ?_,
    fun other gone => ?_, fun o offer early => ?_, fun o offer late => ?_, fun none' => ?_, fun silent late => ?_, fun calm => ?_,
    fun flying => ?_, fun landed offered => ?_, fun landed other => ?_, fun ws why => ?_, fun timed => ?_, fun young => ?_⟩
  · exact next_left (takenLine_offered (offers_iff.mpr offered))
  · have may : (e.waitsAt h.position && p.pmu.roomForLate) = true := by
      rw [waits, roomForLate_iff.mpr (by rwa [lineArrives_inflight])]
      rfl
    exact next_left ((takenLine_late (offers_false other) found).trans (if_pos may))
  · have may : ¬ (e.waitsAt h.position && p.pmu.roomForLate) = true := by
      rw [Bool.and_eq_true, roomForLate_iff, lineArrives_inflight]
      rintro ⟨waits, room⟩
      rcases shut with taken | full
      · exact nomatch taken.symm.trans waits
      · exact Nat.not_lt.mpr full room
    exact next_left ((takenLine_late (offers_false other) found).trans (if_neg may))
  · exact next_left (takenLine_gone (offers_false other) gone)
  · have window : offerExpires c (met s []) = met s [] := offerExpires_early (p := met s []) offer early
    refine ⟨fun same => ?_, fun apart => ?_, next_left window⟩
    · exact next_left ((rejectLine_of window h).trans (if_pos (offers_iff.mpr ⟨o, offer, same⟩)))
    · have other : (met s []).offers h = false := offers_false fun o' offer' => by
        cases offer.symm.trans offer'
        exact apart
      exact next_left ((rejectLine_of window h).trans (if_neg (Bool.eq_false_iff.mp other)))
  · intro q
    have window : offerExpires c (met s []) = q := offerExpires_late (p := met s []) offer late
    have other : q.offers h = false := offers_false nofun
    exact ⟨next_left ((rejectLine_of window h).trans (if_neg (Bool.eq_false_iff.mp other))), next_left window⟩
  · have window : offerExpires c (met s []) = met s [] := offerExpires_none (p := met s []) none' c
    have other : (met s []).offers h = false := offers_false fun o offer => nomatch none'.symm.trans offer
    exact ⟨next_left ((rejectLine_of window h).trans (if_neg (Bool.eq_false_iff.mp other))), next_left window⟩
  · exact next_left (silenceEnds_over (p := met s []) silent late)
  · exact next_left (silenceEnds_early (p := met s []) calm)
  · exact next_left ((resultLine_inFlight (p := met s []) flying .delivered).trans (endHandover_delivered c h p))
  · exact next_left ((resultLine_offered (p := met s []) landed offered .delivered).trans
      (endHandover_delivered c h (takeUp c h (closeOffer p))))
  · exact next_left (resultLine_stray (p := met s []) landed other .delivered)
  · intro r d
    refine ⟨fun flying other => ?_, fun n flying invalid found => ?_, fun flying invalid unknown => ?_, fun landed offered => ?_,
      fun landed other => next_left (resultLine_stray (p := met s ws) landed other d)⟩
    · exact next_left ((resultLine_inFlight (p := met s ws) flying d).trans
        (endHandover_settles (h := h) (d := d) (p := r) (.inl (failed_ne_invalid other)) c))
    · cases invalid
      exact next_left ((resultLine_inFlight (p := met s ws) flying d).trans (endHandover_bars (h := h) (p := r) found c))
    · exact next_left ((resultLine_inFlight (p := met s ws) flying d).trans
        (endHandover_settles (h := h) (d := d) (p := r) (.inr unknown) c))
    · intro u
      have run := resultLine_offered (p := met s ws) landed offered d
      refine ⟨fun plain => next_left (run.trans
        (endHandover_settles (h := h) (d := d) (p := takeUp c h (closeOffer r)) (plain.imp_left failed_ne_invalid) c)),
        fun n invalid found => ?_⟩
      cases invalid
      exact next_left (run.trans (endHandover_bars (h := h) (p := takeUp c h (closeOffer r)) found c))
  · exact next_left ((if_pos (resultTimesOut_iff (p := met s []).mpr timed)).trans (endHandover_timeout c h (met s [])))
  · refine next_left (if_neg (mt (resultTimesOut_iff (p := met s [])).mp ?_))
    rintro ⟨f, mem, same, late⟩
    exact Nat.not_le.mpr (young f mem same) late

end

section
/-!
The handover: the ranks permitted, the entry that the arbiter picks, and what one pick does (R167, R168, R171).
-/

-- One declaration after another: the text is compiled as one, and a declaration that waits for others holds a thread.
set_option Elab.async false

namespace Sys2Proof.Machine

/-! ## The arbiter -/

theorem insideWindow_iff {c : Clock} {g : Settings} :
    insideWindow c g = true ↔ ∃ t, c.second? = some t ∧ g.winStart * 60 ≤ t ∧ t < g.winEnd * 60 := by
  unfold insideWindow
  cases c.second? <;> simp

theorem permittedRanks_alert {p : Part} (alert : p.ac.alert ≠ none) (c : Clock) : permittedRanks c p = [0] := by
  unfold permittedRanks
  rw [noAlert_false alert]
  rfl

theorem permittedRanks_calm {p : Part} (calm : p.ac.alert = none) (c : Clock) :
    permittedRanks c p = if insideWindow c p.work.gateway then [0, 1, 2, 3, 4] else [0] := by
  unfold permittedRanks
  rw [(noAlert_iff p).mpr calm]
  rfl

/-- Outside the send window alerts alone are sent. -/
theorem permittedRanks_outside {c : Clock} {p : Part} (outside : insideWindow c p.work.gateway = false) :
    permittedRanks c p = [0] := by
  unfold permittedRanks
  rw [outside]
  exact ite_self _

theorem permittedRanks_ordered (c : Clock) (p : Part) : (permittedRanks c p).Pairwise (· < ·) := by
  unfold permittedRanks
  split
  · decide
  · split <;> decide

/-- The arbiter's pick: the first sendable entry of the highest permitted class that has one. -/
theorem pickEntry_spec {c : Clock} {p : Part} {e : OutEntry} (h : pickEntry c p = some e) :
    e ∈ p.pmu.outbox ∧ p.pmu.sendable e = true ∧ e.rank ∈ permittedRanks c p ∧
      (∀ f ∈ p.pmu.outbox, p.pmu.sendable f = true → f.rank ∈ permittedRanks c p → e.rank ≤ f.rank) ∧
      p.pmu.outbox.find? (fun f => f.rank == e.rank && p.pmu.sendable f) = some e := by
  obtain ⟨r, permitted, found, first⟩ := findSome?_first (permittedRanks_ordered c p) h
  have test := List.find?_some found
  rw [Bool.and_eq_true, beq_iff_eq] at test
  obtain ⟨rank, sendable⟩ := test
  refine ⟨List.mem_of_find?_eq_some found, sendable, rank ▸ permitted, fun f mem send allowed => rank ▸ ?_, rank ▸ found⟩
  have answers : p.pmu.outbox.find? (fun g => g.rank == f.rank && p.pmu.sendable g) ≠ none := fun none' => by
    have silent := List.find?_eq_none.mp none' f mem
    rw [beq_self_eq_true, send] at silent
    exact silent rfl
  exact (first _ allowed answers).elim (fun same => Nat.le_of_eq same.symm) Nat.le_of_lt

theorem pickEntry_eq_none_iff {c : Clock} {p : Part} : pickEntry c p = none ↔
    ∀ f ∈ p.pmu.outbox, p.pmu.sendable f = true → f.rank ∉ permittedRanks c p := by
  unfold pickEntry
  simp only [List.findSome?_eq_none_iff, List.find?_eq_none, Bool.and_eq_true, beq_iff_eq, not_and]
  exact ⟨fun h f mem send allowed => h _ allowed f mem rfl send, fun h r allowed f mem rank send => h f mem send (rank ▸ allowed)⟩

/-- What can be sent is READY or SENDING (R161, R167). -/
theorem sendable_iff (m : Messages) (e : OutEntry) : m.sendable e = true ↔ m.entryState e = .ready ∨ m.entryState e = .sending := by
  unfold Messages.sendable Messages.entryState
  cases e.hasWaiting
  case false => simp
  case true =>
    cases m.begun e
    case true => simp
    case false => cases e.ready <;> simp

theorem messageOf_length {img : Image} {e : OutEntry} {message : Text} (h : messageOf img e = some message) :
    message.length ≤ 160 := by
  obtain ⟨l, _, rfl⟩ := Option.map_eq_some_iff.mp h
  exact List.length_take_le _ _

/-! ## One pick -/

theorem pickOnce_unread {p : Part} {e : OutEntry} (unread : messageOf p.work e = none) (c : Clock) :
    pickOnce c e p = (follow c e.id (onEntry e.id OutEntry.failAll p), true) := by
  unfold pickOnce
  rw [unread]

section Read

variable {p : Part} {e : OutEntry} {message : Text} (read : messageOf p.work e = some message) (c : Clock)

include read

theorem pickOnce_sends {n : Nat} {ps : List Position} {x : Position} {i : Nat} (target : e.target = .slot n ps)
    (first : firstWaiting ps = some (x, i)) (usable : (p.work.contact x.contact).unusable = none) :
    pickOnce c e p = (sendTo c e i x.contact message p, false) := by
  unfold pickOnce
  rw [read, target]
  dsimp only
  rw [first]
  dsimp only
  rw [usable]

theorem pickOnce_fails {n : Nat} {ps : List Position} {x : Position} {i : Nat} {why : FailReason} (target : e.target = .slot n ps)
    (first : firstWaiting ps = some (x, i)) (unusable : (p.work.contact x.contact).unusable = some why) :
    pickOnce c e p = (follow c e.id (onEntry e.id (fun e => e.setPosition i (.failed why)) p), true) := by
  unfold pickOnce
  rw [read, target]
  dsimp only
  rw [first]
  dsimp only
  rw [unusable]

theorem pickOnce_scans {cur n x y : Nat} {f : Filter} (target : e.target = .broadcast cur f x y)
    (reached : scanContacts p.work f cur = some n) :
    pickOnce c e p = (sendTo c e n n message (onEntry e.id (fun e => e.setCursor n) p), false) := by
  unfold pickOnce
  rw [read, target]
  dsimp only
  rw [reached]

theorem pickOnce_ends {cur x y : Nat} {f : Filter} (target : e.target = .broadcast cur f x y)
    (over' : scanContacts p.work f cur = none) :
    pickOnce c e p = (follow c e.id (onEntry e.id (fun e => e.setCursor 4096) p), true) := by
  unfold pickOnce
  rw [read, target]
  dsimp only
  rw [over']
  rfl

end Read

/-! ## Picking -/

theorem pickAll_none {c : Clock} {p : Part} (h : pickEntry c p = none) (k : Nat) : pickAll c k p = p := by
  cases k with
  | zero => rfl
  | succ k =>
    unfold pickAll
    rw [h]

theorem pickAll_some {c : Clock} {p : Part} {e : OutEntry} (h : pickEntry c p = some e) (k : Nat) : pickAll c (k + 1) p
      = if (pickOnce c e p).2 then pickAll c k (pickOnce c e p).1 else (pickOnce c e p).1 := by
  rw [pickAll, h]

/-- The conditions of a handover but the last, in one proposition (R167). -/
theorem dispatchReady_iff {c : Clock} {p : Part} : dispatchReady c p = true ↔
    p.pmu.offer = none ∧ p.pmu.gateway = .ready ∧ p.pmu.inflight.length < 8 ∧
      (∀ t, p.pmu.lastSend = some t → t + p.work.gateway.pace * 16 ≤ c.crystal) ∧ p.hl.activity ≠ .dormant := by
  have paced : (p.pmu.lastSend.map (fun t => decide (t + p.work.gateway.pace * Config.sixteenths ≤ c.crystal))).getD true = true
      ↔ ∀ t, p.pmu.lastSend = some t → t + p.work.gateway.pace * 16 ≤ c.crystal := by
    cases p.pmu.lastSend with
    | none => simp
    | some t =>
      simp only [Option.map_some, Option.getD_some, decide_eq_true_iff, Option.some.injEq, forall_eq']
      rfl
  unfold dispatchReady
  rw [Bool.and_eq_true, Bool.and_eq_true, Bool.and_eq_true, Bool.and_eq_true, Option.isNone_iff_eq_none, beq_iff_eq,
    decide_eq_true_iff, bne_iff_ne, paced]
  simp only [and_assoc]
  rfl

/-- A handover that ends with its first pick. -/
theorem handOver_once {c : Clock} {p q : Part} {e : OutEntry} (ready : dispatchReady c p = true) (pick : pickEntry c p = some e)
    (once : pickOnce c e p = (q, false)) : handOver c p = q := by
  have picks := pickAll_some pick (pickBound p.pmu.outbox - 1)
  rw [once] at picks
  exact (if_pos ready).trans picks

/-- A handover whose first pick closes a place picks again. -/
theorem handOver_again {c : Clock} {p q : Part} {e : OutEntry} (ready : dispatchReady c p = true) (pick : pickEntry c p = some e)
    (once : pickOnce c e p = (q, true)) : handOver c p = pickAll c (pickBound p.pmu.outbox - 1) q := by
  have picks := pickAll_some pick (pickBound p.pmu.outbox - 1)
  rw [once] at picks
  exact (if_pos ready).trans picks

end Sys2Proof.Machine

open Sys2Proof.Machine

/-- Settles O49: the handover by its first pick, the arbiter's choice, and the bound on the picks. -/
theorem handoverSendsTheArbitersPick : Obligations.HandoverSendsTheArbitersPick := by
  refine ⟨fun s => ?_, fun c p e pick => pickEntry_spec pick, fun c p => pickEntry_eq_none_iff, sendable_iff,
    fun c p k => ⟨fun none' => pickAll_none none' k, fun e pick => pickAll_some pick k⟩,
    fun s t offer gateway room pace awake run => ?_, fun c p => ?_, fun img e message h => messageOf_length h⟩
  · intro c ready send
    have ready_iff : dispatchReady c (met s []) = true ↔ ready := dispatchReady_iff
    refine ⟨fun idle => next_left ?_, fun e message may pick read => ?_, fun e may pick unread => ?_⟩
    · rcases idle with unready | nothing
      · exact if_neg (mt ready_iff.mp unready)
      · exact (congrArg (ite _ · _) (pickAll_none (p := met s []) nothing _)).trans (ite_self _)
    · have may := ready_iff.mpr may
      exact ⟨fun n ps x i target first usable => next_left (handOver_once (p := met s []) may pick
          (pickOnce_sends (p := met s []) read c target first usable)),
        fun n ps x i why target first unusable => next_left (handOver_again (p := met s []) may pick
          (pickOnce_fails (p := met s []) read c target first unusable)),
        fun cur f x y n target reached => next_left (handOver_once (p := met s []) may pick
          (pickOnce_scans (p := met s []) read c target reached)),
        fun cur f x y target ended => next_left (handOver_again (p := met s []) may pick
          (pickOnce_ends (p := met s []) read c target ended))⟩
    · exact next_left (handOver_again (p := met s []) (ready_iff.mpr may) pick (pickOnce_unread (p := met s []) unread c))
  · have may : dispatchReady s.clock (met s []) = true := dispatchReady_iff.mpr ⟨offer, gateway, room, pace, awake⟩
    have act : handOver s.clock (met s []) = pickAll s.clock (pickBound s.part.pmu.outbox) (met s []) := if_pos may
    cases (next_left act).symm.trans run
    exact pickAll_ends s.clock _ (met s []) (openTotal_lt_pickBound s.part.pmu.outbox)
  · refine ⟨fun alert => permittedRanks_alert alert c, fun calm t reading start stop => ?_, fun t reading outside => ?_,
      fun unset => ?_⟩
    · exact (permittedRanks_calm calm c).trans (if_pos (insideWindow_iff.mpr ⟨t, reading, start, stop⟩))
    · refine permittedRanks_outside (Bool.eq_false_iff.mpr (mt insideWindow_iff.mp ?_))
      rintro ⟨u, other, start, stop⟩
      cases reading.symm.trans other
      omega
    · refine permittedRanks_outside (Bool.eq_false_iff.mpr (mt insideWindow_iff.mp ?_))
      rintro ⟨u, other, _⟩
      exact nomatch unset.symm.trans other

end

section
/-!
EARLY CLOSE: its refusals in order, the table that one taken leaves, and the period that its END names (R27, R37).
-/

-- One declaration after another: the text is compiled as one, and a declaration that waits for others holds a thread.
set_option Elab.async false

namespace Sys2Proof.Machine

/-! ## Requests given places -/

theorem Bells.tryAdd_place {b : Bells} {q : RingRequest} (h : b.hasPlace q = true) (n : Nat) :
    Bells.tryAdd (b, n) q = (b.add q, n) := if_pos h

theorem Bells.add_ring_perm (b : Bells) (q : RingRequest) :
    (b.add q).ring.Perm (q.entry (nextIssue b.ring q.zone q.period q.tone) b.nextStamp :: b.ring) := insertBy_perm _ _ _

/-- An entry of one zone leaves the issues of another. -/
theorem Bells.nextIssue_add {b : Bells} {q : RingRequest} {z : Nat} (other : q.zone ≠ z) (k : Option Nat) (t : BellTone) :
    nextIssue (b.add q).ring z k t = nextIssue b.ring z k t := by
  rw [nextIssue_perm (b.add_ring_perm q)]
  refine nextIssue_cons_ne _ _ _ _ _ ?_
  simp [RingEntry.alike, RingRequest.entry, other]

/-- Requests of distinct zones, with room and an issue for each, are all given their entry, in turn. -/
theorem Bells.foldl_tryAdd_all {qs : List RingRequest} {b : Bells} {n : Nat} (zones : (qs.map (·.zone)).Nodup)
    (room : b.ring.length + qs.length ≤ Config.ringMax)
    (issues : ∀ q ∈ qs, nextIssue b.ring q.zone q.period q.tone ≤ Config.issueMax) :
    (qs.foldl Bells.tryAdd (b, n)).1.ring.Perm (b.ring ++ (qs.zipIdx b.nextStamp).map (fun y =>
      y.1.entry (nextIssue b.ring y.1.zone y.1.period y.1.tone) y.2)) := by
  induction qs generalizing b with
  | nil => rw [List.zipIdx_nil, List.map_nil, List.append_nil]; exact .refl _
  | cons q qs ih =>
    rw [List.map_cons, List.nodup_cons] at zones
    obtain ⟨fresh, zones⟩ := zones
    have other {a : RingRequest} (mem : a ∈ qs) : q.zone ≠ a.zone := fun same =>
      fresh (same ▸ List.mem_map_of_mem (f := RingRequest.zone) mem)
    have place : b.hasPlace q = true := by
      rw [List.length_cons] at room
      exact Bool.and_eq_true_iff.mpr ⟨decide_eq_true (by omega), decide_eq_true (issues q List.mem_cons_self)⟩
    have added := b.add_ring_perm q
    have rest := ih (b := b.add q) zones (by rw [added.length_eq]; simp only [List.length_cons] at room ⊢; omega)
      (fun a mem => by rw [Bells.nextIssue_add (other mem)]; exact issues a (List.mem_cons_of_mem q mem))
    have same : (qs.zipIdx (b.add q).nextStamp).map (fun y => y.1.entry (nextIssue (b.add q).ring y.1.zone y.1.period y.1.tone) y.2)
        = (qs.zipIdx (b.nextStamp + 1)).map (fun y => y.1.entry (nextIssue b.ring y.1.zone y.1.period y.1.tone) y.2) :=
      List.map_congr_left fun y mem => by rw [Bells.nextIssue_add (other (List.fst_mem_of_mem_zipIdx mem))]
    rw [List.foldl_cons, Bells.tryAdd_place place, List.zipIdx_cons, List.map_cons]
    rw [same] at rest
    exact rest.trans ((added.append_right _).trans List.perm_middle.symm)

/-- Entries are created at their place in the order of the table. -/
theorem Bells.foldl_tryAdd_ordered (qs : List RingRequest) {x : Bells × Nat} (h : x.1.ring.Pairwise (fun e f => e.le f = true)) :
    (qs.foldl Bells.tryAdd x).1.ring.Pairwise (fun e f => e.le f = true) := by
  induction qs generalizing x with
  | nil => exact h
  | cons q qs ih =>
    refine ih ?_
    unfold Bells.tryAdd
    split
    case isTrue => exact insertBy_ordered _ _ h
    case isFalse => exact h

/-! ## The table under an early close -/

theorem closedOff_iff {after : Today} {x : Nat} {e : RingEntry} : closedOff after x e = true ↔
    e.state = .pending ∧ (x * 60 ≤ e.time ∨ ∃ k, e.period = some k ∧ after.effective k e.zone = none) := by
  unfold closedOff Today.cancelled
  rw [Bool.and_eq_true, beq_iff_eq, Bool.or_eq_true, decide_eq_true_iff]
  cases e.period <;> simp

/-- The table with its closed-off entries CANCELLED. -/
def Bells.cutAt (after : Today) (x : Nat) (b : Bells) : Bells :=
  { b with ring := b.ring.map (fun e => if closedOff after x e then e.cancel else e), today := some after }

theorem Bells.closeEarly_eq (after : Today) (x : Nat) (b : Bells) :
    b.closeEarly after x = ((after.zoneSet.map (closeEnd after x)).foldl Bells.tryAdd (b.cutAt after x, 0)).1 := by
  rw [List.foldl_map]
  rfl

/-- A CANCELLED entry keeps its issue. -/
theorem Bells.nextIssue_cutAt (after : Today) (x : Nat) (b : Bells) (z : Nat) (k : Option Nat) (t : BellTone) :
    nextIssue (b.cutAt after x).ring z k t = nextIssue b.ring z k t :=
  nextIssue_map (fun e => by split <;> exact ⟨rfl, rfl, rfl, rfl⟩) _ _ _ _

/-- A change that leaves time, zone and creation number leaves the order. -/
theorem RingEntry.ordered_map {f : RingEntry → RingEntry}
    (h : ∀ e, (f e).time = e.time ∧ (f e).zone = e.zone ∧ (f e).stamp = e.stamp) {l : List RingEntry}
    (ordered : l.Pairwise (fun e f => e.le f = true)) : (l.map f).Pairwise (fun e f => e.le f = true) := by
  rw [List.pairwise_map]
  refine ordered.imp fun {a b} le => ?_
  obtain ⟨time, zone, stamp⟩ := h a
  obtain ⟨time', zone', stamp'⟩ := h b
  unfold RingEntry.le at le ⊢
  rwa [time, zone, stamp, time', zone', stamp']

theorem Bells.closeEarly_ordered {b : Bells} (after : Today) (x : Nat) (h : b.ring.Pairwise (fun e f => e.le f = true)) :
    (b.closeEarly after x).ring.Pairwise (fun e f => e.le f = true) := by
  rw [Bells.closeEarly_eq]
  exact Bells.foldl_tryAdd_ordered _ (RingEntry.ordered_map (fun e => by split <;> exact ⟨rfl, rfl, rfl⟩) h)

theorem issuesFree_iff {b : Bells} {after : Today} {x : Nat} : b.issuesFree after x = true ↔
    ∀ z ∈ after.zones.map (·.zone), nextIssue b.ring z (closeEnd after x z).period .endBell ≤ 255 := by
  unfold Bells.issuesFree
  rw [List.all_eq_true]
  exact forall₂_congr fun z _ => decide_eq_true_iff

/-- An early close with room: an END for each zone, created in the order of the zones. -/
theorem Bells.closeEarly_ring {b : Bells} {after : Today} {x : Nat} (zones : (after.zones.map (·.zone)).Nodup)
    (room : b.ring.length + after.zones.length ≤ 192) (issues : b.issuesFree after x = true) :
    (b.closeEarly after x).ring.Perm ((b.cutAt after x).ring ++ (after.zones.zipIdx b.nextStamp).map (fun y =>
      (closeEnd after x y.1.zone).entry (nextIssue b.ring y.1.zone (closeEnd after x y.1.zone).period .endBell) y.2)) := by
  have same : (after.zoneSet.map (closeEnd after x)).map (·.zone) = after.zones.map (·.zone) := by
    rw [List.map_map]
    exact List.map_id _
  have all := Bells.foldl_tryAdd_all (qs := after.zoneSet.map (closeEnd after x)) (b := b.cutAt after x) (n := 0)
    (same ▸ zones) (by simpa [Bells.cutAt, Today.zoneSet, Config.ringMax] using room)
    (fun q mem => by
      obtain ⟨z, member, rfl⟩ := List.mem_map.mp mem
      rw [Bells.nextIssue_cutAt]
      exact issuesFree_iff.mp issues z member)
  rw [Bells.closeEarly_eq]
  refine all.trans (.of_eq (congrArg _ ?_))
  rw [Today.zoneSet, List.map_map, List.zipIdx_map, List.map_map]
  exact List.map_congr_left fun y _ => by
    rw [Function.comp_apply, Bells.nextIssue_cutAt]
    rfl

/-! ## The period in progress -/

theorem inProgress_some {t : Today} {x z k : Nat} (h : t.inProgress x z = some k) :
    ∃ q se, t.plan.periods[k]? = some q ∧ t.baseTimes q z = some se ∧ se.1 < x * 60 ∧ x * 60 < se.2 := by
  have test := List.find?_some h
  split at test
  case h_1 => cases test
  case h_2 s e times =>
    obtain ⟨q, period, base⟩ := Option.bind_eq_some_iff.mp times
    rw [Bool.and_eq_true, decide_eq_true_iff, decide_eq_true_iff] at test
    exact ⟨q, (s, e), period, base, test⟩

theorem inProgress_none {t : Today} {x z : Nat} (h : t.inProgress x z = none) {k : Nat} {q : Period} {se : Nat × Nat}
    (period : t.plan.periods[k]? = some q) (base : t.baseTimes q z = some se) : ¬ (se.1 < x * 60 ∧ x * 60 < se.2) := by
  obtain ⟨below, _⟩ := List.getElem?_eq_some_iff.mp period
  have test := List.find?_eq_none.mp h k (List.mem_range.mpr below)
  have times : (t.period? k).bind (fun q => t.baseTimes q z) = some se := Option.bind_eq_some_iff.mpr ⟨q, period, base⟩
  rw [times] at test
  dsimp only at test
  rwa [Bool.and_eq_true, decide_eq_true_iff, decide_eq_true_iff] at test

theorem closeEnd_inProgress {t : Today} {x z k : Nat} (h : t.inProgress x z = some k) : (closeEnd t x z).period = some k := by
  unfold closeEnd
  rw [h]

theorem closeEnd_idle {t : Today} {x z : Nat} (h : t.inProgress x z = none) : (closeEnd t x z).period = t.lastPeriod z := by
  unfold closeEnd
  rw [h]

/-! ## The request -/

theorem earlyClose_outOfRange {x : Nat} (h : 1439 < x) (c : Clock) (p : Part) : earlyCloseRequest c x p = refuse .range p := if_pos h

theorem earlyClose_closed {x : Nat} {p : Part} (range : x ≤ 1439) (closed : p.openDay = none) (c : Clock) :
    earlyCloseRequest c x p = refuse .state p := by
  unfold earlyCloseRequest
  rw [if_neg (Nat.not_lt.mpr range), closed]

section Open

variable {c : Clock} {x : Nat} {p : Part} {r : DayRecord} {t : Today} (range : x ≤ 1439) (opened : p.openDay = some r)
  (copy : p.bells.today = some t)

include range opened copy

theorem earlyClose_past (past : x * 60 ≤ c.dayNow r) : earlyCloseRequest c x p = refuse .range p := by
  unfold earlyCloseRequest
  rw [if_neg (Nat.not_lt.mpr range), opened, copy]
  exact if_pos past

variable (ahead : c.dayNow r < x * 60)

include ahead

theorem earlyClose_later {y : Nat} (early : t.early = some y) (earlier : y ≤ x) : earlyCloseRequest c x p = refuse .state p := by
  unfold earlyCloseRequest
  rw [if_neg (Nat.not_lt.mpr range), opened, copy]
  dsimp only
  rw [if_neg (Nat.not_le.mpr ahead), early]
  exact if_pos (decide_eq_true earlier)

variable (first : ∀ y, t.early = some y → x < y)

include first

/-- Past its checks of the clock and of an earlier X, an early close turns on its room (R37). -/
theorem earlyClose_byRoom : earlyCloseRequest c x p
      = if p.bells.free < t.zones.length ∨ (!p.bells.issuesFree { t with early := some x } x) = true then refuse .full p
        else closeToday c x t p := by
  have first : (t.early.map (fun y => decide (y ≤ x))).getD false = false := by
    cases early : t.early with
    | none => rfl
    | some y => exact decide_eq_false (Nat.not_le.mpr (first y early))
  unfold earlyCloseRequest
  rw [if_neg (Nat.not_lt.mpr range), opened, copy]
  dsimp only
  rw [if_neg (Nat.not_le.mpr ahead), first, if_neg (by decide), Today.zoneSet, List.length_map]

end Open

end Sys2Proof.Machine

open Sys2Proof.Machine

/-- Settles O21: the request in its order of decision, the table, and the period of the END entries. -/
theorem earlyCloseInOrder : Obligations.EarlyCloseInOrder := by
  refine ⟨fun s sfx x ws listening => ⟨fun out => ?_, fun range closed => ?_, fun r t range opened copy => ?_⟩,
    fun b after x zones room issues => ?_, fun after x z => ⟨fun k running => ⟨closeEnd_inProgress running, inProgress_some running⟩,
      fun idle => ⟨closeEnd_idle idle, fun k q se period base => inProgress_none idle period base⟩⟩,
    fun b after x => issuesFree_iff⟩
  · exact request_refuses listening (ws' := ws) (earlyClose_outOfRange out _ _)
  · exact request_refuses listening (ws' := ws) (earlyClose_closed (p := heard s ws) range closed _)
  · refine ⟨fun past => request_refuses listening (ws' := ws) (earlyClose_past (p := heard s ws) range opened copy past),
      fun ahead early => ?_, fun ahead first full => ?_, fun ahead first room => ?_, fun ahead first room used => ?_⟩
    · obtain ⟨y, early, earlier⟩ := early
      exact request_refuses listening (ws' := ws) (earlyClose_later (p := heard s ws) range opened copy ahead early earlier)
    · exact request_refuses listening (ws' := ws)
        ((earlyClose_byRoom (p := heard s ws) range opened copy ahead first).trans (if_pos (.inl full)))
    · intro after issues
      refine request_answers listening ((earlyClose_byRoom (p := heard s ws) range opened copy ahead first).trans (if_neg ?_))
      rintro (full | used)
      · exact Nat.not_lt.mpr room full
      · rw [show (heard s ws).bells.issuesFree _ x = true from issues] at used
        cases used
    · refine request_refuses listening (ws' := ws)
        ((earlyClose_byRoom (p := heard s ws) range opened copy ahead first).trans (if_pos (.inr ?_)))
      rw [show (heard s ws).bells.issuesFree _ x = false from used]
      rfl
  · intro cut ends r
    obtain ⟨today, _, zoneStates⟩ := Bells.closeEarly_rest after x b
    have cut_eq : (b.cutAt after x).ring = cut := List.map_congr_left fun e _ => if_congr closedOff_iff rfl rfl
    have ring := Bells.closeEarly_ring zones room issues
    rw [cut_eq] at ring
    exact ⟨ring, today, zoneStates, Bells.closeEarly_ordered after x⟩

end

section
/-!
PLAN TODAY: the request by the day record, and the records of the rebuilt register (R38, R94).
-/

-- One declaration after another: the text is compiled as one, and a declaration that waits for others holds a thread.
set_option Elab.async false

namespace Sys2Proof.Machine

/-! ## The request -/

theorem planToday_outOfRange {n : Nat} (h : 7 < n) (c : Clock) (p : Part) : planTodayRequest c n p = refuse .range p := if_pos h

theorem planToday_noRecord {n : Nat} {p : Part} (range : n ≤ 7) (h : p.day = none) (c : Clock) :
    planTodayRequest c n p = refuse .state p := by
  unfold planTodayRequest
  rw [if_neg (Nat.not_lt.mpr range), h]

/-- A CLOSED record takes the plan when it is a SCHOOL record not done (R38). -/
theorem planToday_closed {n : Nat} {p : Part} {r : DayRecord} (range : n ≤ 7) (record : p.day = some r) (closed : r.phase = .closed)
    (c : Clock) : planTodayRequest c n p = if r.kind = .school ∧ r.phase = .closed ∧ !r.done then
      (dayTests c { p with day := some { r with plan := some n } }, ok []) else refuse .state p := by
  unfold planTodayRequest
  rw [if_neg (Nat.not_lt.mpr range), record]
  dsimp only
  split
  case h_1 opened _ => exact nomatch opened.symm.trans closed
  case h_2 => rfl

/-- An OPEN record takes the plan while its table is all PENDING (R38). -/
theorem planToday_open {n : Nat} {p : Part} {r : DayRecord} {t : Today} (range : n ≤ 7) (record : p.day = some r)
    (opened : r.phase = .opened) (copy : p.bells.today = some t) (c : Clock) : planTodayRequest c n p
      = if p.bells.ring.all (fun e => e.state == .pending) then replanOpen c n r t p else refuse .state p := by
  unfold planTodayRequest
  rw [if_neg (Nat.not_lt.mpr range), record]
  dsimp only
  rw [opened, copy]

theorem all_pending_iff {l : List RingEntry} : l.all (fun e => e.state == .pending) = true ↔ ∀ e ∈ l, e.state = .pending := by
  rw [List.all_eq_true]
  exact forall₂_congr fun e _ => beq_iff_eq

/-! ## The records -/

theorem carriedMark_cancelled {t : Today} {z : Nat} {m : MarkedPeriod} (h : t.cancelled m.number z = true) (old : List Mark) :
    carriedMark t z old m = Mark.notRequiredAt (some t.openReading) m := if_pos h

theorem carriedMark_carried {t : Today} {z : Nat} {old : List Mark} {m : MarkedPeriod} {x : Reg} {a : Mark}
    (h : t.cancelled m.number z = false) (reg : m.reg = some x) (found : old.find? (fun o => o.period.reg == some x) = some a) :
    carriedMark t z old m = { a with period := m } := by
  unfold carriedMark
  rw [h, reg, Option.bind_some, found]
  rfl

theorem carriedMark_unset {t : Today} {z : Nat} {old : List Mark} {m : MarkedPeriod} (h : t.cancelled m.number z = false)
    (fresh : ∀ x, m.reg = some x → ∀ o ∈ old, o.period.reg ≠ some x) : carriedMark t z old m = Mark.unset m (freshNotice m) := by
  have none' : m.reg.bind (fun x => old.find? (fun a => a.period.reg == some x)) = none := by
    cases reg : m.reg with
    | none => rfl
    | some x => exact List.find?_eq_none.mpr fun o mem => by rw [beq_iff_eq]; exact fresh x reg o mem
  unfold carriedMark
  rw [h, none']
  rfl

end Sys2Proof.Machine

open Sys2Proof.Machine

/-- Settles O22: the request by its day record, each record of the new plan, and the register that it leaves. -/
theorem planTodayByTheDayRecord : Obligations.PlanTodayByTheDayRecord := by
  refine ⟨fun s sfx n ws listening => ⟨fun out => ?_, fun range none' => ?_, fun r range record closed => ?_,
    fun r t range record opened copy => ?_⟩, fun t z old m => ?_, fun c t p g register ids => ?_⟩
  · exact request_refuses listening (ws' := ws) (planToday_outOfRange out _ _)
  · exact request_refuses listening (ws' := ws) (planToday_noRecord (p := heard s ws) range none' _)
  · have run := planToday_closed (p := heard s ws) range record closed s.clock
    refine ⟨fun school undone => request_answers listening (run.trans (if_pos ⟨school, closed, by rw [undone]; rfl⟩)),
      fun over' => request_refuses listening (ws' := ws) (run.trans (if_neg ?_))⟩
    rintro ⟨school, _, undone⟩
    rcases over' with holiday | done
    · exact nomatch school.symm.trans holiday
    · rw [done] at undone
      cases undone
  · have run := planToday_open (p := heard s ws) range record opened copy s.clock
    refine ⟨fun begun => request_refuses listening (ws' := ws) (run.trans (if_neg fun pending => ?_)), fun pending => ?_⟩
    · obtain ⟨e, mem, left'⟩ := begun
      exact left' (all_pending_iff.mp pending e mem)
    · exact request_answers listening (run.trans (if_pos (all_pending_iff.mpr pending)))
  · exact ⟨fun cancelled => carriedMark_cancelled cancelled old, fun a x running reg found => carriedMark_carried running reg found,
      fun running fresh => carriedMark_unset running fresh⟩
  · exact ⟨_, registerAfterPlan_reg c t p g register ids, rfl, rfl, rfl, rfl, rfl,
      fun n x held => renewSlots_get _ g.slots g.changes p.work.slots n x held⟩

end

section
/-!
The table under a delay: what moves, what is cancelled, the END entries made anew and the fresh warnings (R34 to R36).
-/

-- One declaration after another: the text is compiled as one, and a declaration that waits for others holds a thread.
set_option Elab.async false

namespace Sys2Proof.Machine

/-! ## In time -/

theorem registrationRings_iff {t : Today} :
    t.registrationRings = true ↔ ∃ q ∈ t.plan.periods, q.kind = .registration ∧ q.ring = true := by
  unfold Today.registrationRings
  rw [List.any_eq_true]
  exact exists_congr fun q => and_congr_right fun _ => by rw [Bool.and_eq_true, beq_iff_eq]

theorem begunRegistration_eq_false_iff {b : Bells} {t : Today} : b.begunRegistration t = false ↔
    ∀ e ∈ b.ring, ∀ k q, e.tone = .ring → e.period = some k → t.plan.periods[k]? = some q → q.kind = .registration →
      e.state = .pending := by
  unfold Bells.begunRegistration
  rw [List.any_eq_false]
  refine forall₂_congr fun e _ => ?_
  rw [Bool.and_eq_true, Bool.and_eq_true, beq_iff_eq, bne_iff_ne]
  constructor
  · intro still k q ring period plan kind
    by_contra begun
    exact still ⟨⟨ring, begun⟩, by rw [period, Option.bind_some, Today.period?, plan]; exact beq_iff_eq.mpr kind⟩
  · rintro still ⟨⟨ring, begun⟩, registration⟩
    cases period : e.period with
    | none => rw [period] at registration; cases registration
    | some k =>
      rw [period, Option.bind_some, Today.period?] at registration
      cases plan : t.plan.periods[k]? with
      | none => rw [plan] at registration; cases registration
      | some q =>
        rw [plan] at registration
        exact begun (still k q ring period plan (beq_iff_eq.mp registration))

/-- Where registration rings, a delay is in time while every REGISTRATION RING entry is PENDING (R34). -/
theorem delayInTime_ringing {t : Today} (h : ∃ q ∈ t.plan.periods, q.kind = .registration ∧ q.ring = true) (now : Nat) (b : Bells) :
    delayInTime now t b = true ↔ ∀ e ∈ b.ring, ∀ k q, e.tone = .ring → e.period = some k → t.plan.periods[k]? = some q →
      q.kind = .registration → e.state = .pending := by
  unfold delayInTime
  rw [registrationRings_iff.mpr h, if_pos rfl, Bool.not_eq_true', begunRegistration_eq_false_iff]

theorem lt_least_iff {l : List Nat} (h : l ≠ []) (n : Nat) : n < (least l).getD 0 ↔ ∀ k ∈ l, n < k := by
  obtain ⟨m, mem, low, eq⟩ := least_spec h
  rw [eq]
  exact ⟨fun lt k hk => Nat.lt_of_lt_of_le lt (low k hk), fun all => all m mem⟩

theorem Today.terms_ne_nil (t : Today) : t.terms ≠ [] := by
  rw [Today.terms_eq]
  split
  case isTrue => exact List.cons_ne_nil _ _
  case isFalse some' => exact mt List.map_eq_nil_iff.mp some'

/-- Where no registration rings, a delay is in time before the least start of AM (R34, log 38). -/
theorem delayInTime_silent {t : Today} {k : Nat} {q : Period} (h : ∀ q ∈ t.plan.periods, q.kind = .registration → q.ring = false)
    (am : t.reg? .am = some k) (plan : t.plan.periods[k]? = some q) (now : Nat) (b : Bells) :
    delayInTime now t b = true ↔ ∀ z ∈ (if t.zones = [] then [6] else t.zones.map (·.zone)),
      now < ((q.start : Int) * 60 + ((t.zone? z).map (·.offset)).getD 0 + (t.delayTotal : Int) * 60).toNat := by
  have silent : ¬ t.registrationRings = true := by
    rw [registrationRings_iff]
    rintro ⟨q, mem, kind, ring⟩
    exact nomatch (h q mem kind).symm.trans ring
  unfold delayInTime
  rw [if_neg silent, am, Option.bind_some, Today.period?, plan]
  dsimp only
  rw [decide_eq_true_iff, lt_least_iff (by rw [ne_eq, List.map_eq_nil_iff]; exact t.terms_ne_nil), ← Today.terms_eq]
  simp only [List.forall_mem_map, Today.rawStart_eq]

/-! ## What a delay moves and cancels -/

theorem cutOff_delayed (before after : Today) (a : Nat) (e : RingEntry) :
    cutOff before after (e.delayed a) = cutOff before after e := by
  unfold RingEntry.delayed
  split <;> rfl

theorem delayed_zone (a : Nat) (e : RingEntry) : (e.delayed a).zone = e.zone := by
  unfold RingEntry.delayed
  split <;> rfl

theorem delayed_tone (a : Nat) (e : RingEntry) : (e.delayed a).tone = e.tone := by
  unfold RingEntry.delayed
  split <;> rfl

/-- An entry under a delay: moved while PENDING, and CANCELLED where its period no longer stands (R35). -/
def RingEntry.underDelay (before after : Today) (a : Nat) (e : RingEntry) : RingEntry :=
  if cutOff before after (e.delayed a) then (e.delayed a).cancel else e.delayed a

theorem underDelay_key (before after : Today) (a : Nat) (e : RingEntry) :
    (e.underDelay before after a).zone = e.zone ∧ (e.underDelay before after a).period = e.period ∧
      (e.underDelay before after a).tone = e.tone ∧ (e.underDelay before after a).issue = e.issue := by
  unfold RingEntry.underDelay RingEntry.delayed
  split <;> split <;> exact ⟨rfl, rfl, rfl, rfl⟩

theorem underDelay_eq (before after : Today) (a : Nat) (e : RingEntry) : e.underDelay before after a
      = if cutOff before after e then { e with time := e.time + a, state := .cancelled }
        else if e.state = .pending ∧ e.byEarlyClose = false then { e with time := e.time + a } else e := by
  unfold RingEntry.underDelay
  rw [cutOff_delayed]
  split
  case isTrue cut =>
    unfold cutOff at cut
    rw [Bool.and_eq_true, Bool.and_eq_true, beq_iff_eq] at cut
    obtain ⟨⟨pending, regular⟩, _⟩ := cut
    unfold RingEntry.delayed
    rw [if_pos ⟨pending, regular⟩]
    rfl
  case isFalse => exact if_congr (by rw [Bool.not_eq_true']) rfl rfl

/-- The zones that have lost their END, in rising order (R35, log 79). -/
theorem lostEnds_eq (before after : Today) (a : Nat) (l : List RingEntry) :
    zoneNumbers.filter (fun z => (((l.map (RingEntry.delayed a)).filter
        (fun e => cutOff before after e && e.tone == .endBell)).map (·.zone)).contains z)
      = zoneNumbers.filter (fun z => l.any (fun e => cutOff before after e && e.tone == .endBell && e.zone == z)) := by
  refine List.filter_congr fun z _ => ?_
  rw [Bool.eq_iff_iff, List.contains_iff_mem, List.any_eq_true]
  simp only [List.mem_map, List.mem_filter, exists_exists_and_eq_and, and_assoc, cutOff_delayed, delayed_tone, delayed_zone,
    Bool.and_eq_true, beq_iff_eq]

/-- The table before the entries of a delay are made. -/
def Bells.moved (before after : Today) (a : Nat) (b : Bells) : Bells :=
  { b with ring := sortBy RingEntry.le (b.ring.map (RingEntry.underDelay before after a)), today := some after }

/-- The END entries made anew (R35). -/
def Bells.newEnds (now : Nat) (before after : Today) (b : Bells) : List RingRequest :=
  (zoneNumbers.filter (fun z => b.ring.any (fun e => cutOff before after e && e.tone == .endBell && e.zone == z))).flatMap
    (newEnd now after)

/-- The warnings given again (R36). -/
def Bells.newWarns (now : Nat) (before after : Today) (a : Nat) (b : Bells) : List RingRequest :=
  (sortBy RingEntry.le (b.ring.map (RingEntry.underDelay before after a))).flatMap (freshWarn now after b.ring)

/-- A delay moves the table, then makes the END entries and the fresh warnings in turn. -/
theorem Bells.delay_eq (now : Nat) (before after : Today) (a : Nat) (b : Bells) : b.delay now before after a
      = (b.newEnds now before after ++ b.newWarns now before after a).foldl Bells.tryAdd (b.moved before after a, 0) := by
  unfold Bells.delay
  dsimp only
  rw [List.foldl_append, lostEnds_eq, List.map_map]
  rfl

/-! ## END entries and warnings -/

theorem newEnd_at {t : Today} {z k : Nat} {se : Nat × Nat} (last : t.lastPeriod z = some k) (times : t.effective k z = some se)
    (now : Nat) : newEnd now t z = if now < se.2 then [⟨z, some k, .endBell, se.2, none, false⟩] else [] := by
  unfold newEnd buildEnd
  rw [last]
  dsimp only
  rw [times]
  by_cases later : now < se.2 <;> simp [later]

theorem newEnd_none {t : Today} {z : Nat} (last : t.lastPeriod z = none) (now : Nat) : newEnd now t z = [] := by
  unfold newEnd buildEnd
  rw [last]
  rfl

theorem alike_iff {z : Nat} {k : Option Nat} {t : BellTone} {e : RingEntry} :
    RingEntry.alike z k t e = true ↔ e.zone = z ∧ e.period = k ∧ e.tone = t := by
  unfold RingEntry.alike
  rw [Bool.and_eq_true, Bool.and_eq_true, beq_iff_eq, beq_iff_eq, beq_iff_eq, and_assoc]

/-- An entry is below the next issue of its zone, period and tone. -/
theorem issue_lt_nextIssue {l : List RingEntry} {z : Nat} {k : Option Nat} {t : BellTone} {e : RingEntry} (mem : e ∈ l)
    (alike : RingEntry.alike z k t e = true) : e.issue < nextIssue l z k t := by
  have member : e.issue ∈ (l.filter (RingEntry.alike z k t)).map (·.issue) :=
    List.mem_map_of_mem (List.mem_filter.mpr ⟨mem, alike⟩)
  obtain ⟨m, _, high, eq⟩ := greatest_spec (List.ne_nil_of_mem member)
  unfold nextIssue
  rw [eq]
  exact Nat.lt_succ_of_le (high _ member)

/-- The next issue follows the greatest one. -/
theorem nextIssue_of_greatest {l : List RingEntry} {z : Nat} {k : Option Nat} {t : BellTone} {w : RingEntry} (mem : w ∈ l)
    (alike : RingEntry.alike z k t w = true) (top : ∀ v ∈ l, RingEntry.alike z k t v = true → v.issue ≤ w.issue) :
    nextIssue l z k t = w.issue + 1 := by
  have member : w.issue ∈ (l.filter (RingEntry.alike z k t)).map (·.issue) :=
    List.mem_map_of_mem (List.mem_filter.mpr ⟨mem, alike⟩)
  obtain ⟨m, among, high, eq⟩ := greatest_spec (List.ne_nil_of_mem member)
  obtain ⟨v, found, rfl⟩ := List.mem_map.mp among
  obtain ⟨vmem, valike⟩ := List.mem_filter.mp found
  unfold nextIssue
  rw [eq, Option.getD_some, Nat.le_antisymm (top v vmem valike) (high _ member)]

theorem lastWarn_spec {l : List RingEntry} {k z : Nat} {w : RingEntry} (h : lastWarn l k z = some w) :
    w ∈ l ∧ RingEntry.alike z (some k) .warn w = true ∧ w.issue + 1 = nextIssue l z (some k) .warn := by
  obtain ⟨mem, alike⟩ := List.mem_filter.mp (List.mem_of_find?_eq_some h)
  exact ⟨mem, alike, beq_iff_eq.mp (List.find?_some h :)⟩

/-- The one warning of the highest issue is the last one. -/
theorem lastWarn_of_greatest {l : List RingEntry} {k z : Nat} {w : RingEntry} (mem : w ∈ l)
    (alike : RingEntry.alike z (some k) .warn w = true)
    (top : ∀ v ∈ l, RingEntry.alike z (some k) .warn v = true → v.issue ≤ w.issue ∧ (v.issue = w.issue → v = w)) :
    lastWarn l k z = some w := by
  have next := nextIssue_of_greatest mem alike fun v vmem valike => (top v vmem valike).1
  cases found : lastWarn l k z with
  | none =>
    have none' := List.find?_eq_none.mp found w (List.mem_filter.mpr ⟨mem, alike⟩)
    rw [next, beq_self_eq_true] at none'
    exact (none' rfl).elim
  | some v =>
    obtain ⟨vmem, valike, issue⟩ := lastWarn_spec found
    rw [(top v vmem valike).2 (Nat.succ.inj (issue.trans next))]

theorem warned_iff {x : RingState} : x.warned = true ↔ x = .due ∨ x = .sounding ∨ x = .rung := by
  unfold RingState.warned
  rw [Bool.or_eq_true, Bool.or_eq_true, beq_iff_eq, beq_iff_eq, beq_iff_eq, or_assoc]

/-- The lead of a zone in today's copy, 0 outside it. -/
def Today.leadOf (t : Today) (z : Nat) : Nat := ((t.zone? z).map (·.lead)).getD 0

theorem freshWarn_manual {e : RingEntry} (h : e.period = none) (now : Nat) (t : Today) (l : List RingEntry) :
    freshWarn now t l e = [] := by
  unfold freshWarn
  rw [h]

theorem freshWarn_period {e : RingEntry} {k : Nat} (h : e.period = some k) (now : Nat) (t : Today) (l : List RingEntry) :
    freshWarn now t l e = if e.tone = .ring ∧ e.state = .pending ∧ ((lastWarn l k e.zone).map (fun w => w.state.warned)).getD false
        ∧ now < e.time - t.leadOf e.zone then
      [⟨e.zone, some k, .warn, e.time - t.leadOf e.zone, none, false⟩] else [] := by
  unfold freshWarn
  rw [h]
  rfl

/-- A fresh warning stands for a RING entry whose warning was given and whose new warning is yet to come (R36). -/
theorem mem_freshWarn {now : Nat} {t : Today} {l : List RingEntry} {e : RingEntry} {q : RingRequest} (h : q ∈ freshWarn now t l e) :
    ∃ k w, e.period = some k ∧ e.tone = .ring ∧ e.state = .pending ∧ lastWarn l k e.zone = some w ∧ w.state.warned = true ∧
      now < e.time - t.leadOf e.zone ∧ q = ⟨e.zone, some k, .warn, e.time - t.leadOf e.zone, none, false⟩ := by
  cases period : e.period with
  | none => rw [freshWarn_manual period] at h; cases h
  | some k =>
    rw [freshWarn_period period] at h
    split at h
    case isFalse => cases h
    case isTrue test =>
      obtain ⟨ring, pending, warned, later⟩ := test
      cases found : lastWarn l k e.zone with
      | none => rw [found] at warned; cases warned
      | some w =>
        rw [found] at warned
        exact ⟨k, w, rfl, ring, pending, found, warned, later, List.mem_singleton.mp h⟩

end Sys2Proof.Machine
end

section
/-!
DELAY: the request, the table it leaves, and what a change of the effective times does to the register and the sweeps (R34, R92,
R134, R135, R144).
-/

-- One declaration after another: the text is compiled as one, and a declaration that waits for others holds a thread.
set_option Elab.async false

namespace Sys2Proof.Machine

/-! ## The request -/

theorem delay_outOfRange {d : Nat} (h : d < 5 ∨ 120 < d) (c : Clock) (p : Part) : delayRequest c d p = refuse .range p := if_pos h

theorem delay_unset {d : Nat} {c : Clock} (low : 5 ≤ d) (high : d ≤ 120) (unset : c.reading = none) (p : Part) :
    delayRequest c d p = refuse .state p := by
  unfold delayRequest
  rw [if_neg (by omega), unset]
  rfl

theorem delay_pending {d : Nat} {c : Clock} {p : Part} (low : 5 ≤ d) (high : d ≤ 120) (set : c.reading ≠ none)
    (closed : p.openDay = none) : delayRequest c d p = delayPending c d p := by
  unfold delayRequest
  rw [if_neg (by omega), if_neg (by rwa [Option.isNone_iff_eq_none]), closed]

/-- A delay of the open day, while it is in time (R34). -/
theorem delay_open {d : Nat} {c : Clock} {p : Part} {r : DayRecord} {t : Today} (low : 5 ≤ d) (high : d ≤ 120)
    (set : c.reading ≠ none) (opened : p.openDay = some r) (copy : p.bells.today = some t) : delayRequest c d p
      = if delayInTime (c.dayNow r) t p.bells then delayToday c d t p else refuse .tooLate p := by
  unfold delayRequest
  rw [if_neg (by omega), if_neg (by rwa [Option.isNone_iff_eq_none]), opened, copy]

/-- A delay already at its greatest stands (R34). -/
theorem delayToday_full {t : Today} (full : t.delayTotal = 120) (c : Clock) (d : Nat) (p : Part) :
    delayToday c d t p = (p, ok [nat 120, nat 0]) := by
  have total : min (t.delayTotal + d) Config.delayMax = 120 := by
    rw [full]
    exact Nat.min_eq_right (Nat.le_add_right _ _)
  unfold delayToday
  rw [total, full]
  exact if_pos rfl

theorem delayToday_taken {t : Today} {d : Nat} (low : 5 ≤ d) (less : t.delayTotal < 120) (c : Clock) (p : Part) :
    delayToday c d t p
      = (timesChanged c t { t with delayTotal := min (t.delayTotal + d) 120 }
          { p with bells := (p.bells.delay (p.now c) t { t with delayTotal := min (t.delayTotal + d) 120 }
            ((min (t.delayTotal + d) 120 - t.delayTotal) * 60)).1 },
        ok [nat (min (t.delayTotal + d) 120), nat (p.bells.delay (p.now c) t { t with delayTotal := min (t.delayTotal + d) 120 }
            ((min (t.delayTotal + d) 120 - t.delayTotal) * 60)).2]) := by
  have moves : ¬ min (t.delayTotal + d) Config.delayMax = t.delayTotal := by
    show ¬ min (t.delayTotal + d) 120 = t.delayTotal
    omega
  unfold delayToday
  exact if_neg moves

/-! ## The register -/

theorem newlyCancelled_eq (before after : Today) (k z : Nat) :
    newlyCancelled before after k z = ((before.effective k z).isSome && (after.effective k z).isNone) := by
  unfold newlyCancelled Today.cancelled
  rw [Option.not_isNone]

/-- NOT_REQUIRED from SYSTEM, slot by slot and period by period (R92, log 23). -/
theorem cancellationWrites_eq {p : Part} {g : Register} (h : p.reg.register = some g) (c : Clock) (before after : Today) :
    cancellationWrites c before after p = p.work.slots.foldl (fun q e =>
      ((g.periods.map (·.number)).filter (fun k =>
        (before.effective k e.2.zone).isSome && (after.effective k e.2.zone).isNone)).foldl
        (fun q k => (writeMark c ⟨.system, .notRequired, none, 0, none⟩ e.1 k q).1) q) p := by
  unfold cancellationWrites Part.register?
  rw [h]
  unfold Register.cancelledNow
  simp only [newlyCancelled_eq]
  rfl

/-- A record is known by its bare part and its notice. -/
theorem Mark.eq_of_bare {m y : Mark} (h : y.bare = m.bare) : y = { m with notice := y.notice } := by
  obtain ⟨_, _, _, _, _, _, _, _⟩ := m
  obtain ⟨_, _, _, _, _, _, _, _⟩ := y
  cases h
  rfl

/-- What the cancellation writes leave of a record, its notice apart (R92). -/
theorem cancellationWrites_mark? {p : Part} {g : Register} {n k : Nat} {x : Slot} {m : Mark} (h : p.reg.register = some g)
    (wf : Table.wf p.work.slots = true) (slot : p.slot? n = some x) (record : p.mark? n k = some m) (c : Clock)
    (before after : Today) : ((cancellationWrites c before after p).mark? n k).map Mark.bare
      = some (if (k ∈ g.periods.map (·.number) ∧ before.effective k x.zone ≠ none ∧ after.effective k x.zone = none)
          ∧ m.source ≠ some .office then notRequiredBare c m else m.bare) := by
  have all := cancelAll_marks c (fun y => (g.periods.map (·.number)).filter (fun k =>
    (before.effective k y.zone).isSome && (after.effective k y.zone).isNone)) n k _ rfl p.work.slots
    ((Table.wf_iff _).mp wf) p m (by rw [record]; rfl)
  have off : (∃ y, Table.get? p.work.slots n = some y ∧ k ∈ (g.periods.map (·.number)).filter (fun k =>
      (before.effective k y.zone).isSome && (after.effective k y.zone).isNone))
      ↔ k ∈ g.periods.map (·.number) ∧ before.effective k x.zone ≠ none ∧ after.effective k x.zone = none := by
    rw [show Table.get? p.work.slots n = some x from slot]
    simp only [Option.some.injEq, exists_eq_left', List.mem_filter, Bool.and_eq_true, Option.isSome_iff_ne_none,
      Option.isNone_iff_eq_none]
  rw [cancellationWrites_eq h, all]
  exact congrArg some (if_congr (and_congr_left fun _ => off) rfl rfl)

/-! ## The sweeps -/

theorem startDue_closed {p : Part} (h : p.openDay = none) (c : Clock) : startDue c p = p := by
  unfold startDue
  rw [h]

/-- The sweeps after a change of the effective times, before any starts. -/
def recutSweeps (t : Today) (p : Part) : Part := { p with sweeps := p.sweeps.map (fun x s => (s.skipCancelled t x).recut t x) }

theorem sweepsAfterTimes_eq (c : Clock) (t : Today) (p : Part) : sweepsAfterTimes c t p = startDue c (recutSweeps t p) := rfl

theorem sweepsAfterTimes_touches (c : Clock) (t : Today) (p : Part) :
    ∃ l, sweepsAfterTimes c t p = { p with sweeps := l } ∧ l.resume = p.sweeps.resume := by
  obtain ⟨l, eq, resume⟩ := startDue_touches c (recutSweeps t p)
  exact ⟨l, eq, resume.trans (Sweeps.map_resume _ _)⟩

theorem recutSweeps_get? (t : Today) (p : Part) (x : Reg) :
    (recutSweeps t p).sweeps.get? x = (p.sweeps.get? x).map (fun s => (s.skipCancelled t x).recut t x) := Sweeps.get?_map _ _ _

theorem Sweep.skipCancelled_kept {t : Today} {x : Reg} {w : Sweep} (h : t.cutoffOf x ≠ none ∨ w.state = .done) :
    w.skipCancelled t x = w := by
  refine if_neg fun ⟨cancelled, state⟩ => ?_
  exact h.elim (· (Option.isNone_iff_eq_none.mp cancelled)) state

theorem Sweep.after_cancelled {t : Today} {x : Reg} {w : Sweep} (cancelled : t.cutoffOf x = none) (state : w.state ≠ .done) :
    (w.skipCancelled t x).recut t x = { w with state := .skipped, cutoff := none } := by
  unfold Sweep.skipCancelled
  rw [if_pos ⟨Option.isNone_iff_eq_none.mpr cancelled, state⟩]
  exact if_neg nofun

theorem Sweep.after_done {t : Today} {w : Sweep} (x : Reg) (state : w.state = .done) : (w.skipCancelled t x).recut t x = w := by
  rw [Sweep.skipCancelled_kept (.inr state)]
  exact if_neg (by rw [state]; nofun)

theorem Sweep.after_cutoff {t : Today} {x : Reg} {w : Sweep} {k : Nat} (cutoff : t.cutoffOf x = some k) :
    (w.skipCancelled t x).recut t x = if w.state = .waiting then { w with cutoff := some k } else w := by
  rw [Sweep.skipCancelled_kept (.inl (by rw [cutoff]; exact Option.some_ne_none k)), Sweep.recut, cutoff]

/-- A record that is not WAITING takes its change and does not start. -/
theorem sweepsAfterTimes_still {t : Today} {p : Part} {x : Reg} {w y : Sweep} (held : p.sweeps.get? x = some w)
    (recut : (w.skipCancelled t x).recut t x = y) (state : y.state ≠ .waiting) (c : Clock) :
    (sweepsAfterTimes c t p).sweeps.get? x = some y :=
  startDue_get?_of_ne (p := recutSweeps t p) c (by rw [recutSweeps_get?, held, Option.map_some, recut]) state

section Waiting

variable {c : Clock} {t : Today} {p : Part} {x : Reg} {w : Sweep} {k : Nat} (held : p.sweeps.get? x = some w)
  (waiting : w.state = .waiting) (cutoff : t.cutoffOf x = some k)

include held waiting cutoff

theorem recutSweeps_waiting : (recutSweeps t p).sweeps.get? x = some { w with cutoff := some k } := by
  rw [recutSweeps_get?, held, Option.map_some, Sweep.after_cutoff cutoff, if_pos waiting]

/-- A WAITING record starts where the clock has reached its new cutoff (R134, R135). -/
theorem sweepsAfterTimes_due {r : DayRecord} {now : Reading} (opened : p.openDay = some r) (reading : c.reading = some now)
    (date : now.date = r.date) (reached : k ≤ now.second) : (sweepsAfterTimes c t p).sweeps.get? x = some { w with
      cutoff := some k, state := if p.held then .suspended else .running, cursor := 0, startedAt := c.second? } := by
  have due : ((some k).map (atOrPast c r)).getD false = true := by
    rw [Option.map_some, Option.getD_some, atOrPast_of reading, date, beq_self_eq_true]
    exact decide_eq_true reached
  exact startDue_get?_of_due c (recutSweeps_waiting held waiting cutoff) waiting opened due

/-- A WAITING record whose new cutoff is yet to come takes it and waits (R134). -/
theorem sweepsAfterTimes_early
    (early : ¬ ∃ r now, p.openDay = some r ∧ c.reading = some now ∧ now.date = r.date ∧ k ≤ now.second) :
    (sweepsAfterTimes c t p).sweeps.get? x = some { w with cutoff := some k } := by
  have recut := recutSweeps_waiting held waiting cutoff
  cases opened : p.openDay with
  | none => rw [sweepsAfterTimes_eq, startDue_closed (p := recutSweeps t p) opened, recut]
  | some r =>
    refine startDue_get?_of_not_due (p := recutSweeps t p) opened recut (.inr (.inr fun i now cut reading => ?_))
    cases cut
    by_contra reached
    rw [not_or, not_not, Nat.not_lt] at reached
    exact early ⟨r, now, opened, reading, reached⟩

end Waiting

end Sys2Proof.Machine

open Sys2Proof.Machine

/-- Settles O20: the request, the table, and the register and the sweeps after the change of times. -/
theorem delayActsOnPendingOrToday : Obligations.DelayActsOnPendingOrToday := by
  refine ⟨fun s sfx d ws listening => ⟨fun out => ?_, fun low high unset => ?_, fun low high set closed => ?_,
      fun r t low high set opened copy => ?_⟩,
    fun now t b ringing => delayInTime_ringing ringing now b, fun now t b k q silent am plan => delayInTime_silent silent am plan now b,
    fun now before after a b => ?_, fun now t z => ⟨fun k se last times => newEnd_at last times now, fun last => newEnd_none last now⟩,
    fun now t l e => ⟨fun q mem => ?_, fun k w period ring pending mem zone same tone top warned later => ?_⟩,
    fun c before after p => rfl, fun c before after p g register => cancellationWrites_eq register c before after,
    fun c before after p g n x k m register wf slot record => ?_, fun c after p x w held => ?_⟩
  · exact request_refuses listening (ws' := ws) (delay_outOfRange out _ _)
  · exact request_refuses listening (ws' := ws) (delay_unset low high unset _)
  · exact request_answers listening (delay_pending (p := heard s ws) low high set closed)
  · have run := delay_open (p := heard s ws) low high set opened copy
    refine ⟨fun late => request_refuses listening (ws' := ws) (run.trans (if_neg (Bool.eq_false_iff.mp late))),
      fun inTime full => request_answers listening ((run.trans (if_pos inTime)).trans (delayToday_full full _ _ _)),
      fun inTime less => request_answers listening ((run.trans (if_pos inTime)).trans (delayToday_taken low less _ _))⟩
  · intro lost moved ends warns r
    have lost_eq : cutOff before after = lost := funext fun e => by
      unfold cutOff
      simp only [newlyCancelled_eq]
      rfl
    have moved_eq : b.ring.map (RingEntry.underDelay before after a) = moved := by
      refine List.map_congr_left fun e _ => (underDelay_eq before after a e).trans ?_
      rw [lost_eq]
    have ends_eq : b.newEnds now before after = ends := by
      unfold Bells.newEnds
      rw [lost_eq]
      rfl
    have warns_eq : b.newWarns now before after a = warns := by
      unfold Bells.newWarns
      rw [moved_eq]
    have base : (b.moved before after a).ring.Perm moved := by
      unfold Bells.moved
      rw [moved_eq]
      exact sortBy_perm _ _
    have issues (q : RingRequest) : nextIssue (b.moved before after a).ring q.zone q.period q.tone
        = nextIssue b.ring q.zone q.period q.tone := by
      rw [nextIssue_perm base, ← moved_eq, nextIssue_map (underDelay_key before after a)]
    have run := Bells.foldl_tryAdd (ends ++ warns) (b.moved before after a) 0
    rw [← ends_eq, ← warns_eq, ← Bells.delay_eq, ends_eq, warns_eq] at run
    obtain ⟨made, ring, count, requested, room, today, pending, zones⟩ := run
    rw [List.length_append] at count room
    refine ⟨made, ring.trans (base.append_right made), count.trans (Nat.zero_add _), requested,
      fun fits allowed => room ?_ fun q mem => ?_, today, pending, zones⟩
    · rw [base.length_eq, List.length_map]
      omega
    · rw [issues]
      have := allowed q mem
      omega
  · obtain ⟨k, w, period, ring, pending, last, warned, later, eq⟩ := mem_freshWarn mem
    obtain ⟨wmem, alike, issue⟩ := lastWarn_spec last
    obtain ⟨zone, same, tone⟩ := alike_iff.mp alike
    refine ⟨k, w, period, ring, pending, wmem, zone, same, tone, fun v vmem vzone vperiod vtone => ?_, warned_iff.mp warned, later, eq⟩
    have below := issue_lt_nextIssue vmem (alike_iff.mpr ⟨vzone, vperiod, vtone⟩)
    omega
  · have last := lastWarn_of_greatest mem (alike_iff.mpr ⟨zone, same, tone⟩) fun v vmem valike => by
      obtain ⟨vzone, vperiod, vtone⟩ := alike_iff.mp valike
      exact top v vmem vzone vperiod vtone
    have given : ((lastWarn l k e.zone).map (fun w => w.state.warned)).getD false = true := by
      rw [last]
      exact warned_iff.mpr warned
    rw [freshWarn_period period, if_pos ⟨ring, pending, given, later⟩]
    rfl
  · intro off
    have bare := cancellationWrites_mark? register wf slot record c before after
    obtain ⟨y, found, eq⟩ := Option.map_eq_some_iff.mp bare
    refine ⟨y.notice, found.trans (congrArg some ?_)⟩
    split at eq
    case isTrue cut => rw [if_pos cut]; exact Mark.eq_of_bare (m := notRequiredBare c m) eq
    case isFalse kept => rw [if_neg kept]; exact Mark.eq_of_bare eq
  · obtain ⟨l, eq, resume⟩ := sweepsAfterTimes_touches c after p
    refine ⟨⟨l, eq⟩, by rw [eq]; exact resume, fun cancelled done => ?_, fun cancelled left' => ?_, fun k cutoff => ?_⟩
    · exact sweepsAfterTimes_still held (Sweep.after_done x done) (by rw [done]; nofun) c
    · exact sweepsAfterTimes_still held (Sweep.after_cancelled cancelled left') nofun c
    · refine ⟨fun other => ?_, fun waiting early => sweepsAfterTimes_early held waiting cutoff early, fun waiting due => ?_⟩
      · exact sweepsAfterTimes_still held ((Sweep.after_cutoff cutoff).trans (if_neg other)) other c
      · obtain ⟨r, now, opened, reading, date, reached⟩ := due
        exact sweepsAfterTimes_due held waiting cutoff opened reading date reached

end

section
/-!
What day open makes: the cutoffs, the requests of the ring table, the marked periods, the register and its tallies (R30, R73 to R75,
R134).
-/

-- One declaration after another: the text is compiled as one, and a declaration that waits for others holds a thread.
set_option Elab.async false

namespace Sys2Proof.Machine

/-! ## Cutoffs -/

theorem greatest_eq_none_iff {l : List Nat} : greatest l = none ↔ l = [] := by
  cases l <;> simp [greatest]

theorem least_lt_iff {l : List Nat} (h : l ≠ []) (n : Nat) : (least l).getD 0 < n ↔ ∃ k ∈ l, k < n := by
  obtain ⟨m, mem, low, eq⟩ := least_spec h
  rw [eq]
  exact ⟨fun lt => ⟨m, mem, lt⟩, fun ⟨k, hk, lt⟩ => Nat.lt_of_le_of_lt (low k hk) lt⟩

/-- The cutoff over the terms of today's copy. -/
theorem Today.cutoff_eq (t : Today) (k : Nat) :
    t.cutoff k = greatest ((t.terms.filterMap (fun z => t.effective k z)).map (fun se => se.1 + t.plan.close * 60)) := rfl

/-- A period cancelled in every zone has no cutoff, and no other (R134). -/
theorem cutoff_eq_none_iff {t : Today} {k : Nat} : t.cutoff k = none ↔ ∀ z ∈ t.terms, t.effective k z = none := by
  rw [Today.cutoff_eq, greatest_eq_none_iff, List.map_eq_nil_iff, List.filterMap_eq_nil_iff]

/-- The cutoff is the greatest start, and the closing minutes after it (R134). -/
theorem cutoff_spec {t : Today} {k q : Nat} (h : t.cutoff k = some q) :
    (∃ z ∈ t.terms, ∃ se, t.effective k z = some se ∧ se.1 + t.plan.close * 60 = q) ∧
      ∀ z ∈ t.terms, ∀ se, t.effective k z = some se → se.1 + t.plan.close * 60 ≤ q := by
  rw [Today.cutoff_eq] at h
  have some' : (t.terms.filterMap (fun z => t.effective k z)).map (fun se => se.1 + t.plan.close * 60) ≠ [] := fun none' => by
    rw [none'] at h
    cases h
  obtain ⟨m, mem, high, eq⟩ := greatest_spec some'
  cases eq.symm.trans h
  obtain ⟨se, among, sum⟩ := List.mem_map.mp mem
  obtain ⟨z, term, times⟩ := List.mem_filterMap.mp among
  exact ⟨⟨z, term, se, times, sum⟩, fun y other ue start =>
    high _ (List.mem_map.mpr ⟨ue, List.mem_filterMap.mpr ⟨y, other, start⟩, rfl⟩)⟩

/-! ## The requests of the ring table -/

/-- The time of the RING of a period in a zone, where it has one. -/
def ringStart (t : Today) (z k : Nat) : Option Nat :=
  match t.plan.periods[k]?, t.effective k z with
  | some q, some (a, _) => if q.ring then some a else none
  | _, _ => none

/-- The RING of the zone's periods before k that comes last in the plan. -/
def lastRing (t : Today) (z k : Nat) : Option Nat := ((List.range k).filterMap (ringStart t z)).getLast?

/-- A WARN stands before the RING at a (R30). -/
def warnFits (t : Today) (limit : Nat) (x : TodayZone) (k a : Nat) : Bool :=
  ((t.plan.periods[k]?).map (·.warn)).getD false && decide (x.lead ≤ a) && decide (limit ≤ a - x.lead)
    && ((lastRing t x.zone k).map (fun l => decide (l < a - x.lead))).getD true

/-- The requests of one period in one zone. -/
def requestsAt (t : Today) (limit : Nat) (x : TodayZone) (k : Nat) : List RingRequest :=
  match ringStart t x.zone k with
  | none => []
  | some a => ⟨x.zone, some k, .ring, a, none, false⟩ ::
      (if warnFits t limit x k a then [⟨x.zone, some k, .warn, a - x.lead, none, false⟩] else [])

/-- The END request of a zone. -/
def endRequests (t : Today) (z : Nat) : List RingRequest :=
  match t.lastPeriod z with
  | none => []
  | some k => ((t.effective k z).map (fun se => (⟨z, some k, .endBell, se.2, none, false⟩ : RingRequest))).toList

theorem ringStart_of {t : Today} {z k : Nat} {q : Period} {se : Nat × Nat} (period : t.plan.periods[k]? = some q)
    (times : t.effective k z = some se) : ringStart t z k = if q.ring then some se.1 else none := by
  unfold ringStart
  rw [period, times]

theorem ringStart_none {t : Today} {z k : Nat} (h : t.plan.periods[k]? = none ∨ t.effective k z = none) :
    ringStart t z k = none := by
  unfold ringStart
  split
  case h_1 period times =>
    rcases h with missing | cancelled
    · exact nomatch missing.symm.trans period
    · exact nomatch cancelled.symm.trans times
  case h_2 => rfl

theorem lastRing_succ (t : Today) (z k : Nat) : lastRing t z (k + 1) = (ringStart t z k).or (lastRing t z k) := by
  unfold lastRing
  rw [List.range_succ, List.filterMap_append, List.getLast?_append]
  congr 1
  cases start : ringStart t z k <;> simp [start]

theorem requestsAt_silent {t : Today} {limit : Nat} {x : TodayZone} {k : Nat} (h : ringStart t x.zone k = none) :
    requestsAt t limit x k = [] := by
  unfold requestsAt
  rw [h]

theorem requestsAt_ring {t : Today} {limit : Nat} {x : TodayZone} {k a : Nat} (h : ringStart t x.zone k = some a) :
    requestsAt t limit x k = ⟨x.zone, some k, .ring, a, none, false⟩ ::
      (if warnFits t limit x k a then [⟨x.zone, some k, .warn, a - x.lead, none, false⟩] else []) := by
  unfold requestsAt
  rw [h]

theorem warnFits_iff {t : Today} {limit : Nat} {x : TodayZone} {k a : Nat} {q : Period} (period : t.plan.periods[k]? = some q) :
    warnFits t limit x k a = true ↔ q.warn = true ∧ x.lead ≤ a ∧ (∀ l ∈ lastRing t x.zone k, l < a - x.lead) ∧ limit ≤ a - x.lead := by
  have later : ((lastRing t x.zone k).map (fun l => decide (l < a - x.lead))).getD true = true
      ↔ ∀ l ∈ lastRing t x.zone k, l < a - x.lead := by
    cases lastRing t x.zone k <;> simp
  unfold warnFits
  rw [period, Bool.and_eq_true, Bool.and_eq_true, Bool.and_eq_true, decide_eq_true_iff, decide_eq_true_iff, later]
  exact ⟨fun ⟨⟨⟨warn, lead⟩, low⟩, last⟩ => ⟨warn, lead, last, low⟩, fun ⟨warn, lead, last, low⟩ => ⟨⟨⟨warn, lead⟩, low⟩, last⟩⟩

/-- A period without a RING gives no request. -/
theorem buildPeriods_silent {t : Today} {x : TodayZone} {k : Nat} (h : ringStart t x.zone k = none) (limit : Nat)
    (last : Option Nat) (ks : List Nat) : buildPeriods t x limit last (k :: ks) = buildPeriods t x limit last ks := by
  rw [buildPeriods]
  split
  case h_1 q a e period times =>
    rw [ringStart_of (z := x.zone) period times] at h
    split at h
    case isTrue => cases h
    case isFalse silent => exact if_neg silent
  case h_2 => rfl

/-- A RING, and its WARN where that comes after the RING before. -/
theorem buildPeriods_ring {t : Today} {x : TodayZone} {k a : Nat} (h : ringStart t x.zone k = some a) (limit : Nat)
    (ks : List Nat) : buildPeriods t x limit (lastRing t x.zone k) (k :: ks)
      = requestsAt t limit x k ++ buildPeriods t x limit (some a) ks := by
  rw [buildPeriods, requestsAt_ring h]
  split
  case h_1 q b e period times =>
    rw [ringStart_of (z := x.zone) period times] at h
    split at h
    case isFalse => cases h
    case isTrue rings =>
      cases h
      rw [if_pos rings, List.cons_append]
      exact congrArg (fun l => _ :: (l ++ _)) (if_congr (warnFits_iff period).symm rfl rfl)
  case h_2 none' =>
    exfalso
    unfold ringStart at h
    split at h
    case h_1 period times => exact none' _ _ _ period times
    case h_2 => cases h

/-- The requests of a zone, period by period (R30). -/
theorem buildPeriods_eq (t : Today) (x : TodayZone) (limit n k : Nat) :
    buildPeriods t x limit (lastRing t x.zone k) (List.range' k n) = (List.range' k n).flatMap (requestsAt t limit x) := by
  induction n generalizing k with
  | zero => rfl
  | succ n ih =>
    rw [List.range'_succ, List.flatMap_cons]
    have next := ih (k + 1)
    rw [lastRing_succ] at next
    cases start : ringStart t x.zone k with
    | none =>
      rw [start, Option.none_or] at next
      rw [buildPeriods_silent start, requestsAt_silent start, next, List.nil_append]
    | some a =>
      rw [start, Option.some_or] at next
      rw [buildPeriods_ring start, next]

theorem buildEnd_eq (t : Today) (z : Nat) : buildEnd t z = endRequests t z := by
  unfold buildEnd endRequests
  cases t.lastPeriod z with
  | none => rfl
  | some k =>
    dsimp only
    cases t.effective k z <;> rfl

theorem buildRequests_eq (t : Today) (limit : Nat) : buildRequests t limit = t.zones.flatMap (fun x =>
    (List.range t.plan.periods.length).flatMap (requestsAt t limit x) ++ endRequests t x.zone) := by
  unfold buildRequests Today.numbers
  congr 1
  funext x
  have all := buildPeriods_eq t x limit t.plan.periods.length 0
  rw [← List.range_eq_range'] at all
  rw [← all, buildEnd_eq]
  rfl

/-- The table built: an entry with issue 1 for each request, in order of creation (R29, R30). -/
theorem Bells.built_perm (b : Bells) (t : Today) (limit : Nat) :
    (b.built t limit).ring.Perm (((buildRequests t limit).zipIdx b.nextStamp).map (fun q => q.1.entry 1 q.2)) := sortBy_perm _ _

theorem Bells.mem_built {b : Bells} {t : Today} {limit : Nat} {e : RingEntry} (h : e ∈ (b.built t limit).ring) :
    ∃ q n, e = RingRequest.entry q 1 n := by
  obtain ⟨q, _, rfl⟩ := List.mem_map.mp ((b.built_perm t limit).mem_iff.mp h)
  exact ⟨q.1, q.2, rfl⟩

theorem RingEntry.le_iff {e f : RingEntry} : e.le f = true ↔
    e.time < f.time ∨ (e.time = f.time ∧ (e.zone < f.zone ∨ (e.zone = f.zone ∧ e.stamp ≤ f.stamp))) := by
  simp [RingEntry.le]

/-! ## The marked periods -/

/-- The number of REGISTRATION periods in a list. -/
def registrationCount (l : List Period) : Nat := (l.filter (fun q => q.kind == .registration)).length

/-- The marked period that stands at place k, if any (file 00). -/
def markedAt (l : List Period) (k : Nat) : Option MarkedPeriod :=
  l[k]?.bind (fun q =>
    if q.kind = .registration then
      some ⟨k, if registrationCount (l.take k) = 0 then some .am else if registrationCount (l.take k) = 1 then some .pm else none⟩
    else if q.kind = .lesson then some ⟨k, none⟩ else none)

theorem registrationCount_snoc (l : List Period) (q : Period) :
    registrationCount (l ++ [q]) = registrationCount l + if q.kind = .registration then 1 else 0 := by
  unfold registrationCount
  rw [List.filter_append, List.length_append]
  by_cases h : q.kind = .registration <;> simp [h]

theorem markedAt_at (before after : List Period) (q : Period) : markedAt (before ++ q :: after) before.length
    = if q.kind = .registration then
        some ⟨before.length, if registrationCount before = 0 then some .am else if registrationCount before = 1 then some .pm else none⟩
      else if q.kind = .lesson then some ⟨before.length, none⟩ else none := by
  unfold markedAt
  rw [List.take_left', List.getElem?_append_right (Nat.le_refl _), Nat.sub_self]
  · rfl
  · rfl

/-- The marked periods from one place on are those of the places (R73). -/
theorem markedFrom_eq (before l : List Period) : Plan.markedFrom before.length (registrationCount before) l
    = (List.range' before.length l.length).filterMap (markedAt (before ++ l)) := by
  induction l generalizing before with
  | nil => rfl
  | cons q qs ih =>
    have rest := ih (before ++ [q])
    rw [List.length_append, List.length_singleton, registrationCount_snoc, List.append_assoc, List.singleton_append] at rest
    rw [List.length_cons, List.range'_succ, List.filterMap_cons, markedAt_at, ← rest]
    cases kind : q.kind <;> simp [Plan.markedFrom, kind]

/-! ## The register made -/

/-- A period cancelled in the home zone is NOT_REQUIRED from the start, any other UNSET (R74). -/
theorem freshMark_eq (c : Clock) (t : Today) (z : Nat) (m : MarkedPeriod) : freshMark c t z m
    = if t.effective m.number z = none then Mark.notRequired c m else Mark.unset m (freshNotice m) :=
  if_congr Option.isNone_iff_eq_none rfl rfl

theorem stateAtOpen_none {t : Today} (h : t.reg? .am = none) (c : Clock) : stateAtOpen c t = .normal := by
  unfold stateAtOpen
  rw [h]
  rfl

/-- The register is in RECOVERY when some start of AM has passed (R75, log 71). -/
theorem stateAtOpen_recovery_iff {t : Today} {k : Nat} {q : Period} (am : t.reg? .am = some k)
    (period : t.plan.periods[k]? = some q) (c : Clock) :
    stateAtOpen c t = .recovery ↔ ∃ z ∈ t.terms, t.rawStart q z < c.second := by
  have past : (least (t.terms.map (t.rawStart q))).getD 0 < c.second ↔ ∃ z ∈ t.terms, t.rawStart q z < c.second := by
    rw [least_lt_iff (by rw [ne_eq, List.map_eq_nil_iff]; exact t.terms_ne_nil)]
    simp only [List.mem_map, exists_exists_and_eq_and]
  unfold stateAtOpen
  rw [am, Option.bind_some, Today.period?, period]
  dsimp only
  rw [← past]
  split
  case isTrue h => exact ⟨fun _ => h, fun _ => rfl⟩
  case isFalse h => exact ⟨nofun, fun passed => (h passed).elim⟩

/-! ## Tallies -/

/-- One slot's record of a period counted in. -/
def countIn (k : Nat) (t : Tally) (e : Nat × SlotDay) : Tally :=
  match e.2.mark? k with
  | some x => t.add x
  | none => t

theorem countTallies_eq (periods : List MarkedPeriod) (slots : Table SlotDay) :
    countTallies periods slots = periods.map (fun m => slots.foldl (countIn m.number) (Tally.zero m)) := rfl

theorem countIn_period (k : Nat) (t : Tally) (e : Nat × SlotDay) : (countIn k t e).period = t.period := by
  unfold countIn
  split
  · exact Tally.add_period _ _
  · rfl

theorem foldl_countIn_period (k : Nat) (slots : Table SlotDay) (t : Tally) : (slots.foldl (countIn k) t).period = t.period := by
  induction slots generalizing t with
  | nil => rfl
  | cons e l ih => exact (ih _).trans (countIn_period k t e)

/-- A count that each record raises by one when it passes a test counts the records that pass it. -/
theorem foldl_countIn_count {count : Tally → Nat} {f : Mark → Bool}
    (add : ∀ t m, count (t.add m) = count t + if f m = true then 1 else 0) (k : Nat) (slots : Table SlotDay) (t : Tally) :
    count (slots.foldl (countIn k) t)
      = count t + (slots.filter (fun e => ((e.2.mark? k).map f).getD false)).length := by
  induction slots generalizing t with
  | nil => rfl
  | cons e l ih =>
    rw [List.foldl_cons, ih, List.filter_cons]
    unfold countIn
    cases e.2.mark? k with
    | none => rfl
    | some m =>
      dsimp only
      rw [add, Option.map_some, Option.getD_some]
      split
      · rw [List.length_cons]; omega
      · rfl

theorem Tally.zero_count (m : MarkedPeriod) (v : MarkValue) : (Tally.zero m).count v = 0 := by
  cases v <;> rfl

theorem Tally.zero_ofBand (m : MarkedPeriod) (b : Band) : (Tally.zero m).ofBand b = 0 := by
  cases b <;> rfl

/-- A tally counts the records of its period, value by value and band by band (R74, R79). -/
theorem countTallies_spec {periods : List MarkedPeriod} {slots : Table SlotDay} {y : Tally} (h : y ∈ countTallies periods slots) :
    (∀ v, y.count v
      = (slots.filter (fun e => ((e.2.mark? y.period.number).map (fun m => m.value == v)).getD false)).length) ∧
    ∀ b, y.ofBand b
      = (slots.filter (fun e => ((e.2.mark? y.period.number).map (fun m => m.band == some b)).getD false)).length := by
  rw [countTallies_eq] at h
  obtain ⟨m, _, rfl⟩ := List.mem_map.mp h
  rw [foldl_countIn_period]
  refine ⟨fun v => ?_, fun b => ?_⟩
  · refine (foldl_countIn_count (count := fun t => t.count v) (f := fun a => a.value == v) (fun t a => ?_) _ _ _).trans ?_
    · rw [Tally.add_count]
      exact congrArg _ (if_congr (by rw [beq_iff_eq]; exact eq_comm) rfl rfl)
    · rw [Tally.zero_count, Nat.zero_add]
      rfl
  · refine (foldl_countIn_count (count := fun t => t.ofBand b) (f := fun a => a.band == some b) (fun t a => ?_) _ _ _).trans ?_
    · rw [Tally.add_ofBand]
      exact congrArg _ (if_congr (by rw [beq_iff_eq]; exact eq_comm) rfl rfl)
    · rw [Tally.zero_ofBand, Nat.zero_add]
      rfl

end Sys2Proof.Machine
end

section
/-!
Day open: the table with what has passed and what is reached, the sweep records, and all that the day open touches (R14, R31, R32,
R133).
-/

-- One declaration after another: the text is compiled as one, and a declaration that waits for others holds a thread.
set_option Elab.async false

namespace Sys2Proof.Machine

/-! ## Notices -/

/-- A notice touches the notice list alone, and is appended where there is room (R192). -/
theorem raise_touches (c : Clock) (b : NoticeBody) (p : Part) : ∃ more o,
    raise c b p = { p with hl.notices := p.hl.notices ++ more, hl.overflow := o } ∧
      (p.hl.notices.length < 32 → more = [⟨b, c.stamp⟩]) := by
  rcases Nat.lt_or_ge p.hl.notices.length 32 with room | full
  · exact ⟨_, p.hl.overflow, raise_room room c b, fun _ => rfl⟩
  · refine ⟨[], true, ?_, fun room => absurd room (Nat.not_lt.mpr full)⟩
    rw [raise_full full, List.append_nil]

/-! ## What has passed and what is reached -/

/-- An entry at a reading of the clock: passed when it lies before it, reached when it lies at it (R31, R32). -/
def RingEntry.settled (c : Clock) (now : Nat) (armed : Nat → Bool) (e : RingEntry) : RingEntry :=
  if e.state = .pending ∧ e.time < now then e.pass
  else if e.state = .pending ∧ e.time = c.second then e.reached c (armed e.zone) else e

/-- The number of PENDING entries before the clock. -/
def missedEntries (c : Clock) (p : Part) : Nat :=
  (p.bells.ring.filter (fun e => e.state == .pending && decide (e.time < p.now c))).length

/-- The notice of the entries missed, if any (R31). -/
def toldMissed (c : Clock) (p : Part) : Part :=
  if missedEntries c p = 0 then p else raise c (.bellMissedBuild (missedEntries c p)) p

theorem toldMissed_touches (c : Clock) (p : Part) :
    ∃ more o, toldMissed c p = { p with hl.notices := p.hl.notices ++ more, hl.overflow := o } := by
  unfold toldMissed
  split
  case isTrue => exact ⟨[], p.hl.overflow, by rw [List.append_nil]⟩
  case isFalse =>
    obtain ⟨more, o, eq, _⟩ := raise_touches c (.bellMissedBuild (missedEntries c p)) p
    exact ⟨more, o, eq⟩

/-- A notice and a change of the table do not meet. -/
theorem raise_onRing (c : Clock) (b : NoticeBody) (f : RingEntry → RingEntry) (p : Part) :
    raise c b (onRing f p) = onRing f (raise c b p) := by
  unfold raise
  split
  case isTrue h => rw [if_pos (show p.hl.notices.length < _ from h)]; rfl
  case isFalse h => rw [if_neg (show ¬ p.hl.notices.length < _ from h)]; rfl

/-- PENDING entries before the clock pass, with one notice of their number (R31). -/
theorem passEarlier_eq (c : Clock) (p : Part) : passEarlier c p
    = onRing (fun e => if e.state == .pending && decide (e.time < p.now c) then e.pass else e) (toldMissed c p) := by
  unfold passEarlier toldMissed missedEntries
  dsimp only
  split
  case isTrue => rfl
  case isFalse => rw [raise_onRing]

/-- After the passing, the entries at the clock are reached (R31, R32). -/
theorem reachAt_passEarlier (c : Clock) (p : Part) : reachAt c c.second (passEarlier c p)
    = { toldMissed c p with bells.ring := p.bells.ring.map (RingEntry.settled c (p.now c) p.armed) } := by
  obtain ⟨more, o, told⟩ := toldMissed_touches c p
  rw [passEarlier_eq, told]
  unfold reachAt onRing
  dsimp only
  rw [List.map_map]
  congr 2
  refine List.map_congr_left fun e _ => ?_
  rw [Function.comp_apply, RingEntry.settled]
  by_cases late : e.state = .pending ∧ e.time < p.now c
  · have passed : (if e.state == .pending && decide (e.time < p.now c) then e.pass else e) = e.pass := if_pos (by simpa using late)
    rw [passed, if_pos late]
    exact if_neg fun h => nomatch h.1
  · have kept : (if e.state == .pending && decide (e.time < p.now c) then e.pass else e) = e := if_neg (by simpa using late)
    rw [kept, if_neg late]
    rfl

/-- A table built, with what has passed and what is reached (R30 to R32). -/
theorem buildRing_eq (c : Clock) (t : Today) (limit : Nat) (p : Part) : buildRing c t limit p
    = { toldMissed c { p with bells := p.bells.built t limit } with
        bells.ring := (p.bells.built t limit).ring.map (RingEntry.settled c (p.now c) p.armed) } :=
  reachAt_passEarlier c { p with bells := p.bells.built t limit }

/-- An entry just built. -/
theorem settled_built (c : Clock) (now : Nat) (p : Part) (q : RingRequest) (n : Nat) :
    (q.entry 1 n).settled c now p.armed
      = if (q.entry 1 n).time < now then { q.entry 1 n with state := .passed }
        else if (q.entry 1 n).time = c.second then
          (if p.zoneState (q.entry 1 n).zone = some (.up .armed) then { q.entry 1 n with state := .due, dueSince := some c.crystal }
           else { q.entry 1 n with state := .passed })
        else q.entry 1 n := by
  have pending : (q.entry 1 n).state = .pending := rfl
  unfold RingEntry.settled RingEntry.reached Part.armed
  simp only [pending, true_and, beq_iff_eq]
  rfl

/-! ## The sweep records -/

theorem makeSweeps_get? (c : Clock) (t : Today) (p : Part) (x : Reg) : (makeSweeps c t p).sweeps.get? x
    = (t.reg? x).map (makeSweep c (p.now c) t p.recoveryHold) := by
  cases x <;> rfl

/-- The record of a period at its making, WAITING at its cutoff (R133). -/
def freshSweep (t : Today) (k : Nat) : Sweep := ⟨.waiting, t.cutoff k, 0, 0, 0, 0, none, none⟩

theorem makeSweep_cancelled {t : Today} {k : Nat} (h : t.cutoff k = none) (c : Clock) (now : Nat) (recovery : Bool) :
    makeSweep c now t recovery k = { freshSweep t k with state := .skipped } := by
  unfold makeSweep freshSweep
  dsimp only
  rw [h]

theorem makeSweep_late {t : Today} {k q now : Nat} {recovery : Bool} (h : t.cutoff k = some q) (hold : recovery = true)
    (past : q ≤ now) (c : Clock) :
    makeSweep c now t recovery k = { freshSweep t k with state := .suspended, startedAt := c.second? } := by
  unfold makeSweep freshSweep
  dsimp only
  rw [h]
  exact if_pos ⟨hold, past⟩

theorem makeSweep_waiting {t : Today} {k q now : Nat} {recovery : Bool} (h : t.cutoff k = some q)
    (free : ¬ (recovery = true ∧ q ≤ now)) (c : Clock) : makeSweep c now t recovery k = freshSweep t k := by
  unfold makeSweep freshSweep
  dsimp only
  rw [h]
  exact if_neg free

/-! ## Day open -/

theorem activityAtOpen_touches (c : Clock) (p : Part) : ∃ due next, activityAtOpen c p
    = { p with hl.activity := .active, hl.service := none, zbus.pollDue := due, desk.cycleNext := next } := by
  unfold activityAtOpen setActivity
  split
  · exact ⟨_, _, rfl⟩
  · exact ⟨_, _, rfl⟩

/-- Today's copy at day open (R25). -/
def todayAtOpen (c : Clock) (n : Nat) (p : Part) : Today := makeToday p.work n p.bells.pendingDelay none c.second

/-- All that day open touches. -/
theorem dayOpen_touches (c : Clock) (r : DayRecord) (n : Nat) (p : Part) : ∃ first later o due next,
    (p.hl.notices.length < 32 → first = [⟨.dayOpen r.date n, c.stamp⟩]) ∧
    dayOpen c r n p = { p with
      day := some { r with phase := .opened }
      bells := { p.bells.built (todayAtOpen c n p) c.second with
        today := some (todayAtOpen c n p), pendingDelay := 0
        ring := (p.bells.built (todayAtOpen c n p) c.second).ring.map (RingEntry.settled c (c.dayNow r) p.armed) }
      reg.register := some (makeRegister c p.work (todayAtOpen c n p))
      sweeps := (makeSweeps c (todayAtOpen c n p) { p with
        day := some { r with phase := .opened }, reg.register := some (makeRegister c p.work (todayAtOpen c n p)) }).sweeps
      desk.firstArrivals := [], desk.cycleNext := next, zbus.pollDue := due
      hl := { p.hl with
        activity := .active, service := none, notices := p.hl.notices ++ first ++ later, overflow := o } } := by
  obtain ⟨first, o, told, only⟩ := raise_touches c (.dayOpen r.date n) { p with day := some { r with phase := .opened } }
  obtain ⟨later, o', missed⟩ := toldMissed_touches c { p with
    day := some { r with phase := .opened }, hl.notices := p.hl.notices ++ first, hl.overflow := o
    bells := Bells.built { p.bells with today := some (todayAtOpen c n p), pendingDelay := 0 } (todayAtOpen c n p) c.second }
  rw [dayOpen_eq, told]
  have bells : openBells c (todayAtOpen c n p) { p with
      day := some { r with phase := .opened }, hl.notices := p.hl.notices ++ first, hl.overflow := o } = _ :=
    (buildRing_eq c (todayAtOpen c n p) c.second _).trans (by rw [missed])
  unfold openWith
  obtain ⟨due, next, active⟩ := activityAtOpen_touches c (forgetArrivals (makeSweeps c (todayAtOpen c n p)
    (openRegister c (todayAtOpen c n p) (openBells c (todayAtOpen c n p) { p with
      day := some { r with phase := .opened }, hl.notices := p.hl.notices ++ first, hl.overflow := o }))))
  refine ⟨first, later, o', due, next, only, ?_⟩
  refine active.trans ?_
  rw [bells]
  rfl

/-- The table at day open, entry by entry. -/
theorem settled_table (c : Clock) (now limit : Nat) (t : Today) (p : Part) :
    (p.bells.built t limit).ring.map (RingEntry.settled c now p.armed) = (p.bells.built t limit).ring.map (fun e =>
      if e.time < now then { e with state := .passed }
      else if e.time = c.second then
        (if p.zoneState e.zone = some (.up .armed) then { e with state := .due, dueSince := some c.crystal }
         else { e with state := .passed })
      else e) :=
  List.map_congr_left fun e mem => by
    obtain ⟨q, i, rfl⟩ := Bells.mem_built mem
    exact settled_built c now p q i

/-- A record's making, by its cutoff, the register's state and the clock (R133). -/
theorem makeSweeps_cases {t : Today} {x : Reg} {k : Nat} (number : t.reg? x = some k) (c : Clock) (p : Part) :
    (t.cutoff k = none → (makeSweeps c t p).sweeps.get? x = some { freshSweep t k with state := .skipped }) ∧
    (∀ n, t.cutoff k = some n → p.recoveryHold = true → n ≤ p.now c →
      (makeSweeps c t p).sweeps.get? x = some { freshSweep t k with state := .suspended, startedAt := c.second? }) ∧
    (∀ n, t.cutoff k = some n → ¬ (p.recoveryHold = true ∧ n ≤ p.now c) →
      (makeSweeps c t p).sweeps.get? x = some (freshSweep t k)) := by
  rw [makeSweeps_get?, number, Option.map_some]
  exact ⟨fun cancelled => congrArg some (makeSweep_cancelled cancelled c _ _),
    fun n cutoff hold past => congrArg some (makeSweep_late cutoff hold past c),
    fun n cutoff free => congrArg some (makeSweep_waiting cutoff free c)⟩

end Sys2Proof.Machine

open Sys2Proof.Machine

/-- Settles O15: what day open touches, and what the cutoffs, the table, the register, the marked periods and the tallies are. -/
theorem dayOpenSetsTheDay : Obligations.DayOpenSetsTheDay := by
  refine ⟨fun c r n p => ?_, fun t k => ?_, fun b t limit => ?_, fun c img t => ?_, fun pl => ?_, fun periods slots => ?_,
    fun img n d e o => rfl⟩
  · intro t today register
    obtain ⟨first, later, o, due, next, only, eq⟩ := dayOpen_touches c r n p
    have eq : t = _ := eq
    rw [eq]
    refine ⟨rfl, rfl, rfl, rfl, rfl, rfl, rfl, rfl, fun room => ⟨later, ?_⟩, rfl, fun x absent => ?_, fun x k number => ?_,
      settled_table c (c.dayNow r) c.second today p⟩
    · show p.hl.notices ++ first ++ later = _
      rw [only room, List.append_assoc]
      rfl
    · exact (makeSweeps_get? ..).trans (by rw [show todayAtOpen c n p = today from rfl, absent]; rfl)
    · intro w
      obtain ⟨cancelled, late, waiting⟩ := makeSweeps_cases number c { p with
        day := some { r with phase := .opened }, reg.register := some register }
      refine ⟨cancelled, fun q cutoff hold past => late q cutoff ?_ past, fun q cutoff free => waiting q cutoff ?_⟩
      · exact (recoveryHold_iff _).mpr ⟨register, rfl, hold⟩
      · rintro ⟨hold, past⟩
        obtain ⟨g, made, recovery⟩ := (recoveryHold_iff _).mp hold
        cases made
        rcases free with normal | early
        · exact nomatch normal.symm.trans recovery
        · exact Nat.not_le.mpr early past
  · intro zones
    rw [show zones = t.terms from (Today.terms_eq t).symm]
    refine ⟨cutoff_eq_none_iff, fun q cutoff => ?_⟩
    obtain ⟨⟨z, term, ⟨a, e⟩, times, sum⟩, high⟩ := cutoff_spec cutoff
    refine ⟨⟨z, term, e, ?_, sum ▸ Nat.le_add_left _ _⟩, fun y other b f start => high y other (b, f) start⟩
    rw [times, ← sum, Nat.add_sub_cancel]
  · intro rings warns requests made
    have same : buildRequests t limit = requests := buildRequests_eq t limit
    refine ⟨?_, (sortBy_ordered _).imp RingEntry.le_iff.mp⟩
    rw [← same]
    exact b.built_perm t limit
  · intro g
    refine ⟨rfl, rfl, rfl, rfl, rfl, ?_, fun none' => stateAtOpen_none none' c, fun k q am period => ?_⟩
    · refine List.map_congr_left fun e _ => ?_
      exact congrArg (fun l => (e.1, SlotDay.mk l .notArrived 0)) (List.map_congr_left fun m _ => freshMark_eq c t e.2.zone m)
    · rw [← Today.terms_eq]
      simp only [← Today.rawStart_eq]
      exact stateAtOpen_recovery_iff am period c
  · have all := markedFrom_eq [] pl.periods
    rw [List.length_nil, ← List.range_eq_range'] at all
    exact all
  · refine ⟨?_, fun y mem => ?_⟩
    · rw [countTallies_eq, List.map_map]
      refine (List.map_congr_left fun m _ => ?_).trans (List.map_id _)
      exact foldl_countIn_period _ _ _
    · obtain ⟨values, bands⟩ := countTallies_spec mem
      exact ⟨values, bands .minor, bands .major, bands .afterClose⟩

end

section
/-!
Day close: what the outbox's operations tell and leave of the register's counts, the scores of a whole roster, and the stages of the
close (R16, R17, R71, R95, R144, R158, R177).
-/

-- One declaration after another: the text is compiled as one, and a declaration that waits for others holds a thread.
set_option Elab.async false

namespace Sys2Proof.Machine

/-! ## What the outbox's operations tell -/

/-- Notices are only appended, and the register's counts stand. -/
structure Told (p q : Part) : Prop where
  notices : p.hl.notices <+: q.hl.notices
  counts : q.reg.register.map (fun g => (g.onSite, g.tallies)) = p.reg.register.map (fun g => (g.onSite, g.tallies))

theorem Told.of_same {p q : Part} (hl : q.hl = p.hl) (reg : q.reg = p.reg) : Told p q :=
  ⟨by rw [hl], by rw [reg]⟩

theorem Told.refl (p : Part) : Told p p := Told.of_same rfl rfl

theorem Told.trans {p q r : Part} (a : Told p q) (b : Told q r) : Told p r :=
  ⟨a.notices.trans b.notices, b.counts.trans a.counts⟩

theorem Told.ite {p a b : Part} {φ : Prop} [Decidable φ] (yes : Told p a) (no : Told p b) : Told p (if φ then a else b) := by
  split
  · exact yes
  · exact no

theorem Told.foldl {β : Type} {f : Part → β → Part} (h : ∀ p b, Told p (f p b)) (l : List β) (p : Part) : Told p (l.foldl f p) := by
  induction l generalizing p with
  | nil => exact .refl p
  | cons b l ih => exact (h p b).trans (ih _)

theorem raise_told (c : Clock) (b : NoticeBody) (p : Part) : Told p (raise c b p) := by
  obtain ⟨more, o, eq, _⟩ := raise_touches c b p
  rw [eq]
  exact ⟨List.prefix_append _ _, rfl⟩

theorem setNotice_told (n : Nat) (x : Reg) (st : NoticeStatus) (p : Part) : Told p (setNotice n x st p) := by
  cases found : p.regMark? n x with
  | none => rw [setNotice_none found]; exact .refl p
  | some m =>
    obtain ⟨g, d, register, _⟩ := regMark?_found found
    obtain ⟨l, eq⟩ := (setNotice_some found st).2.2 g register
    rw [eq]
    exact ⟨List.prefix_refl _, by rw [register]; rfl⟩

theorem reportLeaving_told (n : Nat) (x : Reg) (delivered failed : Bool) (p : Part) : Told p (reportLeaving n x delivered failed p) := by
  unfold reportLeaving
  split
  · exact .refl p
  · exact Told.ite (setNotice_told _ _ _ _) (.refl p)

theorem afterLeaving_told (c : Clock) (e : OutEntry) (p : Part) : Told p (afterLeaving c e p) := by
  have told : Told p (failuresTold c e p) := Told.ite (.refl p) (raise_told c _ p)
  have swept (q : Part) : Told q (sweepTold q) := Told.of_same rfl rfl
  refine told.trans ?_
  unfold afterLeaving
  dsimp only
  split
  · exact (reportLeaving_told _ _ _ _ _).trans (swept _)
  · exact swept _

theorem leave_told (c : Clock) (e : OutEntry) (p : Part) : Told p (leave c e p) :=
  (show Told p { p with pmu.outbox := p.pmu.outbox.filter (fun x => x.id != e.id) } from Told.of_same rfl rfl).trans
    (afterLeaving_told c e _)

theorem follow_told (c : Clock) (id : Nat) (p : Part) : Told p (follow c id p) := by
  unfold follow
  split
  · exact .refl p
  · exact Told.ite (leave_told c _ p) (.refl p)

theorem append_told (c : Clock) (q : EntryRequest) (p : Part) : Told p (append c q p).1 := Told.of_same rfl rfl

theorem create_told (c : Clock) (q : EntryRequest) (p : Part) : Told p (create c q p).1 := by
  unfold create
  split
  case isTrue => exact .refl p
  case isFalse =>
    split
    case isTrue => exact append_told c q p
    case isFalse =>
      split
      case h_1 => exact .refl p
      case h_2 => exact ((leave_told c _ p).trans (raise_told c _ _)).trans (append_told c q _)

theorem createOrReport_told (c : Clock) (q : EntryRequest) (p : Part) : Told p (createOrReport c q p).1 := by
  have made := create_told c q p
  by_cases refused : (create c q p).2 = .refused
  · rw [createOrReport_refused refused]
    exact made.trans (raise_told c _ _)
  · rwa [createOrReport_made refused]

theorem withdrawEntry_told (c : Clock) (e : OutEntry) (p : Part) : Told p (withdrawEntry c e p).1 :=
  (show Told p { onEntry e.id OutEntry.cancelled p with pmu.offer := p.pmu.offer.filter (fun o => o.handle.id != e.id) } from
    Told.of_same rfl rfl).trans (follow_told c e.id _)

theorem withdrawId_told (c : Clock) (id : Nat) (p : Part) : Told p (withdrawId c id p).1 := by
  unfold withdrawId
  split
  · exact .refl p
  · exact withdrawEntry_told c _ p

theorem withdrawAll_told (c : Clock) (pick : OutEntry → Bool) (p : Part) : Told p (withdrawAll c pick p) :=
  Told.foldl (fun q id => withdrawId_told c id q) _ p

/-! ## The scores of the roster -/

/-- Everything but the slots' scores, the outbox and what it tells stands under a score update. -/
structure ScoreFrame (p q : Part) : Prop extends Told p q where
  day : q.day = p.day
  activity : q.hl.activity = p.hl.activity
  excuses : q.work.excuses = p.work.excuses
  rota : q.work.rota = p.work.rota

theorem ScoreFrame.refl (p : Part) : ScoreFrame p p := { Told.refl p with day := rfl, activity := rfl, excuses := rfl, rota := rfl }

theorem ScoreFrame.trans {p q r : Part} (a : ScoreFrame p q) (b : ScoreFrame q r) : ScoreFrame p r :=
  { a.toTold.trans b.toTold with
    day := b.day.trans a.day, activity := b.activity.trans a.activity, excuses := b.excuses.trans a.excuses
    rota := b.rota.trans a.rota }

/-- What the outbox frame and the telling keep together. -/
theorem ScoreFrame.of_outbox {p q : Part} (frame : OutboxFrame p q) (told : Told p q) : ScoreFrame p q :=
  { told with
    day := frame.day, activity := by rw [frame.link], excuses := by rw [frame.work], rota := by rw [frame.work] }

theorem setSlot_scoreFrame (p : Part) (n : Nat) (x : Slot) : ScoreFrame p (p.setSlot n x) :=
  { Told.of_same rfl rfl with day := rfl, activity := rfl, excuses := rfl, rota := rfl }

theorem scoreSlot_scoreFrame (c : Clock) (n : Nat) (x : Slot) (d : SlotDay) (p : Part) : ScoreFrame p (scoreSlot c n x d p) := by
  rw [scoreSlot_eq]
  refine (setSlot_scoreFrame p n { x with
    score := newScore p.work.policy.d x.score d.lateness
    level := p.work.policy.level x.level (newScore p.work.policy.d x.score d.lateness) }).trans ?_
  split
  case isTrue => exact .of_outbox (createOrReport_frame c _ _) (createOrReport_told c _ _)
  case isFalse =>
    split
    case isTrue => exact .of_outbox (raise_frame c _ _) (raise_told c _ _)
    case isFalse => exact .refl _

theorem scoreAll_scoreFrame (c : Clock) (p : Part) : ScoreFrame p (scoreAll c p) := by
  have fold : ∀ (l : List (Nat × Slot)) (q : Part), ScoreFrame q (l.foldl (scoreStep c p.dayOf) q) := by
    intro l
    induction l with
    | nil => exact fun q => .refl q
    | cons e l ih =>
      refine fun q => ScoreFrame.trans ?_ (ih _)
      unfold scoreStep
      split
      case isTrue => exact scoreSlot_scoreFrame c _ _ _ q
      case isFalse => exact .refl q
  exact fold p.work.slots p

/-- A write of a key that stands leaves the keys. -/
theorem Table.keys_put {α : Type} {t : Table α} (wf : Table.wf t = true) {n : Nat} (mem : n ∈ t.map (·.1)) (a : α) :
    (Table.put t n a).map (·.1) = t.map (·.1) := by
  rw [Table.wf_iff] at wf
  induction t with
  | nil => cases mem
  | cons e t ih =>
    obtain ⟨j, b⟩ := e
    obtain ⟨first, wf⟩ := List.pairwise_cons.mp wf
    rw [List.map_cons, List.mem_cons] at mem
    have place : j ≤ n := by
      rcases mem with rfl | later
      · exact Nat.le_refl _
      · obtain ⟨f, found, rfl⟩ := List.mem_map.mp later
        exact Nat.le_of_lt (first f found)
    rw [Table.put, if_neg (Nat.not_lt.mpr place)]
    split
    case isTrue same => rw [List.map_cons, List.map_cons, same]
    case isFalse other =>
      rw [List.map_cons, ih wf (mem.resolve_left other), List.map_cons]

/-- Score updates of slots that stand leave their keys. -/
theorem foldl_scoreStep_keys (c : Clock) (day : Nat → SlotDay) {keys : List Nat} {l : List (Nat × Slot)} {q : Part}
    (slots : q.work.slots.map (·.1) = keys) (wf : Table.wf q.work.slots = true) (mem : ∀ e ∈ l, e.1 ∈ keys) :
    (l.foldl (scoreStep c day) q).work.slots.map (·.1) = keys := by
  induction l generalizing q with
  | nil => exact slots
  | cons e l ih =>
    have here := mem e List.mem_cons_self
    have rest : ∀ f ∈ l, f.1 ∈ keys := fun f found => mem f (List.mem_cons_of_mem e found)
    rw [List.foldl_cons]
    unfold scoreStep
    split
    case isFalse => exact ih slots wf rest
    case isTrue =>
      refine ih ?_ ?_ rest
      · rw [scoreSlot_work, setSlot_slots, Table.keys_put wf (slots ▸ here), slots]
      · rw [scoreSlot_work]
        exact Table.wf_put _ _ _ wf

theorem scoreAll_keys {p : Part} (wf : Table.wf p.work.slots = true) (c : Clock) :
    (scoreAll c p).work.slots.map (·.1) = p.work.slots.map (·.1) :=
  foldl_scoreStep_keys c p.dayOf rfl wf fun _ mem => List.mem_map_of_mem mem

/-! ## The stages of the close -/

theorem ownWrite_touches (items : List StoreItem) (p : Part) : ∃ s r, ownWrite items p = { p with store := s, roster := r } := by
  unfold ownWrite
  split
  · exact ⟨_, _, rfl⟩
  · exact ⟨_, _, rfl⟩

theorem ownWriteSome_touches (items : List StoreItem) (p : Part) :
    ∃ s r, ownWriteSome items p = { p with store := s, roster := r } := by
  unfold ownWriteSome
  split
  · exact ⟨_, _, rfl⟩
  · exact ownWrite_touches items p

/-- The rota after a school day (R17). -/
def rotaAfter (r : Rota) : Rota := { r with index := if r.index + 1 < r.plans.length then r.index + 1 else 0 }

theorem advanceRota_touches (p : Part) :
    ∃ s r, advanceRota p = { p with work.rota := rotaAfter p.work.rota, store := s, roster := r } :=
  ownWrite_touches [.rota] { p with work.rota := rotaAfter p.work.rota }

theorem keepYesterday_touches (r : DayRecord) (p : Part) : ∃ y, keepYesterday r p = { p with reg.yesterday := y } ∧
    ∀ g, p.reg.register = some g → y = some ⟨r.date, r.plan.getD 0, g.tallies, g.onSite, p.work.nonVacant⟩ := by
  unfold keepYesterday Part.register?
  cases p.reg.register with
  | none => exact ⟨p.reg.yesterday, rfl, nofun⟩
  | some g => exact ⟨_, rfl, by rintro _ ⟨⟩; rfl⟩

theorem rosterAtClose_touches (p : Part) : ∃ s r, rosterAtClose p
    = { p with work.slots := p.work.slots.filter (fun e => e.2.state == .enrolled), store := s, roster := r } := by
  obtain ⟨s, r, eq⟩ := ownWriteSome_touches (slotsIn .enrolled p) p
  unfold rosterAtClose
  dsimp only
  rw [eq]
  obtain ⟨s', r', eq'⟩ := ownWriteSome_touches (slotsIn .left { p with store := s, roster := r })
    { p with store := s, roster := r, work.slots := p.work.slots.filter (fun e => e.2.state == .enrolled) }
  exact ⟨s', r', eq'⟩

theorem purgeExcuses_touches (d : Date) (p : Part) : ∃ s r, purgeExcuses d p
    = { p with work.excuses := p.work.excuses.filter (fun e => decide (d < e.date)), store := s, roster := r } := by
  unfold purgeExcuses
  dsimp only
  split
  case isTrue same =>
    have all : p.work.excuses.filter (fun e => decide (d < e.date)) = p.work.excuses := List.filter_sublist.eq_of_length same
    exact ⟨p.store, p.roster, by rw [all]⟩
  case isFalse => exact ownWrite_touches [.excuses] _

theorem activityAtClose_touches (c : Clock) (p : Part) : ∃ a due next, activityAtClose c p
    = { p with hl.activity := a, zbus.pollDue := due, desk.cycleNext := next } ∧ (p.hl.activity = .active → a = .quiet) := by
  unfold activityAtClose
  split
  case isTrue active =>
    unfold setActivity
    rw [if_neg (by rw [active]; nofun), if_neg nofun]
    exact ⟨.quiet, p.zbus.pollDue, p.desk.cycleNext, rfl, fun _ => rfl⟩
  case isFalse other => exact ⟨p.hl.activity, p.zbus.pollDue, p.desk.cycleNext, rfl, fun active => (other active).elim⟩

theorem outboxAtClose_frame (c : Clock) (p : Part) : OutboxFrame p (outboxAtClose c p) := by
  unfold outboxAtClose
  dsimp only
  split
  case isTrue => exact withdrawAll_frame c _ p
  case isFalse => exact (withdrawAll_frame c _ p).trans (raise_frame c _ _)

theorem outboxAtClose_told (c : Clock) (p : Part) : Told p (outboxAtClose c p) :=
  (withdrawAll_told c OutEntry.isStale p).trans (Told.ite (.refl _) (raise_told c _ _))

theorem Sweep.skipAtClose_state (w : Sweep) : w.skipAtClose.state = .done ∨ w.skipAtClose.state = .skipped := by
  unfold Sweep.skipAtClose
  split
  case isTrue h => exact .inl h
  case isFalse => exact .inr rfl

/-- The sweeps after day close (R138, R144). -/
def sweepsClosed (s : Sweeps) : Sweeps :=
  { s with am := s.am.map Sweep.skipAtClose, pm := s.pm.map Sweep.skipAtClose, resume := none }

theorem sweepsAtClose_eq (p : Part) : sweepsAtClose p = { p with sweeps := sweepsClosed p.sweeps } := rfl

theorem sweepsClosed_get? (s : Sweeps) (x : Reg) : (sweepsClosed s).get? x = (s.get? x).map Sweep.skipAtClose := by
  cases x <;> rfl

theorem isStale_eq (e : OutEntry) :
    e.isStale = ((e.kind == .absence || e.kind == .late || e.kind == .correction) && e.hasWaiting) := by
  unfold OutEntry.isStale
  cases e.kind <;> rfl

/-- The record closed, the rota advanced and the close told (R16, R17). -/
def closing (c : Clock) (r : DayRecord) (p : Part) : Part :=
  raise c (.dayClose r.date) (advanceRota { p with day := some { r with phase := .closed, done := true } })

/-- The part whose outbox is closed: yesterday's set kept, the register gone, the LEFT slots VACANT. -/
def rosterClosed (r : DayRecord) (p : Part) : Part := rosterAtClose (dropRegister (keepYesterday r p))

theorem dayClose_eq (c : Clock) (r : DayRecord) (p : Part) : dayClose c r p = activityAtClose c (dropDay (sweepsAtClose
    (purgeExcuses r.date (outboxAtClose c (rosterClosed r (scoreAll c (closing c r p))))))) := by
  unfold dayClose closing rosterClosed dropRegister dropDay
  rfl

/-- All that closing touches before the scores. -/
theorem closing_touches (c : Clock) (r : DayRecord) (p : Part) : ∃ more o s ro,
    closing c r p = { p with
      day := some { r with phase := .closed, done := true }, work.rota := rotaAfter p.work.rota, store := s, roster := ro
      hl.notices := p.hl.notices ++ more, hl.overflow := o } ∧
    (p.hl.notices.length < 32 → more = [⟨.dayClose r.date, c.stamp⟩]) := by
  obtain ⟨s, ro, rota⟩ := advanceRota_touches { p with day := some { r with phase := .closed, done := true } }
  obtain ⟨more, o, told, only⟩ := raise_touches c (.dayClose r.date)
    (advanceRota { p with day := some { r with phase := .closed, done := true } })
  rw [rota] at told only
  refine ⟨more, o, s, ro, ?_, only⟩
  unfold closing
  rw [rota]
  exact told

theorem rosterClosed_touches (r : DayRecord) (p : Part) : ∃ y s ro, rosterClosed r p = { p with
      reg.register := none, reg.yesterday := y, store := s, roster := ro
      work.slots := p.work.slots.filter (fun e => e.2.state == .enrolled) } ∧
    ∀ g, p.reg.register = some g → y = some ⟨r.date, r.plan.getD 0, g.tallies, g.onSite, p.work.nonVacant⟩ := by
  obtain ⟨y, kept, set⟩ := keepYesterday_touches r p
  obtain ⟨s, ro, roster⟩ := rosterAtClose_touches (dropRegister (keepYesterday r p))
  rw [kept] at roster
  refine ⟨y, s, ro, ?_, set⟩
  unfold rosterClosed
  rw [kept]
  exact roster

/-- The end of the day's sweeps, bells and first arrivals (R25, R110, R144, R195). -/
theorem endOfDay_touches (c : Clock) (p : Part) : ∃ a due next, activityAtClose c (dropDay (sweepsAtClose p)) = { p with
      sweeps := sweepsClosed p.sweeps, bells.ring := [], bells.today := none
      desk.firstArrivals := [], desk.cycleNext := next, zbus.pollDue := due, hl.activity := a } ∧
    (p.hl.activity = .active → a = .quiet) := by
  obtain ⟨a, due, next, active, quiet⟩ := activityAtClose_touches c (dropDay (sweepsAtClose p))
  exact ⟨a, due, next, active, quiet⟩

/-- All that the close touches after the outbox. -/
theorem afterOutbox_touches (c : Clock) (d : Date) (p : Part) : ∃ s ro a due next,
    activityAtClose c (dropDay (sweepsAtClose (purgeExcuses d p))) = { p with
      work.excuses := p.work.excuses.filter (fun e => decide (d < e.date)), store := s, roster := ro
      sweeps := sweepsClosed p.sweeps, bells.ring := [], bells.today := none
      desk.firstArrivals := [], desk.cycleNext := next, zbus.pollDue := due, hl.activity := a } ∧
    (p.hl.activity = .active → a = .quiet) := by
  obtain ⟨s, ro, purged⟩ := purgeExcuses_touches d p
  rw [purged]
  obtain ⟨a, due, next, active, quiet⟩ := endOfDay_touches c { p with
    work.excuses := p.work.excuses.filter (fun e => decide (d < e.date)), store := s, roster := ro }
  refine ⟨s, ro, a, due, next, active, quiet⟩

end Sys2Proof.Machine
end

section
/-!
Day close, stage by stage: what each field holds at its end (R16, R17, R71, R95, R144, R158, R177).
-/

-- One declaration after another: the text is compiled as one, and a declaration that waits for others holds a thread.
set_option Elab.async false

namespace Sys2Proof.Machine

section Close

variable (c : Clock) (r : DayRecord) (p : Part)

/-- The part with the scores of the day written (R71). -/
@[irreducible] def scored : Part := scoreAll c (closing c r p)

theorem scored_eq : scored c r p = scoreAll c (raise c (.dayClose r.date)
    (advanceRota { p with day := some { r with phase := .closed, done := true } })) := by
  unfold scored closing
  rfl

/-- The part with its outbox closed (R177). -/
@[irreducible] def outboxClosed : Part := outboxAtClose c (rosterClosed r (scored c r p))

theorem outboxClosed_eq : outboxClosed c r p = outboxAtClose c (rosterClosed r (scored c r p)) := by
  unfold outboxClosed
  rfl

/-- The end of day close touches the excuses, the store, the sweeps, the bells, the first arrivals and the activity. -/
theorem dayClose_touches : ∃ s ro a due next, dayClose c r p = { outboxClosed c r p with
      work.excuses := (outboxClosed c r p).work.excuses.filter (fun e => decide (r.date < e.date)), store := s, roster := ro
      sweeps := sweepsClosed (outboxClosed c r p).sweeps, bells.ring := [], bells.today := none
      desk.firstArrivals := [], desk.cycleNext := next, zbus.pollDue := due, hl.activity := a } ∧
    ((outboxClosed c r p).hl.activity = .active → a = .quiet) := by
  have close : dayClose c r p = activityAtClose c (dropDay (sweepsAtClose (purgeExcuses r.date (outboxClosed c r p)))) := by
    rw [dayClose_eq, outboxClosed_eq, scored]
  rw [close]
  exact afterOutbox_touches c r.date (outboxClosed c r p)

theorem scored_frame : ScoreFrame (closing c r p) (scored c r p) := by
  unfold scored
  exact scoreAll_scoreFrame c _

theorem outboxClosed_frame : OutboxFrame (rosterClosed r (scored c r p)) (outboxClosed c r p) := by
  rw [outboxClosed_eq]
  exact outboxAtClose_frame c _

theorem outboxClosed_work : (outboxClosed c r p).work
    = { (scored c r p).work with slots := (scored c r p).work.slots.filter (fun e => e.2.state == .enrolled) } := by
  obtain ⟨y, s, ro, roster, _⟩ := rosterClosed_touches r (scored c r p)
  rw [(outboxClosed_frame c r p).work, roster]

theorem outboxClosed_day : (outboxClosed c r p).day = some { r with phase := .closed, done := true } := by
  obtain ⟨y, s, ro, roster, _⟩ := rosterClosed_touches r (scored c r p)
  obtain ⟨more, o, s', ro', closed, _⟩ := closing_touches c r p
  have scores := (scored_frame c r p).day
  rw [closed] at scores
  rw [(outboxClosed_frame c r p).day, roster]
  exact scores

theorem outboxClosed_register : (outboxClosed c r p).reg.register = none := by
  obtain ⟨y, s, ro, roster, _⟩ := rosterClosed_touches r (scored c r p)
  have same := (outboxClosed_frame c r p).register
  rw [roster] at same
  exact Option.not_isSome_iff_eq_none.mp (Bool.eq_false_iff.mp same)

theorem outboxClosed_excuses : (outboxClosed c r p).work.excuses = p.work.excuses := by
  obtain ⟨more, o, s, ro, closed, _⟩ := closing_touches c r p
  have scores := (scored_frame c r p).excuses
  rw [closed] at scores
  rw [outboxClosed_work]
  exact scores

theorem outboxClosed_rota : (outboxClosed c r p).work.rota = rotaAfter p.work.rota := by
  obtain ⟨more, o, s, ro, closed, _⟩ := closing_touches c r p
  have scores := (scored_frame c r p).rota
  rw [closed] at scores
  rw [outboxClosed_work]
  exact scores

theorem outboxClosed_activity : (outboxClosed c r p).hl.activity = p.hl.activity := by
  obtain ⟨y, s, ro, roster, _⟩ := rosterClosed_touches r (scored c r p)
  obtain ⟨more, o, s', ro', closed, _⟩ := closing_touches c r p
  have scores := (scored_frame c r p).activity
  rw [closed] at scores
  rw [(outboxClosed_frame c r p).link, roster]
  exact scores

/-- DAY_CLOSE is the first notice of the close. -/
theorem outboxClosed_notices (room : p.hl.notices.length < 32) :
    p.hl.notices ++ [⟨.dayClose r.date, c.stamp⟩] <+: (outboxClosed c r p).hl.notices := by
  obtain ⟨y, s, ro, roster, _⟩ := rosterClosed_touches r (scored c r p)
  obtain ⟨more, o, s', ro', closed, only⟩ := closing_touches c r p
  have scores := (scored_frame c r p).notices
  have told := (outboxAtClose_told c (rosterClosed r (scored c r p))).notices
  rw [closed, only room] at scores
  rw [← outboxClosed_eq, roster] at told
  exact scores.trans told

theorem scored_slots_length (wf : Table.wf p.work.slots = true) : (scored c r p).work.slots.length = p.work.slots.length := by
  obtain ⟨more, o, s, ro, closed, _⟩ := closing_touches c r p
  have slots : (closing c r p).work.slots = p.work.slots := by rw [closed]
  have keys := scoreAll_keys (p := closing c r p) (by rw [slots]; exact wf) c
  rw [slots] at keys
  unfold scored
  have lengths := congrArg List.length keys
  rwa [List.length_map, List.length_map] at lengths

/-- Yesterday's set keeps the counts of the register, and the number of slots (R95). -/
theorem outboxClosed_yesterday {g : Register} (h : p.reg.register = some g) : ∃ y, (outboxClosed c r p).reg.yesterday = some y ∧
    y.date = r.date ∧ y.onSite = g.onSite ∧ y.tallies = g.tallies ∧
    (Table.wf p.work.slots = true → y.nonVacant = p.work.slots.length) := by
  obtain ⟨y, s, ro, roster, kept⟩ := rosterClosed_touches r (scored c r p)
  obtain ⟨more, o, s', ro', closed, _⟩ := closing_touches c r p
  have counts := (scored_frame c r p).counts
  rw [show (closing c r p).reg.register = some g by rw [closed]; exact h] at counts
  obtain ⟨g', register, same⟩ := Option.map_eq_some_iff.mp counts
  obtain ⟨onSite, tallies⟩ := Prod.mk.inj same
  have yesterday := (outboxClosed_frame c r p).yesterday
  rw [roster, kept g' register] at yesterday
  exact ⟨_, yesterday, rfl, onSite, tallies, scored_slots_length c r p⟩

end Close

theorem withdrawAll_stale {p : Part} (ids : (p.pmu.outbox.map (·.id)).Nodup) (c : Clock) :
    (withdrawAll c OutEntry.isStale p).pmu = { p.pmu with
      outbox := p.pmu.outbox.filterMap (fun e => if e.isStale then p.pmu.withdrawn e else some e)
      offer := p.pmu.offer.filter (fun o => !(p.pmu.outbox.any (fun e => e.isStale && e.id == o.handle.id))) } :=
  withdrawAll_pmu c OutEntry.isStale p ids

end Sys2Proof.Machine

open Sys2Proof.Machine

/-- Settles O16: the fields of the part at the end of the close, and the outbox's part of it. -/
theorem dayCloseEndsTheDay : Obligations.DayCloseEndsTheDay := by
  refine ⟨fun c r p => ?_, fun c p ids => ?_⟩
  · intro t closing' scored'
    obtain ⟨s, ro, a, due, next, eq, quiet⟩ := dayClose_touches c r p
    have slots : t.work.slots = scored'.work.slots.filter (fun e => e.2.state == .enrolled) := by
      have same : t.work.slots = (outboxClosed c r p).work.slots := by rw [show t = _ from eq]
      rw [same, outboxClosed_work, scored_eq]
    refine ⟨?_, ?_, ?_, ?_, ?_, ?_, fun room => ?_, fun e mem => ?_, slots, ?_, ?_, fun x w held => ?_, ?_, fun active => ?_,
      fun g register => ?_⟩
    · rw [show t = _ from eq]
      exact outboxClosed_day c r p
    · rw [show t = _ from eq]
      exact outboxClosed_register c r p
    · rw [show t = _ from eq]
    · rw [show t = _ from eq]
    · rw [show t = _ from eq]
    · rw [show t = _ from eq]
      rfl
    · obtain ⟨more, notices⟩ := outboxClosed_notices c r p room
      refine ⟨more, ?_⟩
      rw [show t = _ from eq]
      exact notices.symm.trans (List.append_assoc _ _ _)
    · rw [slots] at mem
      exact beq_iff_eq.mp (List.mem_filter.mp mem).2
    · obtain ⟨y, s', ro', roster, _⟩ := rosterClosed_touches r (scored c r p)
      refine ⟨rosterClosed r (scored c r p), ?_, ?_⟩
      · rw [roster, show scored' = scored c r p from (scored_eq c r p).symm]
      · rw [show t = _ from eq, outboxClosed_eq]
    · rw [show t = _ from eq, ← outboxClosed_excuses c r p]
    · rw [show t = _ from eq, sweepsClosed_get?] at held
      obtain ⟨v, _, rfl⟩ := Option.map_eq_some_iff.mp held
      exact v.skipAtClose_state
    · rw [show t = _ from eq]
      exact outboxClosed_rota c r p
    · rw [show t = _ from eq]
      exact quiet ((outboxClosed_activity c r p).trans active)
    · rw [show t = _ from eq]
      exact outboxClosed_yesterday c r p register
  · intro stale n q
    have same : OutEntry.isStale = stale := funext isStale_eq
    have pmu : q.pmu = _ := withdrawAll_stale ids c
    rw [same] at pmu
    have count : (p.pmu.outbox.filter OutEntry.isStale).length = n := by rw [same]
    refine ⟨?_, ?_, ?_, ?_, ?_⟩
    · unfold outboxAtClose
      dsimp only
      rw [count]
    · rw [pmu]; rfl
    · rw [pmu]
    · rw [pmu]
    · rw [pmu]

end

section
/-!
What the load keeps of the store, and what the tests of the day and the reloaded day leave of the link, the desk, the bus and the
alert (R72, R158, R194).
-/

-- One declaration after another: the text is compiled as one, and a declaration that waits for others holds a thread.
set_option Elab.async false

namespace Sys2Proof.Machine

/-! ## The load -/

/-- An entry that passes the test is found in the filtered table as in the whole one. -/
theorem Table.get?_filter_of {α : Type} {t : Table α} {n : Nat} {a : α} {f : Nat × α → Bool} (found : Table.get? t n = some a)
    (passes : f (n, a) = true) : Table.get? (t.filter f) n = some a := by
  induction t with
  | nil => cases found
  | cons e t ih =>
    obtain ⟨j, b⟩ := e
    rw [Table.get?] at found
    split at found
    case isTrue here =>
      cases found
      cases here
      rw [List.filter_cons_of_pos passes]
      exact if_pos rfl
    case isFalse other =>
      rw [List.filter_cons]
      split
      · rw [Table.get?, if_neg other]
        exact ih found
      · exact ih found

/-- No number that was seen stands in what a load keeps, and no number twice (R72). -/
theorem dropRepeated_numbers (seen : List Nat) (l : Table Slot) :
    ((dropRepeated seen l).map (fun e => e.2.number)).Nodup ∧ ∀ e ∈ dropRepeated seen l, e.2.number ∉ seen := by
  induction l generalizing seen with
  | nil => exact ⟨List.nodup_nil, nofun⟩
  | cons e l ih =>
    unfold dropRepeated
    split
    case isTrue => exact ih seen
    case isFalse fresh =>
      obtain ⟨nodup, unseen⟩ := ih (e.2.number :: seen)
      refine ⟨List.nodup_cons.mpr ⟨fun again => ?_, nodup⟩, fun f mem => ?_⟩
      · obtain ⟨f, mem, same⟩ := List.mem_map.mp again
        exact unseen f mem (same ▸ List.mem_cons_self)
      · rcases List.mem_cons.mp mem with rfl | later
        · exact fun among => fresh (List.contains_iff_mem.mpr among)
        · exact fun among => unseen f later (List.mem_cons_of_mem _ among)

theorem SlotState.ne_left_iff {x : SlotState} : (x != .left) = true ↔ x = .enrolled := by
  cases x <;> decide

/-- An excuse that a load keeps is of an ENROLLED slot (R158). -/
theorem mem_enrolledExcuses {slots : Table Slot} {l : List Excuse} {e : Excuse} (mem : e ∈ lastOfEach (enrolledExcuses slots l)) :
    ∃ x, Table.get? slots e.slot = some x ∧ x.state = .enrolled := by
  have passes := (List.mem_filter.mp ((lastOfEach_sublist _).subset mem)).2
  cases found : Table.get? slots e.slot with
  | none => rw [found] at passes; cases passes
  | some x =>
    rw [found] at passes
    exact ⟨x, rfl, beq_iff_eq.mp passes⟩

/-- What a load without an open day leaves in the working copy: ENROLLED slots, their numbers once each, and their excuses. -/
theorem workOf_vacated (img : Image) :
    (∀ e ∈ (workOf false img).slots, e.2.state = .enrolled) ∧
    ((workOf false img).slots.map (fun e => e.2.number)).Nodup ∧
    ∀ e ∈ (workOf false img).excuses, ∃ x, Table.get? (workOf false img).slots e.slot = some x ∧ x.state = .enrolled := by
  refine ⟨fun e mem => SlotState.ne_left_iff.mp (List.mem_filter.mp mem).2, ?_, fun e mem => ?_⟩
  · exact (dropRepeated_numbers [] img.slots).1.sublist ((vacateLeft_sublist false _).map _)
  · obtain ⟨x, found, enrolled⟩ := mem_enrolledExcuses mem
    exact ⟨x, Table.get?_filter_of found (SlotState.ne_left_iff.mpr enrolled), enrolled⟩

/-! ## What the day leaves -/

/-- The alert, the arrival queue, the bus and the link's replies stand, and an offer stays closed. -/
structure DayFrame (p q : Part) : Prop where
  ac : q.ac = p.ac := by rfl
  queue : q.desk.queue = p.desk.queue := by rfl
  asking : q.desk.asking = p.desk.asking := by rfl
  bus : q.zbus.bus = p.zbus.bus := by rfl
  broadcast : q.zbus.broadcast = p.zbus.broadcast := by rfl
  poll : q.zbus.poll = p.zbus.poll := by rfl
  reply : q.hl.reply = p.hl.reply := by rfl
  busy : q.hl.busy = p.hl.busy := by rfl
  restartAsked : q.hl.restartAsked = p.hl.restartAsked := by rfl
  lineBuffer : q.hl.lineBuffer = p.hl.lineBuffer := by rfl
  offer : p.pmu.offer = none → q.pmu.offer = none := by exact id

theorem DayFrame.refl (p : Part) : DayFrame p p := {}

theorem DayFrame.trans {p q r : Part} (a : DayFrame p q) (b : DayFrame q r) : DayFrame p r where
  ac := b.ac.trans a.ac
  queue := b.queue.trans a.queue
  asking := b.asking.trans a.asking
  bus := b.bus.trans a.bus
  broadcast := b.broadcast.trans a.broadcast
  poll := b.poll.trans a.poll
  reply := b.reply.trans a.reply
  busy := b.busy.trans a.busy
  restartAsked := b.restartAsked.trans a.restartAsked
  lineBuffer := b.lineBuffer.trans a.lineBuffer
  offer := fun h => b.offer (a.offer h)

theorem DayFrame.ite {p a b : Part} {φ : Prop} [Decidable φ] (yes : DayFrame p a) (no : DayFrame p b) :
    DayFrame p (if φ then a else b) := by
  split
  · exact yes
  · exact no

theorem OutboxFrame.dayFrame {p q : Part} (h : OutboxFrame p q) : DayFrame p q where
  ac := h.ac
  queue := by rw [h.desk]
  asking := by rw [h.desk]
  bus := by rw [h.zbus]
  broadcast := by rw [h.zbus]
  poll := by rw [h.zbus]
  reply := by rw [h.link]
  busy := by rw [h.link]
  restartAsked := by rw [h.link]
  lineBuffer := by rw [h.link]
  offer := fun closed => h.offer.elim (fun same => same.trans closed) id

theorem scoreSlot_dayFrame (c : Clock) (n : Nat) (x : Slot) (d : SlotDay) (p : Part) : DayFrame p (scoreSlot c n x d p) := by
  rw [scoreSlot_eq]
  refine (show DayFrame p (p.setSlot n { x with
    score := newScore p.work.policy.d x.score d.lateness
    level := p.work.policy.level x.level (newScore p.work.policy.d x.score d.lateness) }) from {}).trans ?_
  exact DayFrame.ite (createOrReport_frame c _ _).dayFrame (DayFrame.ite (raise_frame c _ _).dayFrame (.refl _))

theorem scoreAll_dayFrame (c : Clock) (p : Part) : DayFrame p (scoreAll c p) := by
  have fold : ∀ (l : List (Nat × Slot)) (q : Part), DayFrame q (l.foldl (scoreStep c p.dayOf) q) := by
    intro l
    induction l with
    | nil => exact fun q => .refl q
    | cons e l ih => exact fun q => (DayFrame.ite (scoreSlot_dayFrame c _ _ _ q) (.refl q)).trans (ih _)
  exact fold p.work.slots p

theorem closing_dayFrame (c : Clock) (r : DayRecord) (p : Part) : DayFrame p (closing c r p) := by
  obtain ⟨more, o, s, ro, eq, _⟩ := closing_touches c r p
  rw [eq]
  exact {}

theorem rosterClosed_dayFrame (r : DayRecord) (p : Part) : DayFrame p (rosterClosed r p) := by
  obtain ⟨y, s, ro, eq, _⟩ := rosterClosed_touches r p
  rw [eq]
  exact {}

theorem dayClose_dayFrame (c : Clock) (r : DayRecord) (p : Part) : DayFrame p (dayClose c r p) := by
  obtain ⟨s, ro, a, due, next, eq, _⟩ := dayClose_touches c r p
  have ended : DayFrame (outboxClosed c r p) (dayClose c r p) := by
    rw [eq]
    exact {}
  have scores : DayFrame (closing c r p) (scored c r p) := by
    unfold scored
    exact scoreAll_dayFrame c _
  exact (closing_dayFrame c r p).trans (scores.trans
    ((rosterClosed_dayFrame r _).trans ((outboxClosed_frame c r p).dayFrame.trans ended)))

theorem dayOpen_dayFrame (c : Clock) (r : DayRecord) (n : Nat) (p : Part) : DayFrame p (dayOpen c r n p) := by
  obtain ⟨first, later, o, due, next, _, eq⟩ := dayOpen_touches c r n p
  rw [eq]
  exact {}

theorem tryOpen_dayFrame (c : Clock) (p : Part) : DayFrame p (tryOpen c p) := by
  unfold tryOpen
  split
  · exact .refl p
  · split
    · exact DayFrame.ite (dayOpen_dayFrame c _ _ p) (.refl p)
    · exact .refl p

theorem closeNow_dayFrame (c : Clock) (p : Part) : DayFrame p (closeNow c p) := by
  unfold closeNow
  split
  · exact DayFrame.ite (dayClose_dayFrame c _ p) (.refl p)
  · exact .refl p

theorem evaluateAndTest_dayFrame (c : Clock) (p : Part) : DayFrame p (evaluateAndTest c p) := by
  unfold evaluateAndTest
  split
  · exact .refl p
  case h_2 x _ =>
    exact (show DayFrame p (evaluate x.date p) from {}).trans ((tryOpen_dayFrame c _).trans (closeNow_dayFrame c _))

theorem tryClose_dayFrame (c : Clock) (p : Part) : DayFrame p (tryClose c p) := by
  unfold tryClose
  split
  · exact .refl p
  · exact DayFrame.ite ((dayClose_dayFrame c _ p).trans (evaluateAndTest_dayFrame c _)) (closeNow_dayFrame c p)

theorem dayTests_dayFrame (c : Clock) (p : Part) : DayFrame p (dayTests c p) :=
  (tryOpen_dayFrame c p).trans (tryClose_dayFrame c _)

end Sys2Proof.Machine
end

section
/-!
The ring table rebuilt at a warm restart: what it is made of, what is told, and what passes or is reached (R31, R32, R41, R48).
-/

-- One declaration after another: the text is compiled as one, and a declaration that waits for others holds a thread.
set_option Elab.async false

namespace Sys2Proof.Machine

/-! ## The rebuilt table -/

/-- The entries built from today's copy, with the early close applied (R41, log 20). -/
def Bells.freshRing (t : Today) (b : Bells) : List RingEntry :=
  match t.early with
  | none => (b.built { t with early := none } t.openReading).ring
  | some x => ((b.built { t with early := none } t.openReading).closeEarly t x).ring

/-- Every built entry with the state of the old one of its key (R41). -/
def Bells.remade (c : Clock) (t : Today) (b : Bells) : List RingEntry :=
  (b.freshRing t).map (fun e => match b.ring.find? (fun o => o.key == e.key) with
    | some o => o.carry c e
    | none => e)

/-- The old entries carried over whole (R41, log 48). -/
def Bells.carriedRing (c : Clock) (t : Today) (b : Bells) : List RingEntry :=
  (b.ring.filter (RingEntry.carriedWhole (b.remade c t))).map (fun o => o.carry c o)

/-- All entries of the rebuilt table, before they are put in order. -/
def Bells.restartTable (c : Clock) (t : Today) (b : Bells) : List RingEntry :=
  b.remade c t ++ (b.carriedRing c t).take (192 - (b.remade c t).length)

theorem Bells.rebuilt_ring (c : Clock) (t : Today) (b : Bells) : (b.rebuilt c t).ring = sortBy RingEntry.le (b.restartTable c t) := by
  unfold Bells.restartTable Bells.carriedRing Bells.remade Bells.freshRing Bells.rebuilt
  cases t.early <;> rfl

theorem Bells.rebuilt_pendingDelay (c : Clock) (t : Today) (b : Bells) : (b.rebuilt c t).pendingDelay = b.pendingDelay := by
  unfold Bells.rebuilt
  dsimp only
  cases t.early with
  | none => rfl
  | some x =>
    obtain ⟨_, pending, _⟩ := Bells.closeEarly_rest t x (b.built { t with early := none } t.openReading)
    exact pending

/-! ## What passes and what is reached -/

/-- A DUE entry passes where the zone is absent (R23, R41). -/
def RingEntry.absentPassed (absent : Nat → Bool) (e : RingEntry) : RingEntry :=
  if e.state = .due ∧ absent e.zone then e.pass else e

/-- What becomes of an entry at the end of the rebuild (R31, R32, R41). -/
def restartEntry (c : Clock) (p : Part) (e : RingEntry) : RingEntry :=
  RingEntry.settled c (p.now c) p.armed (RingEntry.absentPassed (fun z => (p.zoneState z).isNone) e)

theorem restartEntry_place (c : Clock) (p : Part) (e : RingEntry) :
    (restartEntry c p e).time = e.time ∧ (restartEntry c p e).zone = e.zone ∧ (restartEntry c p e).stamp = e.stamp := by
  unfold restartEntry RingEntry.settled RingEntry.absentPassed RingEntry.reached RingEntry.pass
  split_ifs <;> exact ⟨rfl, rfl, rfl⟩

/-- An entry passes when it is DUE without a zone or PENDING before the clock, and is reached when PENDING at the clock. -/
theorem restartEntry_eq (c : Clock) (p : Part) (e : RingEntry) : restartEntry c p e =
    if (e.state = .due ∧ p.zoneState e.zone = none) ∨ (e.state = .pending ∧ e.time < p.now c) then
      { e with state := .passed, dueSince := none }
    else if e.state = .pending ∧ e.time = c.second then
      (if p.zoneState e.zone = some (.up .armed) then { e with state := .due, dueSince := some c.crystal }
       else { e with state := .passed })
    else e := by
  unfold restartEntry RingEntry.absentPassed
  by_cases absent : e.state = .due ∧ p.zoneState e.zone = none
  · rw [if_pos (show e.state = .due ∧ (p.zoneState e.zone).isNone = true from ⟨absent.1, by rw [absent.2]; rfl⟩), if_pos (.inl absent)]
    unfold RingEntry.settled
    have gone {φ : Prop} : ¬ (e.pass.state = .pending ∧ φ) := fun h => nomatch h.1
    rw [if_neg gone, if_neg gone]
    rfl
  · rw [if_neg (by rw [Option.isNone_iff_eq_none]; exact absent)]
    unfold RingEntry.settled
    by_cases late : e.state = .pending ∧ e.time < p.now c
    · rw [if_pos late, if_pos (.inr late)]
      rfl
    · rw [if_neg late, if_neg (not_or.mpr ⟨absent, late⟩)]
      unfold RingEntry.reached Part.armed
      simp only [beq_iff_eq]

/-- The PENDING entries before the clock in a table. -/
def missedIn (now : Nat) (l : List RingEntry) : Nat := (l.filter (fun e => e.state == .pending && decide (e.time < now))).length

theorem missedIn_perm {l m : List RingEntry} (h : l.Perm m) (now : Nat) : missedIn now l = missedIn now m :=
  (h.filter _).length_eq

/-- The passing of DUE entries leaves the PENDING ones. -/
theorem missedIn_absentPassed (now : Nat) (absent : Nat → Bool) (l : List RingEntry) :
    missedIn now (l.map (RingEntry.absentPassed absent)) = missedIn now l := by
  unfold missedIn
  rw [List.filter_map, List.length_map]
  refine congrArg List.length (List.filter_congr fun e _ => ?_)
  unfold Function.comp RingEntry.absentPassed
  split
  case isTrue due => rw [due.1]; rfl
  case isFalse => rfl

/-- The notice of the entries missed in a table, if any. -/
def toldMissing (c : Clock) (n : Nat) (p : Part) : Part := if n = 0 then p else raise c (.bellMissedBuild n) p

theorem toldMissed_bells (c : Clock) (p : Part) (b : Bells) : toldMissed c { p with bells := b }
    = { toldMissing c (missedIn (p.now c) b.ring) p with bells := b } := by
  have count : missedEntries c { p with bells := b } = missedIn (p.now c) b.ring := rfl
  unfold toldMissed toldMissing
  rw [count]
  split
  case isTrue => rfl
  case isFalse =>
    unfold raise
    dsimp only
    split <;> rfl

/-- The rebuild touches the bells, and tells what it missed (R41). -/
theorem rebuildRing_eq (c : Clock) (t : Today) (p : Part) : rebuildRing c t p
    = { toldMissing c (missedIn (p.now c) (p.bells.restartTable c t)) p with bells := { p.bells.rebuilt c t with
        ring := (sortBy RingEntry.le (p.bells.restartTable c t)).map (restartEntry c p) } } := by
  have zones : (p.bells.rebuilt c t).zoneStates = p.bells.zoneStates := (Bells.rebuilt_rest c t p.bells).2.1
  have state (z : Nat) : Part.zoneState { p with bells := p.bells.rebuilt c t } z = p.zoneState z := by
    unfold Part.zoneState
    rw [zones]
  have passed : passAbsent { p with bells := p.bells.rebuilt c t } = { p with bells := { p.bells.rebuilt c t with
      ring := (sortBy RingEntry.le (p.bells.restartTable c t)).map
        (RingEntry.absentPassed (fun z => (p.zoneState z).isNone)) } } := by
    rw [← Bells.rebuilt_ring]
    unfold passAbsent
    simp only [state]
    rfl
  have armed : Part.armed { p with bells := { p.bells.rebuilt c t with
      ring := (sortBy RingEntry.le (p.bells.restartTable c t)).map
        (RingEntry.absentPassed (fun z => (p.zoneState z).isNone)) } } = p.armed := by
    funext z
    unfold Part.armed
    rw [← state z]
    rfl
  unfold rebuildRing
  rw [passed, reachAt_passEarlier, armed, toldMissed_bells]
  dsimp only
  rw [missedIn_absentPassed, missedIn_perm (sortBy_perm _ _), List.map_map]
  rfl

end Sys2Proof.Machine
end

section
/-!
The register, the sweeps and the open day over a warm restart, and the bus after it (R55, R96, R133).
-/

-- One declaration after another: the text is compiled as one, and a declaration that waits for others holds a thread.
set_option Elab.async false

namespace Sys2Proof.Machine

/-! ## The register made afresh -/

/-- The register of a warm restart whose marked periods differ, before the withdrawals (R96). -/
def renewedAtRestart (c : Clock) (t : Today) (p : Part) : Part :=
  p.onRegister (fun r => r.renew p.work.slots t.plan.marked .recovery (fun z _ => t.plan.marked.map (freshMark c t z)))

theorem registerAfterRestart_eq (c : Clock) (t : Today) (p : Part) : registerAfterRestart c t p
    = withdrawAll c (fun e => e.kind == .absence || e.kind == .late) (renewedAtRestart c t p) := rfl

/-- The records of a renewed slot are made by the maker. -/
theorem renewSlots_marks {mk : Nat → List Mark → List Mark} {old : Table SlotDay} {q : Nat} {l : Table Slot} {e : Nat × SlotDay}
    (mem : e ∈ (renewSlots mk old q l).1) : ∃ z marks, e.2.marks = mk z marks := by
  induction l generalizing q with
  | nil => cases mem
  | cons a l ih =>
    rcases List.mem_cons.mp mem with rfl | later
    · exact ⟨_, _, rfl⟩
    · exact ih later

theorem freshMark_notice (c : Clock) (t : Today) (z : Nat) (m : MarkedPeriod) : (freshMark c t z m).notice = freshNotice m := by
  unfold freshMark
  split <;> rfl

/-- Right after it is made no record waits for a notice. -/
theorem renewedAtRestart_nonePending (c : Clock) (t : Today) (p : Part) : NonePending (renewedAtRestart c t p) := by
  intro n x m found
  obtain ⟨h, d, register, _, held, mark⟩ := regMark?_found found
  obtain ⟨g, _, rfl⟩ := Option.map_eq_some_iff.mp register
  obtain ⟨z, marks, made⟩ := renewSlots_marks (Table.mem_of_get? held)
  have among : m ∈ d.marks := List.mem_of_find?_eq_some mark
  rw [show d.marks = _ from made] at among
  obtain ⟨k, _, rfl⟩ := List.mem_map.mp among
  rw [freshMark_notice]
  unfold freshNotice
  cases k.reg <;> nofun

/-- The register after the restart is the one made, since nothing waits in it (R96). -/
theorem registerAfterRestart_reg (c : Clock) (t : Today) (p : Part) :
    (registerAfterRestart c t p).reg = (renewedAtRestart c t p).reg :=
  withdrawAll_reg_idle (renewedAtRestart_nonePending c t p) c _

/-! ## The open day -/

/-- What the restart of the day leaves, the contacts in flight and yesterday's set with it. -/
structure RestartFrame (p q : Part) : Prop extends DayFrame p q where
  inflight : q.pmu.inflight = p.pmu.inflight := by rfl
  gateway : q.pmu.gateway = p.pmu.gateway := by rfl
  lastSend : q.pmu.lastSend = p.pmu.lastSend := by rfl
  yesterday : q.reg.yesterday = p.reg.yesterday := by rfl

theorem RestartFrame.refl (p : Part) : RestartFrame p p := {}

theorem RestartFrame.trans {p q r : Part} (a : RestartFrame p q) (b : RestartFrame q r) : RestartFrame p r :=
  { a.toDayFrame.trans b.toDayFrame with
    inflight := b.inflight.trans a.inflight, gateway := b.gateway.trans a.gateway, lastSend := b.lastSend.trans a.lastSend
    yesterday := b.yesterday.trans a.yesterday }

theorem OutboxFrame.restartFrame {p q : Part} (h : OutboxFrame p q) : RestartFrame p q :=
  { h.dayFrame with inflight := h.inflight, gateway := h.gateway, lastSend := h.lastSend, yesterday := h.yesterday }

theorem toldMissing_touches (c : Clock) (n : Nat) (p : Part) :
    ∃ more o, toldMissing c n p = { p with hl.notices := p.hl.notices ++ more, hl.overflow := o } := by
  unfold toldMissing
  split
  case isTrue => exact ⟨[], p.hl.overflow, by rw [List.append_nil]⟩
  case isFalse =>
    obtain ⟨more, o, eq, _⟩ := raise_touches c (.bellMissedBuild n) p
    exact ⟨more, o, eq⟩

theorem rebuildRing_touches (c : Clock) (t : Today) (p : Part) : ∃ b more o,
    rebuildRing c t p = { p with bells := b, hl.notices := p.hl.notices ++ more, hl.overflow := o } := by
  obtain ⟨more, o, told⟩ := toldMissing_touches c (missedIn (p.now c) (p.bells.restartTable c t)) p
  rw [rebuildRing_eq, told]
  exact ⟨_, more, o, rfl⟩

theorem rebuildRing_frame (c : Clock) (t : Today) (p : Part) : RestartFrame p (rebuildRing c t p) := by
  obtain ⟨b, more, o, eq⟩ := rebuildRing_touches c t p
  rw [eq]
  exact {}

theorem sweepsAfterTimes_frame (c : Clock) (t : Today) (p : Part) : RestartFrame p (sweepsAfterTimes c t p) := by
  obtain ⟨l, eq, _⟩ := sweepsAfterTimes_touches c t p
  rw [eq]
  exact {}

theorem registerAfterRestart_frame (c : Clock) (t : Today) (p : Part) : RestartFrame p (registerAfterRestart c t p) :=
  (show RestartFrame p (renewedAtRestart c t p) from {}).trans (withdrawAll_frame c _ _).restartFrame

theorem restartRegister_frame (c : Clock) (before after : Today) (p : Part) : RestartFrame p (restartRegister c before after p) := by
  unfold restartRegister
  have kept : RestartFrame p (p.onRegister (fun g => { g.keepSlots p.work.slots with exporting := none })) := {}
  refine kept.trans ?_
  dsimp only
  split
  · exact (cancellationWrites_frame c before after _).restartFrame.trans (sweepsAfterTimes_frame c after _)
  · exact (registerAfterRestart_frame c after _).trans {}

theorem restartDay_frame (c : Clock) (p : Part) : RestartFrame p (restartDay c p) := by
  unfold restartDay
  split
  · exact (rebuildRing_frame c _ p).trans (restartRegister_frame c _ _ _)
  · exact .refl p

theorem restartDay_closed {p : Part} (closed : p.openDay = none) (c : Clock) : restartDay c p = p := by
  unfold restartDay
  rw [closed]

theorem restartDay_open {p : Part} {r : DayRecord} {t : Today} (opened : p.openDay = some r) (today : p.bells.today = some t)
    (c : Clock) : restartDay c p
      = restartRegister c t (copyAfresh p.work r t) (rebuildRing c (copyAfresh p.work r t) p) := by
  unfold restartDay
  rw [opened, today]

/-- The kept register of a rebuilt part is made of the register and the slots before (log 29). -/
theorem restartRegister_rebuilt (c : Clock) (before after : Today) (p : Part) :
    restartRegister c before after (rebuildRing c after p) =
      if p.reg.register.map (·.periods) = some after.plan.marked then
        sweepsAfterTimes c after (cancellationWrites c before after { rebuildRing c after p with
          reg.register := p.reg.register.map (fun g => { g.keepSlots p.work.slots with exporting := none }) })
      else makeSweeps c after (registerAfterRestart c after { rebuildRing c after p with
          reg.register := p.reg.register.map (fun g => { g.keepSlots p.work.slots with exporting := none }) }) := by
  obtain ⟨b, more, o, eq⟩ := rebuildRing_touches c after p
  rw [eq]
  unfold restartRegister Part.onRegister Part.register?
  dsimp only
  rw [Option.map_map]
  rfl

/-! ## The bus -/

theorem busAtRestart_quiet {p : Part} (h : p.ac.alert = none) (c : Clock) : busAtRestart c p = { p with
    zbus.broadcast := none, zbus.poll := none, zbus.pollDue := c.crystal, zbus.bus := .idle
    out := p.out ++ (if p.work.presentMembers.isEmpty then [] else [.stop (addresses p.work.presentMembers)]) } := by
  unfold busAtRestart Part.alertState Part.presentAddresses
  dsimp only
  rw [h, sendStop_members]
  rfl

theorem busAtRestart_alert {p : Part} {a : Alert} (h : p.ac.alert = some a) (c : Clock) : busAtRestart c p = { p with
    zbus.broadcast := none, zbus.poll := none, zbus.pollDue := c.crystal, zbus.bus := .alert
    out := p.out ++ (if p.work.presentMembers.isEmpty then []
      else [.sound (addresses p.work.presentMembers) (alertTone a.kind) none]) } := by
  unfold busAtRestart Part.alertState Part.presentAddresses
  dsimp only
  rw [h]
  dsimp only [Option.map_some]
  rw [sendSound_members]

theorem busAtRestart_touches (c : Clock) (p : Part) : ∃ l, busAtRestart c p = { p with
    zbus.broadcast := none, zbus.poll := none, zbus.pollDue := c.crystal
    zbus.bus := if p.ac.alert = none then .idle else .alert, out := l } := by
  cases alert : p.ac.alert with
  | none => exact ⟨_, busAtRestart_quiet alert c⟩
  | some a => exact ⟨_, busAtRestart_alert alert c⟩

/-! ## The reloaded part -/

/-- The part reloaded and reset, before the open day, the bus and the tests of the day (R194). -/
def restartLoaded (c : Clock) (bad : List StoreItem) (p : Part) : Part :=
  { restartZones (restartDesk (restartLink c (reload c bad p))) with ac.pinCount := 0, pmu.offer := none }

theorem restartPart_eq (c : Clock) (bad : List StoreItem) (p : Part) :
    restartPart c bad p = dayTests c (busAtRestart c (restartDay c (restartLoaded c bad p))) := rfl

/-- A notice is appended while there is room, and nothing else of the list moves (R192). -/
theorem raise_notices (c : Clock) (b : NoticeBody) (p : Part) : ∃ o, raise c b p = { p with
    hl.overflow := o
    hl.notices := if p.hl.notices.length < 32 then p.hl.notices ++ [⟨b, c.stamp⟩] else p.hl.notices } := by
  by_cases room : p.hl.notices.length < 32
  · refine ⟨p.hl.overflow, (raise_room room c b).trans ?_⟩
    rw [if_pos room]
  · refine ⟨true, (raise_full (Nat.le_of_not_lt room) c b).trans ?_⟩
    rw [if_neg room]

theorem reload_touches (c : Clock) (bad : List StoreItem) (p : Part) : ∃ o, reload c bad p = { p with
    work := (load bad p.isOpen p.store).work, store := (load bad p.isOpen p.store).store
    roster := { p.roster with unsaved := [], defaulted := (load bad p.isOpen p.store).defaulted }
    hl.overflow := o
    hl.notices := if p.hl.notices.length < 32 then
        p.hl.notices ++ [⟨.start true (load bad p.isOpen p.store).defaulted, c.stamp⟩] else p.hl.notices } :=
  raise_notices c _ _

/-- All that the reload touches. -/
theorem restartLoaded_touches (c : Clock) (bad : List StoreItem) (p : Part) : ∃ o due next stations faults,
    restartLoaded c bad p = { p with
      work := (load bad p.isOpen p.store).work, store := (load bad p.isOpen p.store).store
      roster := { p.roster with unsaved := [], defaulted := (load bad p.isOpen p.store).defaulted }
      bells.zoneStates := Vector.ofFn (fun i =>
        restartedZone { p with work := (load bad p.isOpen p.store).work } i.val)
      zbus.faults := faults, zbus.pollDue := due
      desk := { p.desk with stations := stations, queue := [], toPoll := [], asking := none, cycleNext := next }
      ac.pinCount := 0, pmu.offer := none
      hl := { p.hl with
        lineBuffer := [], reply := none, busy := none, service := none, restartAsked := false, dormantAsked := .none
        activity := if p.isOpen then .active else .quiet, overflow := o
        notices := if p.hl.notices.length < 32 then
          p.hl.notices ++ [⟨.start true (load bad p.isOpen p.store).defaulted, c.stamp⟩] else p.hl.notices } } := by
  obtain ⟨o, loaded⟩ := reload_touches c bad p
  obtain ⟨due, next, active⟩ := setActivity_touches c (if (reload c bad p).isOpen then .active else .quiet) (reload c bad p)
  refine ⟨o, due, next, (restartDesk (restartLink c (reload c bad p))).desk.stations,
    (restartZones (restartDesk (restartLink c (reload c bad p)))).zbus.faults, ?_⟩
  unfold restartLoaded restartZones restartDesk restartLink
  dsimp only
  rw [active, loaded]
  rfl

theorem restartedZone_eq (p : Part) (z : Nat) : restartedZone p z = if (p.work.zone z).present then
    some ((p.zoneState z).getD (.up (if p.ac.alert = none then .armed else .silenced))) else none := by
  unfold restartedZone Part.newZoneState Part.noAlert
  simp only [Option.isNone_iff_eq_none]
  cases p.zoneState z <;> rfl

end Sys2Proof.Machine
end

section
/-!
The cold start and the warm restart, piece by piece (R41, R55, R72, R96, R114, R178, R194).
-/

-- One declaration after another: the text is compiled as one, and a declaration that waits for others holds a thread.
set_option Elab.async false

namespace Sys2Proof.Machine

/-! ## The warm restart as an event -/

theorem warmRestart_early {s : State} (h : s.part.hl.restartAsked = false ∨ s.part.hl.reply ≠ none ∨ s.part.hl.busy ≠ none)
    (bad : List StoreItem) (ws : List Bool) : exec (.warmRestart bad ws) s = .next (left s (met s ws)) := by
  have waits : (met s ws).restartReady = false := by
    unfold met Part.restartReady
    rcases h with unasked | reply | busy
    · simp [unasked]
    · simp [Option.isNone_eq_false_iff.mpr (Option.isSome_iff_ne_none.mpr reply)]
    · simp [Option.isNone_eq_false_iff.mpr (Option.isSome_iff_ne_none.mpr busy)]
  exact next_left (q := met s ws) (if_neg (Bool.eq_false_iff.mp waits))

theorem warmRestart_ready {s : State} (asked : s.part.hl.restartAsked = true) (reply : s.part.hl.reply = none)
    (busy : s.part.hl.busy = none) (bad : List StoreItem) (ws : List Bool) : exec (.warmRestart bad ws) s
      = .next (left s (dayTests s.clock (busAtRestart s.clock (restartDay s.clock (restartLoaded s.clock bad (met s ws)))))) := by
  have ready : (met s ws).restartReady = true := by
    unfold met Part.restartReady
    simp [asked, reply, busy]
  exact next_left ((if_pos ready).trans (restartPart_eq s.clock bad (met s ws)))

/-- What the restart leaves closed, empty or standing, after the open day, the bus and the tests of the day. -/
theorem restartPart_ends (c : Clock) (bad : List StoreItem) (p : Part) :
    let q := dayTests c (busAtRestart c (restartDay c (restartLoaded c bad p)))
    q.ac = { p.ac with pinCount := 0 } ∧ q.desk.queue = [] ∧ q.desk.asking = none ∧ q.pmu.offer = none ∧
      q.zbus.broadcast = none ∧ q.zbus.poll = none ∧ q.zbus.bus = (if p.ac.alert = none then .idle else .alert) ∧
      q.hl.reply = none ∧ q.hl.busy = none ∧ q.hl.restartAsked = false ∧ q.hl.lineBuffer = [] := by
  obtain ⟨o, due, next, stations, faults, loaded⟩ := restartLoaded_touches c bad p
  have day := (restartDay_frame c (restartLoaded c bad p)).toDayFrame
  obtain ⟨l, bus⟩ := busAtRestart_touches c (restartDay c (restartLoaded c bad p))
  have tests := dayTests_dayFrame c (busAtRestart c (restartDay c (restartLoaded c bad p)))
  generalize restartDay c (restartLoaded c bad p) = d at day bus tests
  generalize busAtRestart c d = b at bus tests
  generalize dayTests c b = q at tests
  have ac : d.ac = { p.ac with pinCount := 0 } := by rw [day.ac, loaded]
  refine ⟨?_, ?_, ?_, tests.offer ?_, ?_, ?_, ?_, ?_, ?_, ?_, ?_⟩
  · rw [tests.ac, bus, ← ac]
  · rw [tests.queue, bus, day.queue, loaded]
  · rw [tests.asking, bus, day.asking, loaded]
  · rw [bus]
    exact day.offer (by rw [loaded])
  · rw [tests.broadcast, bus]
  · rw [tests.poll, bus]
  · rw [tests.bus, bus, ac]
  · rw [tests.reply, bus, day.reply, loaded]
  · rw [tests.busy, bus, day.busy, loaded]
  · rw [tests.restartAsked, bus, day.restartAsked, loaded]
  · rw [tests.lineBuffer, bus, day.lineBuffer, loaded]

/-! ## The register and the sweeps made afresh -/

/-- The register of a warm restart whose marked periods differ (R80, R96, log 55). -/
theorem registerAfterRestart_register {p : Part} {g : Register} (h : p.reg.register = some g) (c : Clock) (t : Today) :
    (registerAfterRestart c t p).reg.register = some (g.renew p.work.slots t.plan.marked .recovery
      (fun z _ => t.plan.marked.map (freshMark c t z))) := by
  rw [registerAfterRestart_reg]
  unfold renewedAtRestart
  rw [onRegister_register, h]
  rfl

theorem presence_getD_fresh (g : Register) (n : Nat) :
    ((Table.get? g.slots n).getD SlotDay.fresh).presence = ((g.slot? n).map (·.presence)).getD .notArrived := by
  unfold Register.slot?
  cases Table.get? g.slots n <;> rfl

end Sys2Proof.Machine

open Sys2Proof.Machine

/-- Settles O55: the load, the frames of what follows it, the rebuilt table entry by entry, and the register made afresh. -/
theorem coldStartClearsWarmRestartKeeps : Obligations.ColdStartClearsWarmRestartKeeps := by
  refine ⟨fun bad s => ⟨rfl, workOf_vacated _⟩, fun s bad ws => ⟨fun early => warmRestart_early early bad ws, fun asked reply busy => ?_⟩,
    fun s bad ws asked reply busy => ?_, fun c p => ?_, fun c q => ⟨fun closed => restartDay_closed closed c, fun r t opened today => ?_⟩,
    fun c t p => ?_, fun c t p g register ids => ?_, fun c t p => ?_, fun c q => ?_⟩
  · obtain ⟨ac, queue, asking, offer, broadcast, poll, bus, reply', busy', restartAsked, lineBuffer⟩ :=
      restartPart_ends s.clock bad (met s ws)
    exact ⟨_, warmRestart_ready asked reply busy bad ws, rfl, rfl, congrArg (·.alert) ac, congrArg (·.pinCount) ac, queue, asking,
      offer, broadcast, poll, bus, reply', busy', restartAsked, lineBuffer⟩
  · intro c l
    obtain ⟨o, due, next, stations, faults, loaded⟩ := restartLoaded_touches c bad (met s ws)
    refine ⟨restartLoaded c bad (met s ws), warmRestart_ready asked reply busy bad ws, ?_⟩
    rw [loaded]
    refine ⟨rfl, rfl, rfl, rfl, rfl, rfl, rfl, rfl, rfl, rfl, fun z bound => ?_, rfl, rfl, rfl, rfl, ?_, rfl, rfl, rfl, rfl⟩
    · refine (vector_getD_ofFn _ none bound).trans ?_
      exact restartedZone_eq _ z
    · show (if s.part.isOpen = true then _ else _) = _
      unfold Part.isOpen
      cases s.part.openDay <;> rfl
  · intro members q
    refine ⟨fun quiet => ?_, fun a alert => ?_⟩
    · rw [busAtRestart_quiet quiet]
      simp only [List.isEmpty_iff]
      rfl
    · rw [busAtRestart_alert alert]
      simp only [List.isEmpty_iff]
      rfl
  · intro after k
    have all := (restartDay_open opened today c).trans (restartRegister_rebuilt c t (copyAfresh q.work r t) q)
    refine ⟨fun same => all.trans (if_pos same), fun differ => all.trans (if_neg differ)⟩
  · intro base fresh carry same made whole table missed final q
    have table' : table = p.bells.restartTable c t := by
      unfold Bells.restartTable Bells.carriedRing Bells.remade Bells.freshRing RingEntry.carriedWhole
      simp only [RingEntry.key_beq]
      rfl
    have final' : final = restartEntry c p := funext fun e => (restartEntry_eq c p e).symm
    have eq : q = _ := rebuildRing_eq c t p
    have ring : q.bells.ring = (sortBy RingEntry.le table).map final := by rw [eq, table', final']
    obtain ⟨today, zones, _⟩ := Bells.rebuilt_rest c t p.bells
    refine ⟨?_, ?_, ?_, ?_, ?_, ?_⟩
    · rw [ring]
      exact (sortBy_perm _ _).map _
    · rw [ring, final']
      exact RingEntry.ordered_map (restartEntry_place c p) (sortBy_ordered _)
    · rw [eq, ← table']
      rfl
    · rw [eq]
      exact today
    · rw [eq]
      exact Bells.rebuilt_pendingDelay c t p.bells
    · rw [eq]
      exact zones
  · intro gone q
    refine ⟨⟨_, registerAfterRestart_register register c t, rfl, rfl, rfl, rfl, rfl, ?_, fun small => ?_⟩, ?_, ?_⟩
    · have keys := congrArg List.length (renewSlots_keys (fun z _ => t.plan.marked.map (freshMark c t z)) g.slots g.changes p.work.slots)
      rwa [List.length_map, List.length_map] at keys
    · obtain ⟨changes, _, slots⟩ := renewSlots_all (fun z _ => t.plan.marked.map (freshMark c t z)) g.slots p.work.slots g.changes small
      refine ⟨changes, fun i n x at' => (slots i n x at').trans ?_⟩
      rw [presence_getD_fresh]
      refine congrArg (fun l => some (n, SlotDay.mk l _ _)) (List.map_congr_left fun m _ => freshMark_eq c t x.zone m)
    · exact (registerAfterRestart_frame c t p).yesterday
    · exact withdrawAll_pmu c gone (renewedAtRestart c t p) ids
  · intro q
    refine ⟨⟨_, _, rfl⟩, fun x absent => ?_, fun x k number => ?_⟩
    · exact (makeSweeps_get? ..).trans (by rw [absent]; rfl)
    · intro w recovery
      obtain ⟨cancelled, late, waiting⟩ := makeSweeps_cases number c p
      refine ⟨cancelled, fun n cutoff hold => late n cutoff ((recoveryHold_iff p).mpr hold.1) hold.2, fun n cutoff free =>
        waiting n cutoff fun hold => free ⟨(recoveryHold_iff p).mp hold.1, hold.2⟩⟩
  · have frame := restartDay_frame c q
    exact ⟨frame.inflight, frame.gateway, frame.lastSend, frame.yesterday⟩

end
